-- ==== Sys2Proof/Word.lean ====
section
/-! DEFINITION. The words of the EN4 and its plainest data shapes (00_scope.md R6, 01_address_spaces.md R9). -/
namespace Sys2Proof

/-- A 64-bit register or task scalar (R6). -/
abbrev Word := BitVec 64

/-- The smallest addressable unit. -/
abbrev Byte := BitVec 8

/-- Sparse data by number: key and value pairs, keys strictly rising, no value equal to what an unlisted key
reads as. `SMap Byte` is a list of `Host.Cell`. -/
abbrev SMap (α : Type) := List (Nat × α)

/-- A virtual address (R9): space number VA[79:64] and offset VA[63:0]. -/
structure VA where
  space : BitVec 16
  off : Word
  deriving DecidableEq, Repr

/-- The VA as one 80-bit number. -/
def VA.toNat (v : VA) : Nat := v.space.toNat * 2 ^ 64 + v.off.toNat

/-- The VA that an 80-bit number names. -/
def VA.ofNat (n : Nat) : VA := ⟨BitVec.ofNat 16 (n / 2 ^ 64), BitVec.ofNat 64 n⟩

end Sys2Proof
end

