-- ==== Sys2Proof/Machine/Maps.lean ====
section
/-! DEFINITION. Sparse maps and bytes: lookup and update by number, memory in its canonical form (addresses strictly
rising, no byte that reads as an unlisted address reads: 0, notes/assumptions/2.md), little-endian words (R10). -/
namespace Sys2Proof.Machine

/-- The value at a key, or what an unlisted key reads as. -/
def mget {α : Type} (d : α) : SMap α → Nat → α
  | [], _ => d
  | (k, v) :: m, a => if k = a then v else mget d m a

/-- The value listed at a key. -/
def mget? {α : Type} : SMap α → Nat → Option α
  | [], _ => none
  | (k, v) :: m, a => if k = a then some v else mget? m a

/-- A map with a value put at a key, keys rising. -/
def mput {α : Type} : SMap α → Nat → α → SMap α
  | [], a, w => [(a, w)]
  | (k, v) :: m, a, w => if a < k then (a, w) :: (k, v) :: m else if a = k then (a, w) :: m else (k, v) :: mput m a w

/-- A map without a key. -/
def mdel {α : Type} : SMap α → Nat → SMap α
  | [], _ => []
  | (k, v) :: m, a => if k = a then m else (k, v) :: mdel m a

/-- The listed keys. -/
def mkeys {α : Type} (m : SMap α) : List Nat := m.map Prod.fst

/-- The entries with their values changed. -/
def mmap {α : Type} (f : Nat → α → α) (m : SMap α) : SMap α := m.map fun p => (p.1, f p.1 p.2)

/-- Keys strictly rising. -/
def mrising {α : Type} : SMap α → Bool
  | [] => true
  | [_] => true
  | (a, _) :: (b, w) :: m => a < b && mrising ((b, w) :: m)

/-- The canonical form of a memory. -/
def Memory.wf (m : SMap Byte) : Bool := mrising m && m.all fun p => p.2 != 0

/-- One byte of a memory. -/
def Memory.get (m : SMap Byte) (a : Nat) : Byte := mget 0 m a

/-- A memory with one byte written. -/
def Memory.set (m : SMap Byte) (a : Nat) (b : Byte) : SMap Byte := if b = 0 then mdel m a else mput m a b

/-- Bytes from an address on, at addresses that `f` gives. -/
def Memory.read (m : SMap Byte) (a : Nat) : Nat → List Byte
  | 0 => []
  | n + 1 => Memory.get m a :: Memory.read m (a + 1) n

/-- A memory with bytes written from an address on. -/
def Memory.write (m : SMap Byte) (a : Nat) : List Byte → SMap Byte
  | [] => m
  | b :: bs => Memory.write (Memory.set m a b) (a + 1) bs

/-- The little-endian number of a list of bytes (R10). -/
def leNat : List Byte → Nat
  | [] => 0
  | b :: bs => b.toNat + 256 * leNat bs

/-- A number as n little-endian bytes. -/
def leBytes : Nat → Nat → List Byte
  | 0, _ => []
  | n + 1, v => BitVec.ofNat 8 v :: leBytes n (v / 256)

/-- Field [lo + n − 1 : lo] of a number. -/
def bits (v lo n : Nat) : Nat := v / 2 ^ lo % 2 ^ n

/-- Bit k of a number. -/
def nbit (v k : Nat) : Bool := v / 2 ^ k % 2 == 1

/-- A number with the field [lo + n − 1 : lo] replaced. -/
def putBits (v lo n w : Nat) : Nat := v - bits v lo n * 2 ^ lo + w % 2 ^ n * 2 ^ lo

/-- A signed number read from n bits. -/
def sgn (n v : Nat) : Int := if v % 2 ^ n < 2 ^ (n - 1) then (v % 2 ^ n : Int) else (v % 2 ^ n : Int) - 2 ^ n

/-- A number modulo 2^64. -/
def w64 (n : Nat) : Word := BitVec.ofNat 64 n

/-- An integer modulo 2^64. -/
def i64 (n : Int) : Word := BitVec.ofInt 64 n

/-- 1 or 0. -/
def b2n (b : Bool) : Nat := if b then 1 else 0

/-- The quotient rounded up. -/
def ceilDiv (a b : Nat) : Nat := (a + b - 1) / b

/-- The 32-bit words of a list of bytes. -/
def leWords : List Byte → List (BitVec 32)
  | a :: b :: c :: d :: r => BitVec.ofNat 32 (leNat [a, b, c, d]) :: leWords r
  | _ => []

/-- The 64-bit words of a list of bytes. -/
def leDwords : List Byte → List Nat
  | a :: b :: c :: d :: e :: f :: g :: h :: r => leNat [a, b, c, d, e, f, g, h] :: leDwords r
  | _ => []

/-- Element k of a list, or a default. -/
def nth {α : Type} (d : α) (l : List α) (k : Nat) : α := l.getD k d

/-- A list with element k changed. -/
def setNth {α : Type} (l : List α) (k : Nat) (a : α) : List α := l.set k a

end Sys2Proof.Machine
end

