-- ==== Sys2Proof/Config.lean ====
section
/-! DEFINITION. What the spec leaves open for good: the free values. Nothing is known of them, so a statement about one
holds whatever it is (notes/assumptions/5.md). -/
namespace Sys2Proof.Config

/-- A value that the spec calls undefined (R8): the first argument is a counter of the state, the second tells apart
the values that one step needs. -/
opaque freeValue : Nat → Nat → Word

/-- A byte that the spec calls undefined (R8). -/
opaque freeByte : Nat → Nat → Byte

/-- A byte read through a mapping whose frame another mapping maps with another HS (R47): the first argument is a counter
of the state. -/
opaque clashByte : Nat → Nat → Byte

/-- The version of a firmware image (R422): R401 gives the image's signature, and no rule where its version lies. -/
opaque fwVersion : List Byte → Nat

/-- The Breo image keys of a firmware image (R423), as uncompressed points: no rule says where they lie. -/
opaque fwKeys : List Byte → List (List Byte)

/-- The set of a cache structure of R42 or R115 in which a tag stands, by structure, ASID and tag: no rule gives the index. -/
opaque cacheSet : Nat → Nat → Nat → Nat

/-- The device identity key that the security engine derives from the fused secret and the firmware's hash (R425): no rule
says how. -/
opaque idKey : Nat → List Byte → Nat

/-- The control values that a firmware image loads at boot (R5, R78, R88, R131, R198): the NoC and boundary frame, the channel
frame of a stack (8: the LPDDR 6 controller), the phase of a channel, the routing tables, CF0 to CF3, SWTH and EPOCH. No rule says
where they lie. -/
opaque fwNetFrame : List Byte → BitVec 64
opaque fwChanFrame : List Byte → Nat → BitVec 128
opaque fwChanPhase : List Byte → Nat → Nat
opaque fwRouting : List Byte → List Byte
opaque fwCf : List Byte → Nat → Nat
opaque fwSwth : List Byte → Nat
opaque fwEpoch : List Byte → Nat

end Sys2Proof.Config
end

