-- ==== Sys2Proof/Syntax.lean ====
section
/-! DEFINITION. The steps of the EN4: one constructor per row of spec/opcode_table.json. A tile syllable carries its
operand fields and its iteration qualifier `q` (R254); the STOP bit belongs to the bundle that holds it (R255). A
task-stream instruction carries its words and the phase in which it acts (R227). An event of a tile, of a
port or of the host carries what tells it apart from others of its kind. The steps of the hub, the host's commands among
them, act on the subject that the state names (State.cur.sub: a context, a mailbox, a die, a number). -/
namespace Sys2Proof

/-- The five engines of a tile, in the order of R372's ENG field. -/
inductive Eng where
  | D | V | M | K | A
  deriving DecidableEq, Repr

/-- The causes of R368. -/
inductive Cause where
  | probe | fetch | trap | brk
  | illegal | bundle | partition | align | fwdwait | engine | poison | lease | watchdog
  | access | shared
  deriving DecidableEq, Repr

/-- What a patrol read of a granule finds (R105, R106). -/
inductive ScrubErr where
  | clean | corrected | uncorrectable
  deriving DecidableEq, Repr

/-- A task-stream instruction acts at decode, and again, once issued, when its work is done (R227). -/
inductive TPhase where
  | decode | run
  deriving DecidableEq, Repr

/-- The fields of a TLI beside its opcode (R222): the scalar fields of W0, the words W1 to W3 and the operand
descriptors in use. LEN and NOPND follow from the descriptors' number. -/
structure Tli where
  yd : BitVec 6
  ya : BitVec 6
  yb : BitVec 6
  w1 : BitVec 32
  w2 : BitVec 32
  w3 : BitVec 32
  opnds : List (BitVec 32)
  deriving DecidableEq, Repr

/-- One step of the EN4 that the table of operations and events lists. -/
inductive Instr where
  /-- NOP, R268: nothing in its slot. -/
  | nop (q : BitVec 2)
  /-- BR, R283. -/
  | br (q : BitVec 2) (off : BitVec 22)
  /-- BRC, R283. -/
  | brc (q : BitVec 2) (c : BitVec 5) (neg : Bool) (off : BitVec 16)
  /-- BRX, R283. -/
  | brx (q : BitVec 2) (a : BitVec 7)
  /-- RET, R283. -/
  | ret (q : BitVec 2)
  /-- CALL, R283. -/
  | call (q : BitVec 2) (off : BitVec 22)
  /-- LOOP, R284. -/
  | loop (q : BitVec 2) (lev : BitVec 3) (a : BitVec 7) (min : BitVec 8) (endOff : BitVec 16) (short : BitVec 16)
  /-- BRKL, R286. -/
  | brkl (q : BitVec 2) (lev : BitVec 3) (cond : Bool) (c : BitVec 5) (neg : Bool)
  /-- FORK, R287, R167. -/
  | fork (q : BitVec 2) (off : BitVec 22)
  /-- JOIN, R287, R169. -/
  | join (q : BitVec 2) (mask : BitVec 8) (id : BitVec 8)
  /-- HALT, R287, R170. -/
  | halt (q : BitVec 2)
  /-- EXIT, R287, R170. -/
  | exit (q : BitVec 2)
  /-- TRAP, R289. -/
  | trap (q : BitVec 2) (code : BitVec 16)
  /-- ERET, R289, R375. -/
  | eret (q : BitVec 2)
  /-- SETC, R288. -/
  | setc (q : BitVec 2) (c : BitVec 5)
  /-- CLRC, R288. -/
  | clrc (q : BitVec 2) (c : BitVec 5)
  /-- WAITC, R288. -/
  | waitc (q : BitVec 2) (c : BitVec 5) (neg : Bool)
  /-- PREEMPTPT, R289. -/
  | preemptpt (q : BitVec 2)
  /-- CSRR, R290. -/
  | csrr (q : BitVec 2) (x : BitVec 7) (csr : BitVec 12)
  /-- CSRW, R290. -/
  | csrw (q : BitVec 2) (x : BitVec 7) (csr : BitVec 12)
  /-- SRSTATE_WRITE, R293: the write of a CSRW to SRSTATE takes effect. -/
  | srstateWrite (tile : Nat)
  /-- SPRET_WRITE, R293: the write of a CSRW to SPRET takes effect. -/
  | spretWrite (tile : Nat)
  /-- GETID, R294. -/
  | getid (q : BitVec 2) (d : BitVec 7) (sel : BitVec 6)
  /-- RGET, R295. -/
  | rget (q : BitVec 2) (d : BitVec 7) (a : BitVec 7)
  /-- ADD, R297. -/
  | add (q : BitVec 2) (d : BitVec 7) (a : BitVec 7) (b : BitVec 7)
  /-- ADD_LONG, R296, R297: the long form. -/
  | addLong (q : BitVec 2) (d : BitVec 7) (a : BitVec 7) (imm : BitVec 32)
  /-- SUB, R297. -/
  | sub (q : BitVec 2) (d : BitVec 7) (a : BitVec 7) (b : BitVec 7)
  /-- SUB_LONG, R296, R297: the long form. -/
  | subLong (q : BitVec 2) (d : BitVec 7) (a : BitVec 7) (imm : BitVec 32)
  /-- MUL, R297. -/
  | mul (q : BitVec 2) (d : BitVec 7) (a : BitVec 7) (b : BitVec 7)
  /-- MUL_LONG, R296, R297: the long form. -/
  | mulLong (q : BitVec 2) (d : BitVec 7) (a : BitVec 7) (imm : BitVec 32)
  /-- MULH, R297. -/
  | mulh (q : BitVec 2) (d : BitVec 7) (a : BitVec 7) (b : BitVec 7) (uns : Bool)
  /-- MADD, R297. -/
  | madd (q : BitVec 2) (d : BitVec 7) (a : BitVec 7) (b : BitVec 7)
  /-- AND, R297. -/
  | and (q : BitVec 2) (d : BitVec 7) (a : BitVec 7) (b : BitVec 7)
  /-- AND_LONG, R296, R297: the long form. -/
  | andLong (q : BitVec 2) (d : BitVec 7) (a : BitVec 7) (imm : BitVec 32)
  /-- OR, R297. -/
  | or (q : BitVec 2) (d : BitVec 7) (a : BitVec 7) (b : BitVec 7)
  /-- OR_LONG, R296, R297: the long form. -/
  | orLong (q : BitVec 2) (d : BitVec 7) (a : BitVec 7) (imm : BitVec 32)
  /-- XOR, R297. -/
  | xor (q : BitVec 2) (d : BitVec 7) (a : BitVec 7) (b : BitVec 7)
  /-- XOR_LONG, R296, R297: the long form. -/
  | xorLong (q : BitVec 2) (d : BitVec 7) (a : BitVec 7) (imm : BitVec 32)
  /-- ANDN, R297. -/
  | andn (q : BitVec 2) (d : BitVec 7) (a : BitVec 7) (b : BitVec 7)
  /-- ANDN_LONG, R296, R297: the long form. -/
  | andnLong (q : BitVec 2) (d : BitVec 7) (a : BitVec 7) (imm : BitVec 32)
  /-- SHL, R297. -/
  | shl (q : BitVec 2) (d : BitVec 7) (a : BitVec 7) (b : BitVec 7)
  /-- SHL_LONG, R296, R297: the long form. -/
  | shlLong (q : BitVec 2) (d : BitVec 7) (a : BitVec 7) (imm : BitVec 32)
  /-- SHR, R297. -/
  | shr (q : BitVec 2) (d : BitVec 7) (a : BitVec 7) (b : BitVec 7)
  /-- SHR_LONG, R296, R297: the long form. -/
  | shrLong (q : BitVec 2) (d : BitVec 7) (a : BitVec 7) (imm : BitVec 32)
  /-- SRA, R297. -/
  | sra (q : BitVec 2) (d : BitVec 7) (a : BitVec 7) (b : BitVec 7)
  /-- SRA_LONG, R296, R297: the long form. -/
  | sraLong (q : BitVec 2) (d : BitVec 7) (a : BitVec 7) (imm : BitVec 32)
  /-- ROTR, R297. -/
  | rotr (q : BitVec 2) (d : BitVec 7) (a : BitVec 7) (b : BitVec 7)
  /-- ROTR_LONG, R296, R297: the long form. -/
  | rotrLong (q : BitVec 2) (d : BitVec 7) (a : BitVec 7) (imm : BitVec 32)
  /-- MIN, R297. -/
  | min (q : BitVec 2) (d : BitVec 7) (a : BitVec 7) (b : BitVec 7)
  /-- MIN_LONG, R296, R297: the long form. -/
  | minLong (q : BitVec 2) (d : BitVec 7) (a : BitVec 7) (imm : BitVec 32)
  /-- MAX, R297. -/
  | max (q : BitVec 2) (d : BitVec 7) (a : BitVec 7) (b : BitVec 7)
  /-- MAX_LONG, R296, R297: the long form. -/
  | maxLong (q : BitVec 2) (d : BitVec 7) (a : BitVec 7) (imm : BitVec 32)
  /-- MINU, R297. -/
  | minu (q : BitVec 2) (d : BitVec 7) (a : BitVec 7) (b : BitVec 7)
  /-- MINU_LONG, R296, R297: the long form. -/
  | minuLong (q : BitVec 2) (d : BitVec 7) (a : BitVec 7) (imm : BitVec 32)
  /-- MAXU, R297. -/
  | maxu (q : BitVec 2) (d : BitVec 7) (a : BitVec 7) (b : BitVec 7)
  /-- MAXU_LONG, R296, R297: the long form. -/
  | maxuLong (q : BitVec 2) (d : BitVec 7) (a : BitVec 7) (imm : BitVec 32)
  /-- CMP, R298. -/
  | cmp (q : BitVec 2) (c : BitVec 5) (a : BitVec 7) (b : BitVec 7) (p : BitVec 3)
  /-- CMP_LONG, R298: the long form. -/
  | cmpLong (q : BitVec 2) (c : BitVec 5) (a : BitVec 7) (p : BitVec 3) (imm : BitVec 32)
  /-- SEL, R298. -/
  | sel (q : BitVec 2) (d : BitVec 7) (a : BitVec 7) (c : BitVec 5) (neg : Bool)
  /-- LI, R297. -/
  | li (q : BitVec 2) (d : BitVec 7) (imm : BitVec 15)
  /-- LI_LONG, R297: HI = 0. -/
  | liLong (q : BitVec 2) (d : BitVec 7) (imm : BitVec 32)
  /-- LI_HI, R297: HI = 1. -/
  | liHi (q : BitVec 2) (d : BitVec 7) (imm : BitVec 32)
  /-- ADDI, R297. -/
  | addi (q : BitVec 2) (d : BitVec 7) (a : BitVec 7) (imm : BitVec 8)
  /-- ADDI_LONG, R297. -/
  | addiLong (q : BitVec 2) (d : BitVec 7) (a : BitVec 7) (imm : BitVec 32)
  /-- EXT, R299. -/
  | ext (q : BitVec 2) (d : BitVec 7) (a : BitVec 7) (b : BitVec 7)
  /-- INS, R299. -/
  | ins (q : BitVec 2) (d : BitVec 7) (a : BitVec 7) (b : BitVec 7)
  /-- POPC, R297. -/
  | popc (q : BitVec 2) (d : BitVec 7) (a : BitVec 7)
  /-- CLZ, R297. -/
  | clz (q : BitVec 2) (d : BitVec 7) (a : BitVec 7)
  /-- HASHB, R300. -/
  | hashb (q : BitVec 2) (d : BitVec 7) (a : BitVec 7) (b : BitVec 7)
  /-- STG, R301. -/
  | stg (q : BitVec 2) (e : BitVec 2) (n : BitVec 4) (a : BitVec 7)
  /-- STGI, R301. -/
  | stgi (q : BitVec 2) (e : BitVec 2) (n : BitVec 4) (imm : BitVec 32)
  /-- STGR, R301. -/
  | stgr (q : BitVec 2) (e : BitVec 2) (n : BitVec 4) (d : BitVec 7)
  /-- STGL, R301. -/
  | stgl (q : BitVec 2) (e : BitVec 2) (n : BitVec 4) (imm : BitVec 32)
  /-- FADD, R303. -/
  | fadd (q : BitVec 2) (d : BitVec 7) (a : BitVec 7) (b : BitVec 7) (p : Bool)
  /-- FSUB, R303. -/
  | fsub (q : BitVec 2) (d : BitVec 7) (a : BitVec 7) (b : BitVec 7) (p : Bool)
  /-- FMUL, R303. -/
  | fmul (q : BitVec 2) (d : BitVec 7) (a : BitVec 7) (b : BitVec 7) (p : Bool)
  /-- FMA, R303. -/
  | fma (q : BitVec 2) (d : BitVec 7) (a : BitVec 7) (b : BitVec 7) (p : Bool)
  /-- FMIN, R304. -/
  | fmin (q : BitVec 2) (d : BitVec 7) (a : BitVec 7) (b : BitVec 7) (p : Bool)
  /-- FMAX, R304. -/
  | fmax (q : BitVec 2) (d : BitVec 7) (a : BitVec 7) (b : BitVec 7) (p : Bool)
  /-- FCMP, R304. -/
  | fcmp (q : BitVec 2) (c : BitVec 5) (a : BitVec 7) (b : BitVec 7) (r : BitVec 2) (p : Bool)
  /-- FCVT, R307. -/
  | fcvt (q : BitVec 2) (d : BitVec 7) (a : BitVec 7) (conv : BitVec 4) (rm : BitVec 3) (p : Bool)
  /-- FABS, R304. -/
  | fabs (q : BitVec 2) (d : BitVec 7) (a : BitVec 7) (p : Bool)
  /-- FNEG, R304. -/
  | fneg (q : BitVec 2) (d : BitVec 7) (a : BitVec 7) (p : Bool)
  /-- FRCP, R305. -/
  | frcp (q : BitVec 2) (d : BitVec 7) (a : BitVec 7) (p : Bool)
  /-- FRSQ, R305. -/
  | frsq (q : BitVec 2) (d : BitVec 7) (a : BitVec 7) (p : Bool)
  /-- FEXP2, R305. -/
  | fexp2 (q : BitVec 2) (d : BitVec 7) (a : BitVec 7) (p : Bool)
  /-- FLOG2, R305. -/
  | flog2 (q : BitVec 2) (d : BitVec 7) (a : BitVec 7) (p : Bool)
  /-- FDIV, R303. -/
  | fdiv (q : BitVec 2) (d : BitVec 7) (a : BitVec 7) (b : BitVec 7) (p : Bool)
  /-- FSQRT, R303. -/
  | fsqrt (q : BitVec 2) (d : BitVec 7) (a : BitVec 7) (rm : BitVec 3) (p : Bool)
  /-- FCLASS, R306. -/
  | fclass (q : BitVec 2) (d : BitVec 7) (a : BitVec 7) (p : Bool)
  /-- LD_B, R310. -/
  | ldB (q : BitVec 2) (d : BitVec 7) (a : BitVec 7) (sx : Bool) (aq : Bool) (off : BitVec 6)
  /-- LD_B_LONG, R310. -/
  | ldBLong (q : BitVec 2) (d : BitVec 7) (a : BitVec 7) (sx : Bool) (aq : Bool) (imm : BitVec 32)
  /-- LD_H, R310. -/
  | ldH (q : BitVec 2) (d : BitVec 7) (a : BitVec 7) (sx : Bool) (aq : Bool) (off : BitVec 6)
  /-- LD_H_LONG, R310. -/
  | ldHLong (q : BitVec 2) (d : BitVec 7) (a : BitVec 7) (sx : Bool) (aq : Bool) (imm : BitVec 32)
  /-- LD_W, R310. -/
  | ldW (q : BitVec 2) (d : BitVec 7) (a : BitVec 7) (sx : Bool) (aq : Bool) (off : BitVec 6)
  /-- LD_W_LONG, R310. -/
  | ldWLong (q : BitVec 2) (d : BitVec 7) (a : BitVec 7) (sx : Bool) (aq : Bool) (imm : BitVec 32)
  /-- LD_D, R310. -/
  | ldD (q : BitVec 2) (d : BitVec 7) (a : BitVec 7) (aq : Bool) (off : BitVec 6)
  /-- LD_D_LONG, R310. -/
  | ldDLong (q : BitVec 2) (d : BitVec 7) (a : BitVec 7) (aq : Bool) (imm : BitVec 32)
  /-- ST_B, R310. -/
  | stB (q : BitVec 2) (xs : BitVec 7) (a : BitVec 7) (rl : Bool) (off : BitVec 6)
  /-- ST_B_LONG, R310. -/
  | stBLong (q : BitVec 2) (xs : BitVec 7) (a : BitVec 7) (rl : Bool) (imm : BitVec 32)
  /-- ST_H, R310. -/
  | stH (q : BitVec 2) (xs : BitVec 7) (a : BitVec 7) (rl : Bool) (off : BitVec 6)
  /-- ST_H_LONG, R310. -/
  | stHLong (q : BitVec 2) (xs : BitVec 7) (a : BitVec 7) (rl : Bool) (imm : BitVec 32)
  /-- ST_W, R310. -/
  | stW (q : BitVec 2) (xs : BitVec 7) (a : BitVec 7) (rl : Bool) (off : BitVec 6)
  /-- ST_W_LONG, R310. -/
  | stWLong (q : BitVec 2) (xs : BitVec 7) (a : BitVec 7) (rl : Bool) (imm : BitVec 32)
  /-- ST_D, R310. -/
  | stD (q : BitVec 2) (xs : BitVec 7) (a : BitVec 7) (rl : Bool) (off : BitVec 6)
  /-- ST_D_LONG, R310. -/
  | stDLong (q : BitVec 2) (xs : BitVec 7) (a : BitVec 7) (rl : Bool) (imm : BitVec 32)
  /-- LDC, R311. -/
  | ldc (q : BitVec 2) (d : BitVec 7) (a : BitVec 7) (sz : BitVec 2) (sx : Bool) (aq : Bool) (spc : BitVec 2)
  /-- LDC_LONG, R311. -/
  | ldcLong (q : BitVec 2) (d : BitVec 7) (a : BitVec 7) (sz : BitVec 2) (sx : Bool) (aq : Bool) (spc : BitVec 2) (imm : BitVec 32)
  /-- STC, R311. -/
  | stc (q : BitVec 2) (xs : BitVec 7) (a : BitVec 7) (sz : BitVec 2) (rl : Bool) (spc : BitVec 2)
  /-- STC_LONG, R311. -/
  | stcLong (q : BitVec 2) (xs : BitVec 7) (a : BitVec 7) (sz : BitVec 2) (rl : Bool) (spc : BitVec 2) (imm : BitVec 32)
  /-- AMO, R312. -/
  | amo (q : BitVec 2) (xdp : BitVec 6) (a : BitVec 7) (op : BitVec 4) (sz : Bool) (aq : Bool) (rl : Bool) (spc : BitVec 2)
  /-- FLAGSET, R313. -/
  | flagset (q : BitVec 2) (a : BitVec 7) (b : BitVec 7)
  /-- WAITF, R313, R125. -/
  | waitf (q : BitVec 2) (d : BitVec 7) (a : BitVec 7)
  /-- FLAGTEST, R313. -/
  | flagtest (q : BitVec 2) (d : BitVec 7) (a : BitVec 7) (c : BitVec 5) (aq : Bool)
  /-- PROBE, R314. -/
  | probe (q : BitVec 2) (a : BitVec 7) (b : BitVec 7) (wr : Bool) (spc : BitVec 2)
  /-- PREF, R314. -/
  | pref (q : BitVec 2) (a : BitVec 7) (b : BitVec 7) (l1 : Bool) (spc : BitVec 2)
  /-- FENCE, R315. -/
  | fence (q : BitVec 2) (kind : BitVec 2)
  /-- CPYIN, R317, R320. -/
  | cpyin (q : BitVec 2) (acq : Bool) (rel : Bool) (tagv : Bool) (tag : BitVec 6) (lin : Bool) (spc : BitVec 2)
  /-- CPYOUT, R317, R320. -/
  | cpyout (q : BitVec 2) (acq : Bool) (rel : Bool) (tagv : Bool) (tag : BitVec 6) (lin : Bool) (spc : BitVec 2)
  /-- CPYSS, R317, R320. -/
  | cpyss (q : BitVec 2) (acq : Bool) (rel : Bool) (tagv : Bool) (tag : BitVec 6)
  /-- CPYR, R317, R124. -/
  | cpyr (q : BitVec 2) (acq : Bool) (tagv : Bool) (tag : BitVec 6)
  /-- MCAST, R317, R320. -/
  | mcast (q : BitVec 2) (acq : Bool) (rel : Bool) (tagv : Bool) (tag : BitVec 6) (lin : Bool) (spc : BitVec 2) (tmask : BitVec 4)
  /-- BIND, R323. -/
  | bind (q : BitVec 2) (acq : Bool) (rel : Bool) (n : BitVec 5)
  /-- UNBIND, R323, R69. -/
  | unbind (q : BitVec 2) (acq : Bool) (rel : Bool) (n : BitVec 5)
  /-- SADV, R323. -/
  | sadv (q : BitVec 2) (acq : Bool) (rel : Bool) (n : BitVec 5) (k : BitVec 15)
  /-- IDXLD, R324. -/
  | idxld (q : BitVec 2) (acq : Bool) (rel : Bool) (tagv : Bool) (tag : BitVec 6) (spc : BitVec 2)
  /-- WAITTA, R325. -/
  | waitta (q : BitVec 2) (a : BitVec 7)
  /-- WAITTL, R325. -/
  | waittl (q : BitVec 2) (a : BitVec 7)
  /-- FFRT, R325. -/
  | ffrt (q : BitVec 2) (d : BitVec 7) (a : BitVec 7) (clr : Bool)
  /-- TAGCLR, R326. -/
  | tagclr (q : BitVec 2) (a : BitVec 7)
  /-- QPUSH, R327. -/
  | qpush (q : BitVec 2) (acq : Bool) (xq : BitVec 7) (xs : BitVec 7)
  /-- QPOP, R327. -/
  | qpop (q : BitVec 2) (xq : BitVec 7) (xs : BitVec 7)
  /-- DSIG, R328. -/
  | dsig (q : BitVec 2) (d : BitVec 7)
  /-- DWAIT_DIST, R328. -/
  | dwaitDist (q : BitVec 2) (e : BitVec 3) (k : BitVec 15)
  /-- DWAIT_REG, R328. -/
  | dwaitReg (q : BitVec 2) (e : BitVec 3) (x : BitVec 7)
  /-- SEND, R329. -/
  | send (q : BitVec 2) (acq : Bool) (tagv : Bool) (tag : BitVec 6)
  /-- RECV, R329. -/
  | recv (q : BitVec 2)
  /-- CHAIN, R340. -/
  | chain (q : BitVec 2) (acq : Bool) (rel : Bool) (qo : BitVec 5) (qa : BitVec 5) (qb : BitVec 5) (p : Bool) (sr : Bool)
  /-- VRED, R344. -/
  | vred (q : BitVec 2) (acq : Bool) (rel : Bool) (qo : BitVec 5) (qa : BitVec 5) (p : Bool) (f : BitVec 3)
  /-- VGATH, R345. -/
  | vgath (q : BitVec 2) (acq : Bool) (rel : Bool) (qo : BitVec 5) (qb : BitVec 5) (p : Bool)
  /-- VSCAT, R346. -/
  | vscat (q : BitVec 2) (acq : Bool) (rel : Bool) (qa : BitVec 5) (qb : BitVec 5) (p : Bool) (f : BitVec 3)
  /-- VCVT, R347. -/
  | vcvt (q : BitVec 2) (acq : Bool) (rel : Bool) (qo : BitVec 5) (qa : BitVec 5) (p : Bool) (sr : Bool)
  /-- VQNT, R348. -/
  | vqnt (q : BitVec 2) (acq : Bool) (rel : Bool) (qo : BitVec 5) (qa : BitVec 5) (sr : Bool)
  /-- VFILL, R349. -/
  | vfill (q : BitVec 2) (acq : Bool) (rel : Bool) (qo : BitVec 5) (p : Bool) (f : BitVec 3)
  /-- VTRN, R350. -/
  | vtrn (q : BitVec 2) (acq : Bool) (rel : Bool) (qo : BitVec 5) (qa : BitVec 5) (p : Bool)
  /-- LEASE, R351, R175. -/
  | lease (q : BitVec 2)
  /-- RELS, R351, R175. -/
  | rels (q : BitVec 2)
  /-- MMA, R352, R354. -/
  | mma (q : BitVec 2) (acq : Bool) (rel : Bool) (qa : BitVec 5) (qb : BitVec 5) (bank : BitVec 4)
  /-- MMAB, R352, R355. -/
  | mmab (q : BitVec 2) (acq : Bool) (rel : Bool) (qa : BitVec 5) (qb : BitVec 5) (bank : BitVec 4) (loadb : Bool)
  /-- MZ, R352, R356. -/
  | mz (q : BitVec 2) (acq : Bool) (rel : Bool) (bank : BitVec 4)
  /-- DOTK, R358 to R361. -/
  | dotk (q : BitVec 2) (acq : Bool) (rel : Bool) (qq : BitVec 5) (qk : BitVec 5) (qo : BitVec 5)
  /-- DOTV, R358 to R361. -/
  | dotv (q : BitVec 2) (acq : Bool) (rel : Bool) (qq : BitVec 5) (qk : BitVec 5) (qo : BitVec 5)
  /-- DOTS, R358 to R361. -/
  | dots (q : BitVec 2) (acq : Bool) (rel : Bool) (qq : BitVec 5) (qk : BitVec 5) (qo : BitVec 5)
  /-- DOTX, R358 to R361. -/
  | dotx (q : BitVec 2) (acq : Bool) (rel : Bool) (qq : BitVec 5) (qk : BitVec 5) (qo : BitVec 5)
  /-- AZERO, R366. -/
  | azero (q : BitVec 2) (acq : Bool) (rel : Bool) (bank : BitVec 4) (xp : BitVec 7)
  /-- ARD, R366. -/
  | ard (q : BitVec 2) (acq : Bool) (rel : Bool) (bank : BitVec 4) (qn : BitVec 5) (xp : BitVec 7) (sr : Bool)
  /-- AWR, R366. -/
  | awr (q : BitVec 2) (acq : Bool) (rel : Bool) (bank : BitVec 4) (qn : BitVec 5) (xp : BitVec 7)
  /-- AADD, R366. -/
  | aadd (q : BitVec 2) (acq : Bool) (rel : Bool) (bank : BitVec 4) (qn : BitVec 5) (xp : BitVec 7)
  /-- AMAXR, R366. -/
  | amaxr (q : BitVec 2) (acq : Bool) (rel : Bool) (bank : BitVec 4) (qn : BitVec 5) (xp : BitVec 7)
  /-- ASCL, R366. -/
  | ascl (q : BitVec 2) (acq : Bool) (rel : Bool) (bank : BitVec 4) (qn : BitVec 5) (xp : BitVec 7)
  /-- HEADER_ONLY_BUNDLE, R255: of the group that cur names. -/
  | headerOnlyBundle (gap : BitVec 4)
  /-- RESULT_LAND, R262: the first exposed result whose bound has ended. -/
  | resultLand (tile : Nat)
  /-- INTERLOCKED_RESULT_LAND, R264: the oldest interlocked result. -/
  | interlockedResultLand (tile : Nat)
  /-- WAITING_INSTRUCTION_COMPLETE, R265. -/
  | waitingComplete (tile : Nat) (g : Nat)
  /-- FLAG_WAKE, R125. -/
  | flagWake (tile : Nat) (off : Nat)
  /-- JOIN_COMPLETE, R169. -/
  | joinComplete (tile : Nat) (g : Nat)
  /-- LEASE_PERIOD_END, R175. -/
  | leasePeriodEnd (cl : Nat)
  /-- ENGINE_COMMAND_START, R332. -/
  | engineStart (tile : Nat) (e : Eng)
  /-- ENGINE_COMMAND_COMPLETE, R333. -/
  | engineComplete (tile : Nat) (e : Eng)
  /-- DWAIT_SATISFIED, R176. -/
  | dwaitSatisfied (tile : Nat) (e : Eng)
  /-- COPY_START, R120, R321. -/
  | copyStart (tile : Nat)
  /-- COPY_COMPLETE, R121: the k-th running copy. -/
  | copyComplete (tile : Nat) (k : Nat)
  /-- STREAM_FILL, R68. -/
  | streamFill (tile : Nat) (n : BitVec 5)
  /-- STREAM_DRAIN, R68. -/
  | streamDrain (tile : Nat) (n : BitVec 5)
  /-- OPS_WRITE_LAND, R27: the oldest OPS write accepted for the tile. -/
  | opsWriteLand (tile : Nat)
  /-- TILE_INSTANCE_START, R165. -/
  | tileStart (tile : Nat)
  /-- TILE_INSTANCE_END, R129. -/
  | tileEnd (tile : Nat)
  /-- BREAK, R378. -/
  | breakHit (tile : Nat) (g : Nat)
  /-- HANDLER_ENTRY, R373. -/
  | handlerEntry (tile : Nat)
  /-- LATCH_DELIVERY, R375: the first latch whose cycle has come. -/
  | latchDelivery (tile : Nat)
  /-- FIRMWARE_TRAP_HANDLING, R377. -/
  | firmwareTrap (tile : Nat)
  /-- KERNEL_FATAL_FAULT, R379. -/
  | kernelFatal (tile : Nat)
  /-- WATCHDOG, R382. -/
  | watchdog (tile : Nat)
  /-- PREEMPT_SIGNAL, R383. -/
  | preemptSignal (tile : Nat)
  /-- PREBND_EXPIRY, R384. -/
  | prebndExpiry (tile : Nat)
  /-- GUST_WRITE, R100. -/
  | gustWrite (slot : Nat) (word : BitVec 64)
  /-- L1_LINE_EXPIRY, R136: the first line that is 4,096 cycles old. -/
  | l1LineExpiry (tile : Nat)
  /-- RETENTION_ENTRY_COMPLETE, R111. -/
  | retentionEntryComplete (tile : Nat) (bank : Nat)
  /-- RETENTION_EXIT_COMPLETE, R112. -/
  | retentionExitComplete (tile : Nat) (bank : Nat)
  /-- PATROL_SCRUB, R105. -/
  | patrolScrub (granule : Nat) (err : ScrubErr)
  /-- TNOP, R226. -/
  | tnop (ph : TPhase) (t : Tli)
  /-- THALT, R226. -/
  | thalt (ph : TPhase) (t : Tli)
  /-- TTRAP, R226. -/
  | ttrap (ph : TPhase) (t : Tli)
  /-- TBR, R226. -/
  | tbr (ph : TPhase) (t : Tli)
  /-- TBRC, R226. -/
  | tbrc (ph : TPhase) (t : Tli)
  /-- TCALL, R226. -/
  | tcall (ph : TPhase) (t : Tli)
  /-- TRET, R226. -/
  | tret (ph : TPhase) (t : Tli)
  /-- TSETY, R226. -/
  | tsety (ph : TPhase) (t : Tli)
  /-- TADDY, R226. -/
  | taddy (ph : TPhase) (t : Tli)
  /-- TSUBY, R226. -/
  | tsuby (ph : TPhase) (t : Tli)
  /-- TCMPY, R226. -/
  | tcmpy (ph : TPhase) (t : Tli)
  /-- TLDY, R226. -/
  | tldy (ph : TPhase) (t : Tli)
  /-- TSTY, R226. -/
  | tsty (ph : TPhase) (t : Tli)
  /-- TALLOC, R226. -/
  | talloc (ph : TPhase) (t : Tli)
  /-- TFREE, R226. -/
  | tfree (ph : TPhase) (t : Tli)
  /-- TLAUNCH, R226. -/
  | tlaunch (ph : TPhase) (t : Tli)
  /-- TCOPY, R226. -/
  | tcopy (ph : TPhase) (t : Tli)
  /-- TFILL, R226. -/
  | tfill (ph : TPhase) (t : Tli)
  /-- TFENCE, R226. -/
  | tfence (ph : TPhase) (t : Tli)
  /-- TSYNC, R226. -/
  | tsync (ph : TPhase) (t : Tli)
  /-- TPROBE, R226. -/
  | tprobe (ph : TPhase) (t : Tli)
  /-- TMIGR, R226. -/
  | tmigr (ph : TPhase) (t : Tli)
  /-- TACQR, R226. -/
  | tacqr (ph : TPhase) (t : Tli)
  /-- TRELR, R226. -/
  | trelr (ph : TPhase) (t : Tli)
  /-- TWAITQ, R226. -/
  | twaitq (ph : TPhase) (t : Tli)
  /-- TSIGQ, R226. -/
  | tsigq (ph : TPhase) (t : Tli)
  /-- TRNGINIT, R226. -/
  | trnginit (ph : TPhase) (t : Tli)
  /-- TPARK, R226. -/
  | tpark (ph : TPhase) (t : Tli)
  /-- TSEQNEXT, R226. -/
  | tseqnext (ph : TPhase) (t : Tli)
  /-- TSEQDONE, R226. -/
  | tseqdone (ph : TPhase) (t : Tli)
  /-- TKVAPPEND, R226. -/
  | tkvappend (ph : TPhase) (t : Tli)
  /-- TKVPIN, R226. -/
  | tkvpin (ph : TPhase) (t : Tli)
  /-- TKVUNPIN, R226. -/
  | tkvunpin (ph : TPhase) (t : Tli)
  /-- TPFXLOOK, R226. -/
  | tpfxlook (ph : TPhase) (t : Tli)
  /-- TPFXINS, R226. -/
  | tpfxins (ph : TPhase) (t : Tli)
  /-- REGISTER_WRITE, R390: an aligned 8-byte host write at off of mailbox mb. -/
  | registerWrite (mb : Nat) (off : Nat) (val : BitVec 64)
  /-- NOTIFY, R393. -/
  | notify (qid : BitVec 32) (val : BitVec 64)
  /-- GUST_SLOT_WRITE, R393. -/
  | gustSlotWrite (slot : Nat) (word : BitVec 64)
  /-- HOST_CXL_MEM_ACCESS, R20: one byte, read or written, at host address ha. -/
  | hostCxlMem (ha : Nat) (wr : Option (List Byte))
  /-- QUEUE_UNMAP, R179. -/
  | queueUnmap (qid : BitVec 32)
  /-- STREAM_BYTES_ARRIVE, R396. -/
  | streamBytesArrive (port : Nat) (strm : Nat) (bytes : List Byte)
  /-- SEND_COMPLETE, R329: the k-th running copy, a SEND. -/
  | sendComplete (tile : Nat) (k : Nat)
  /-- GUST_MESSAGE, R394. -/
  | gustMessage (port : Nat) (slot : Nat) (rlen : Nat) (off : Nat) (bytes : List Byte) (last : Bool)
  /-- LINK_FAILURE, R398. -/
  | linkFailure (port : Nat)
  /-- DEBUG_UNLOCK, R427. -/
  | debugUnlock (token : List Byte)
  /-- JTAG_OPS_ACCESS, R427: one byte, read or written, at an OPS address. -/
  | jtagOps (oa : Nat) (wr : Option Byte)
  /-- FUNCTION_LEVEL_RESET, R427. -/
  | functionLevelReset (port : Nat)
  /-- PEER_LINK_OPEN, R395. -/
  | peerLinkOpen (port : Nat) (chip : BitVec 64) (pctx : Nat)
  /-- RECEIVE_QUEUE_CREDIT, R396. -/
  | receiveQueueCredit (port : Nat) (strm : Nat) (n : Nat)
  /-- NOT_AN_INSTRUCTION, R277: of the bundle that cur names. -/
  | notAnInstruction (c : Cause)
  /-- OUT_SWAP, R386: of the context sub.ctx on die sub.die. -/
  | outSwap
  /-- SHADOW_DRAIN, R387: of die sub.die. -/
  | shadowDrain
  /-- PARTITION_RESUME, R387: of the context sub.ctx. -/
  | partitionResume
  /-- CLUSTER_RECLAIM, R383: for the waiting context sub.ctx. -/
  | clusterReclaim
  /-- TLB_WALK, R40, R43: the oldest queued miss of the die sub.die; 4 is the hub. -/
  | tlbWalk
  /-- INVALIDATION, R44: the oldest invalidation issued. -/
  | invalidation
  /-- COLLAPSE, R56: of the page at sub.n of the context sub.ctx. -/
  | collapse
  /-- COLLAPSE_ACK, R56: die sub.die acknowledges collapse number sub.k. -/
  | collapseAck
  /-- EPOCH_EXPIRY, R88. -/
  | epochExpiry
  /-- SWAP_REQUEST, R88: of the LPM frame sub.n. -/
  | swapRequest
  /-- SWAP, R89: the oldest swap request. -/
  | swap
  /-- SWAP_COMPLETE, R89: of the group sub.n. -/
  | swapComplete
  /-- FULLER_COPY_START, R93. -/
  | fullerCopyStart
  /-- DEMOTION, R96: the oldest demotion of the queue. -/
  | demotion
  /-- DEMOTION_COMPLETE, R96: of the run sub.k of the transit table. -/
  | demotionComplete
  /-- DEMOTION_CANCEL, R97: of the run sub.k. -/
  | demotionCancel
  /-- DEMOTING2_COMPLETE, R95: of the run sub.k. -/
  | demoting2Complete
  /-- FAR_WRITE_ERROR, R95: of the run sub.k. -/
  | farWriteError
  /-- PROMOTION_COMPLETE, R98: of the run sub.k. -/
  | promotionComplete
  /-- PROMOTION_FAIL, R95: of the run sub.k. -/
  | promotionFail
  /-- AGING_D1, R101: of sequence sub.n of the context sub.ctx. -/
  | agingD1
  /-- AGING_D2, R101: of sequence sub.n of the context sub.ctx. -/
  | agingD2
  /-- AGING_RECHECK, R101: of sequence sub.n of the context sub.ctx. -/
  | agingRecheck
  /-- COUNTER_SNAPSHOT, R85. -/
  | counterSnapshot
  /-- OPERAND_PROBE, R190: of the first operand not yet probed of the context sub.ctx. -/
  | operandProbe
  /-- LAUNCH_RECORD_READ, R159: for the context sub.ctx. -/
  | launchRecordRead
  /-- GANG_PLACEMENT, R162: for the context sub.ctx. -/
  | gangPlacement
  /-- PLACE_WAIT_EXPIRY, R162: for the context sub.ctx. -/
  | placeWaitExpiry
  /-- TASK_ISSUE, R190: of the context sub.ctx. -/
  | taskIssue
  /-- TASK_DONE, R192: of the entry of task sequence number sub.n of the context sub.ctx. -/
  | taskDone
  /-- TASK_RETIRE, R192: of the context sub.ctx. -/
  | taskRetire
  /-- TAKE_FAULT, R194: of the context sub.ctx. -/
  | takeFault
  /-- FATAL_CONTEXT_ERROR, R194: of the context sub.ctx. -/
  | fatalContextError
  /-- ARBITRATION_ROUND, R198. -/
  | arbitrationRound
  /-- CONTEXT_LOAD, R199: of the context sub.ctx. -/
  | contextLoad
  /-- CTX_CREATE, R392: the command of mailbox sub.mb. -/
  | ctxCreate
  /-- CTX_DESTROY, R392: the command of mailbox sub.mb. -/
  | ctxDestroy
  /-- CTX_START, R392: the command of mailbox sub.mb. -/
  | ctxStart
  /-- CTX_SUSPEND, R392: the command of mailbox sub.mb. -/
  | ctxSuspend
  /-- CTX_RESUME, R392: the command of mailbox sub.mb. -/
  | ctxResume
  /-- CTX_PREEMPT, R392: the command of mailbox sub.mb. -/
  | ctxPreempt
  /-- CTX_QUERY, R392: the command of mailbox sub.mb. -/
  | ctxQuery
  /-- MC_READ, R392: the command of mailbox sub.mb. -/
  | mcRead
  /-- MAP, R392: the command of mailbox sub.mb. -/
  | mapPages
  /-- UNMAP, R392: the command of mailbox sub.mb. -/
  | unmapPages
  /-- REPLICATE, R392: the command of mailbox sub.mb. -/
  | replicate
  /-- SHR_REGISTER, R392: the command of mailbox sub.mb. -/
  | shrRegister
  /-- SHR_UNREGISTER, R392: the command of mailbox sub.mb. -/
  | shrUnregister
  /-- SHR_ACQUIRE, R392: the command of mailbox sub.mb. -/
  | shrAcquire
  /-- SHR_RELEASE, R392: the command of mailbox sub.mb. -/
  | shrRelease
  /-- SRV_CONFIG, R392: the command of mailbox sub.mb. -/
  | srvConfig
  /-- SEQ_CONFIG, R392: the command of mailbox sub.mb. -/
  | seqConfig
  /-- MBX_REGISTER, R392: the command of mailbox sub.mb. -/
  | mbxRegister
  /-- GUST, R392: the command of mailbox sub.mb. -/
  | gust
  /-- WAKE_RETRY, R392: the command of mailbox sub.mb. -/
  | wakeRetry
  /-- PFX_PIN, R392: the command of mailbox sub.mb. -/
  | pfxPin
  /-- QUEUE_REG, R392: the command of mailbox sub.mb. -/
  | queueReg
  /-- QUEUE_UNREG, R392: the command of mailbox sub.mb. -/
  | queueUnreg
  /-- CNT_MAP, R392: the command of mailbox sub.mb. -/
  | cntMap
  /-- CNT_ATTRIB, R392: the command of mailbox sub.mb. -/
  | cntAttrib
  /-- CXM_CONFIG, R392: the command of mailbox sub.mb. -/
  | cxmConfig
  /-- LINK_OPEN, R392: the command of mailbox sub.mb. -/
  | linkOpen
  /-- LINK_CLOSE, R392: the command of mailbox sub.mb. -/
  | linkClose
  /-- DBG_BREAK, R392: the command of mailbox sub.mb. -/
  | dbgBreak
  /-- DBG_CONT, R392: the command of mailbox sub.mb. -/
  | dbgCont
  /-- DBG_KILL, R392: the command of mailbox sub.mb. -/
  | dbgKill
  /-- IMG_LOAD, R392: the command of mailbox sub.mb. -/
  | imgLoad
  /-- ATTEST, R392: the command of mailbox sub.mb. -/
  | attest
  /-- FW_UPDATE, R392: the command of mailbox sub.mb. -/
  | fwUpdate
  /-- QUERY, R392: the command of mailbox sub.mb. -/
  | query
  /-- BADCMD, R392: the command of mailbox sub.mb. -/
  | badcmd
  /-- COMMAND_COMPLETION, R392: the command of mailbox sub.mb. -/
  | commandCompletion
  /-- CLOCK_STEP_DOWN, R421: of die sub.die. -/
  | clockStepDown
  /-- CLOCK_STEP_UP, R421: of die sub.die. -/
  | clockStepUp
  /-- THERMAL_TRIP, R421. -/
  | thermalTrip
  /-- COLD_RESET, R422. -/
  | coldReset
  /-- UNASSIGNED_TLI_OPCODE, R223: of the context that tcur names. -/
  | unassignedTli
  deriving DecidableEq, Repr

end Sys2Proof
end

