-- ==== Sys2Proof/Machine/Fields.lean ====
section
/-! DEFINITION. What values the fields of a step may hold: the reserved values of R267 and of each instruction's own
layout, the fields that a TLI's variant uses (R223, R226), and the ranges of the numbers that name a tile, a die, a
cluster, a mailbox or a port (R3, R22, R389, R395). The features an instruction needs (R161) stand here too. -/
namespace Sys2Proof

/-- The CSR numbers that R291 and R372 assign. -/
def csrAssigned (n : Nat) : Bool :=
  n ≤ 4 || n == 8 || (0x10 ≤ n && n ≤ 0x18) || n == 0x20 || n == 0x28 || (0x30 ≤ n && n ≤ 0x33) ||
    (0x100 ≤ n && n ≤ 0x106) || (0x108 ≤ n && n ≤ 0x140)

/-- The assigned CSRs whose access is RW (R291, R372): ASP0 to ASP3, SPRET, SRSTATE, VMODE, FMODE and HRET. -/
def csrWritable (n : Nat) : Bool :=
  (1 ≤ n && n ≤ 4) || (0x30 ≤ n && n ≤ 0x33) || n == 0x106

/-- The SEL values of GETID that R294 assigns. -/
def getidAssigned (n : Nat) : Bool := n ≤ 13 || (16 ≤ n && n ≤ 22)

/-- The RM values that R307 allows for a conversion CONV under precision P. -/
def fcvtRmOk (conv rm : Nat) (p : Bool) : Bool :=
  if conv ≤ 7 then rm ≤ 3
  else if conv == 10 || conv == 11 then rm ≤ 4
  else if conv == 14 then (if p then rm ≤ 3 else rm == 0)
  else conv ≤ 13 && rm == 0

/-- The operand modes of R224 and R188. -/
inductive Mode where
  | IN | OUT | OUTP | INOUT | EXT
  deriving DecidableEq, Repr

/-- The forms of R225. -/
inductive Form where
  | whole | cls | pages | small | scal
  deriving DecidableEq, Repr

/-- An operand descriptor's fields (R224). -/
def opL (o : BitVec 32) : Nat := o.toNat % 1024
def opMode (o : BitVec 32) : Option Mode :=
  match o.toNat / 2 ^ 10 % 8 with
  | 0 => some .IN
  | 1 => some .OUT
  | 2 => some .OUTP
  | 3 => some .INOUT
  | 4 => some .EXT
  | _ => none
def opForm (o : BitVec 32) : Option Form :=
  match o.toNat / 2 ^ 13 % 8 with
  | 0 => some .whole
  | 1 => some .cls
  | 2 => some .pages
  | 3 => some .small
  | 4 => some .scal
  | _ => none
def opArg (o : BitVec 32) : Nat := o.toNat / 2 ^ 16

/-- ARG holds no reserved bit or value of its form (R225). -/
def opArgOk (o : BitVec 32) : Bool :=
  match opForm o with
  | some .whole => opArg o == 0
  | some .cls => opArg o ≤ 23
  | some .pages => true
  | some .small => true
  | some .scal => opArg o < 2 ^ 12
  | none => false

/-- The opcode, phase and fields of a task-stream instruction (R226). -/
def Instr.tli? : Instr → Option (Nat × TPhase × Tli)
  | .tnop ph t => some (0x00, ph, t)
  | .thalt ph t => some (0x01, ph, t)
  | .ttrap ph t => some (0x02, ph, t)
  | .tbr ph t => some (0x03, ph, t)
  | .tbrc ph t => some (0x04, ph, t)
  | .tcall ph t => some (0x05, ph, t)
  | .tret ph t => some (0x06, ph, t)
  | .tsety ph t => some (0x08, ph, t)
  | .taddy ph t => some (0x09, ph, t)
  | .tsuby ph t => some (0x0A, ph, t)
  | .tcmpy ph t => some (0x0B, ph, t)
  | .tldy ph t => some (0x0C, ph, t)
  | .tsty ph t => some (0x0D, ph, t)
  | .talloc ph t => some (0x10, ph, t)
  | .tfree ph t => some (0x11, ph, t)
  | .tlaunch ph t => some (0x14, ph, t)
  | .tcopy ph t => some (0x15, ph, t)
  | .tfill ph t => some (0x16, ph, t)
  | .tfence ph t => some (0x18, ph, t)
  | .tsync ph t => some (0x19, ph, t)
  | .tprobe ph t => some (0x1C, ph, t)
  | .tmigr ph t => some (0x1D, ph, t)
  | .tacqr ph t => some (0x1E, ph, t)
  | .trelr ph t => some (0x1F, ph, t)
  | .twaitq ph t => some (0x20, ph, t)
  | .tsigq ph t => some (0x21, ph, t)
  | .trnginit ph t => some (0x22, ph, t)
  | .tpark ph t => some (0x24, ph, t)
  | .tseqnext ph t => some (0x25, ph, t)
  | .tseqdone ph t => some (0x26, ph, t)
  | .tkvappend ph t => some (0x28, ph, t)
  | .tkvpin ph t => some (0x29, ph, t)
  | .tkvunpin ph t => some (0x2A, ph, t)
  | .tpfxlook ph t => some (0x2C, ph, t)
  | .tpfxins ph t => some (0x2D, ph, t)
  | _ => none

/-- The task-stream instruction of an opcode (R226). -/
def mkTli (opc : Nat) (ph : TPhase) (t : Tli) : Option Instr :=
  match opc with
  | 0x00 => some (.tnop ph t)
  | 0x01 => some (.thalt ph t)
  | 0x02 => some (.ttrap ph t)
  | 0x03 => some (.tbr ph t)
  | 0x04 => some (.tbrc ph t)
  | 0x05 => some (.tcall ph t)
  | 0x06 => some (.tret ph t)
  | 0x08 => some (.tsety ph t)
  | 0x09 => some (.taddy ph t)
  | 0x0A => some (.tsuby ph t)
  | 0x0B => some (.tcmpy ph t)
  | 0x0C => some (.tldy ph t)
  | 0x0D => some (.tsty ph t)
  | 0x10 => some (.talloc ph t)
  | 0x11 => some (.tfree ph t)
  | 0x14 => some (.tlaunch ph t)
  | 0x15 => some (.tcopy ph t)
  | 0x16 => some (.tfill ph t)
  | 0x18 => some (.tfence ph t)
  | 0x19 => some (.tsync ph t)
  | 0x1C => some (.tprobe ph t)
  | 0x1D => some (.tmigr ph t)
  | 0x1E => some (.tacqr ph t)
  | 0x1F => some (.trelr ph t)
  | 0x20 => some (.twaitq ph t)
  | 0x21 => some (.tsigq ph t)
  | 0x22 => some (.trnginit ph t)
  | 0x24 => some (.tpark ph t)
  | 0x25 => some (.tseqnext ph t)
  | 0x26 => some (.tseqdone ph t)
  | 0x28 => some (.tkvappend ph t)
  | 0x29 => some (.tkvpin ph t)
  | 0x2A => some (.tkvunpin ph t)
  | 0x2C => some (.tpfxlook ph t)
  | 0x2D => some (.tpfxins ph t)
  | _ => none

/-- The fields of W0 to W3 that the instruction of an opcode does not use, or that its variant does not use, are 0,
and no used field holds a reserved value (R223, R226). -/
def tliWordsOk (opc : Nat) (t : Tli) : Bool :=
  let w1 := t.w1.toNat
  let w2 := t.w2.toNat
  let w3 := t.w3.toNat
  let noD := t.yd == 0
  let noA := t.ya == 0
  let noB := t.yb == 0
  let no1 := w1 == 0
  let no2 := w2 == 0
  let no3 := w3 == 0
  let bare := noD && noA && noB && no1 && no2 && no3
  match opc with
  | 0x00 | 0x01 | 0x06 | 0x10 | 0x11 | 0x15 | 0x28 | 0x29 | 0x2A => bare
  | 0x02 => noD && noA && noB && w1 < 2 ^ 16 && no2 && no3
  | 0x03 | 0x05 => noD && noA && noB && no2 && no3
  | 0x04 => noD && noB && no2 && w3 ≤ 1
  | 0x08 => noA && noB && no3
  | 0x09 | 0x0A => w3 ≤ 1 && (if w3 == 1 then noB else no1 && no2)
  | 0x0B => w3 < 16 && w3 / 2 ≤ 5 && (if w3 % 2 == 1 then noB else no1 && no2)
  | 0x0C => noA && noB && no1 && no2 && w3 ≤ 1
  | 0x0D => noD && noB && no1 && no2 && no3
  | 0x14 =>
    noD && noB && w3 < 2 ^ 31 &&
      (if w3 / 2 ^ 16 == 0 then noA else t.ya.toNat + Nat.log2 (w3 / 2 ^ 16) ≤ 63)
  | 0x16 =>
    noD && noB && w3 < 8 &&
      (if w3 / 4 == 1 then no1 && no2 else noA && (w2 * 2 ^ 32 + w1) < 2 ^ (8 * 2 ^ (w3 % 4)))
  | 0x18 => noD && noA && noB && no1 && no2 && w3 ≤ 4
  | 0x19 => noD && noA && noB && w1 < 2048 && no2 && w3 ≤ 1
  | 0x1C =>
    noD && no2 && w3 < 8 &&
      (match w3 % 4 with
       | 0 => noA && noB && no1 && w3 == 0
       | 1 => noB && no1 && w3 == 1
       | 2 => w1 < 2 ^ 16
       | _ => false)
  | 0x1D =>
    no2 && w3 < 32 && w3 / 4 % 4 ≤ 2 &&
      (match w3 % 4 with
       | 1 => noB && no1
       | 2 => w1 < 2 ^ 16
       | _ => false)
  | 0x1E | 0x1F => noD && noB && w3 ≤ 1 && (if w3 == 1 then no1 && no2 else noA)
  | 0x20 =>
    no2 && w3 < 8 && w3 % 4 ≤ 2 && (if w3 / 4 == 1 then no1 else noA) &&
      (match w3 % 4 with
       | 0 => noD && noB
       | 1 => noB
       | _ => true)
  | 0x21 =>
    noD && no2 && w3 < 8 && w3 % 4 ≤ 2 && (if w3 / 4 == 1 then no1 else noA) && (w3 % 4 != 0 || noB)
  | 0x22 =>
    w3 ≤ 2 && w2 < 2 ^ 26 &&
      (match w3 with
       | 0 => w2 < 2 ^ 16
       | 1 => noD
       | _ => noD && noA && noB && no1 && w2 % 2 ^ 16 == 0)
  | 0x24 => noB && no1 && no2 && no3
  | 0x25 => noA && noB && no1 && no2 && w3 ≤ 1
  | 0x26 => noD && noB && no1 && no2 && no3
  | 0x2C | 0x2D => noA && noB && no1 && no2 && no3
  | _ => false

/-- The operand modes that R226 allows, by position; none: R226 gives no operand there. -/
def tliModes (opc : Nat) (t : Tli) (k : Nat) : List Mode :=
  match opc, k with
  | 0x0C, 0 => [.IN]
  | 0x0D, 0 => [.OUTP, .INOUT, .EXT]
  | 0x10, 0 => [.OUT]
  | 0x11, 0 => [.IN]
  | 0x14, _ => [.IN, .OUT, .OUTP, .INOUT, .EXT]
  | 0x15, 0 => [.IN]
  | 0x15, 1 => [.OUT, .OUTP, .INOUT, .EXT]
  | 0x16, 0 => [.OUT, .OUTP, .INOUT, .EXT]
  | 0x1C, _ => [.IN, .OUTP, .INOUT]
  | 0x20, 0 => [.OUTP, .INOUT, .EXT]
  | 0x21, 0 => [.IN]
  | 0x28, 0 | 0x29, 0 | 0x2A, 0 | 0x2D, 0 => [.IN]
  | 0x2C, 0 => [.IN]
  | 0x2C, 1 => [.OUT, .OUTP]
  | _, _ => if t.opnds.length ≤ k then [.IN] else []

/-- The operand counts that R226 allows. -/
def tliCountOk (opc : Nat) (t : Tli) : Bool :=
  let n := t.opnds.length
  match opc with
  | 0x0C | 0x0D | 0x10 | 0x11 | 0x16 | 0x28 | 0x29 | 0x2A | 0x2D => n == 1
  | 0x14 => n ≤ 16
  | 0x15 | 0x2C => n == 2
  | 0x1C => if t.w3.toNat % 4 == 0 then 1 ≤ n && n ≤ 16 else n == 0
  | 0x20 | 0x21 => if t.w3.toNat % 4 == 0 then n == 1 else n == 0
  | _ => n == 0

/-- Descriptor k holds an allowed mode, an assigned form and no reserved ARG bit (R223). TFREE takes form WHOLE. -/
def tliOpndOk (opc : Nat) (t : Tli) (k : Nat) (o : BitVec 32) : Bool :=
  (match opMode o with
   | some m => (tliModes opc t k).contains m
   | none => false) &&
  opArgOk o && (opc != 0x11 || opForm o == some .whole)

/-- The index of the first descriptor from k on that is not allowed. -/
def tliBadOpnd (opc : Nat) (t : Tli) (k : Nat) : List (BitVec 32) → Option Nat
  | [] => none
  | o :: os => if tliOpndOk opc t k o then tliBadOpnd opc t (k + 1) os else some k

/-- R223's static checks. None: the TLI passes. Some k: it is ILLEGAL with OPND = k (0x1F: no operand). -/
def tliIllegal (opc : Nat) (t : Tli) : Option Nat :=
  if !(tliWordsOk opc t && tliCountOk opc t) then some 0x1F else tliBadOpnd opc t 0 t.opnds

/-- No field of the step holds a reserved value, and every number that names a part of the machine is in its range. -/
def Instr.fieldsOk : Instr → Bool
  | .loop _ lev _ mn _ short => lev.toNat ≤ 5 && (mn != 0 || short == 0)
  | .brkl _ lev cond c neg => lev.toNat != 6 && (cond || (c == 0 && !neg))
  | .csrr _ _ csr => csrAssigned csr.toNat
  | .csrw _ _ csr => csrAssigned csr.toNat && csrWritable csr.toNat
  | .getid _ _ k => getidAssigned k.toNat
  | .rget _ d _ => d.toNat % 2 == 0 && d.toNat < 126
  | .fcvt _ _ _ conv rm p => fcvtRmOk conv.toNat rm.toNat p
  | .fsqrt _ _ _ rm _ => rm.toNat ≤ 3
  | .ldc _ _ _ sz sx _ _ => sz != 3 || !sx
  | .ldcLong _ _ _ sz sx _ _ _ => sz != 3 || !sx
  | .amo _ _ _ op _ _ _ _ => op.toNat ≤ 8
  | .cpyin _ _ _ _ _ lin spc => lin || spc == 0
  | .cpyout _ _ _ _ _ lin spc => lin || spc == 0
  | .mcast _ _ _ _ _ lin spc tmask => (lin || spc == 0) && tmask != 0
  | .sadv _ _ _ _ k => k != 0
  | .dwaitDist _ e _ => e.toNat ≤ 4
  | .dwaitReg _ e _ => e.toNat ≤ 4
  | .vred _ _ _ _ _ _ f => f.toNat ≤ 4
  | .vscat _ _ _ _ _ _ f => f.toNat ≤ 3
  | .vfill _ _ _ _ _ f => f.toNat ≤ 1
  | .mmab _ _ _ _ qb _ loadb => loadb || qb == 0
  | .srstateWrite t | .spretWrite t | .resultLand t | .interlockedResultLand t | .copyStart t | .opsWriteLand t
  | .tileStart t | .tileEnd t | .handlerEntry t | .latchDelivery t | .firmwareTrap t | .kernelFatal t | .watchdog t
  | .preemptSignal t | .prebndExpiry t | .l1LineExpiry t => t < 512
  | .waitingComplete t g | .joinComplete t g | .breakHit t g => t < 512 && g < 8
  | .flagWake t off => t < 512 && off < 2 ^ 20 && off % 8 == 0
  | .engineStart t _ | .engineComplete t _ | .dwaitSatisfied t _ => t < 512
  | .copyComplete t k | .sendComplete t k => t < 512 && k < 8
  | .streamFill t _ | .streamDrain t _ => t < 512
  | .retentionEntryComplete t b | .retentionExitComplete t b => t < 512 && b < 32
  | .leasePeriodEnd cl => cl < 128
  | .gustWrite slot _ | .gustSlotWrite slot _ => slot < 65536
  | .registerWrite mb off _ => mb < 32 && off < 4096 && off % 8 == 0
  | .streamBytesArrive port strm _ | .receiveQueueCredit port strm _ => port < 18 && strm < 256
  | .gustMessage port slot rlen _ bytes _ => port < 18 && slot < 65536 && rlen ≤ 3840 && bytes.length ≤ 3840
  | .linkFailure port | .peerLinkOpen port _ _ => port < 18
  | .functionLevelReset port => port < 2
  | .hostCxlMem ha _ => ha < 2 ^ 64
  | .jtagOps oa _ => oa < 2 ^ 40
  | i =>
    match i.tli? with
    | some (opc, _, t) => (tliIllegal opc t).isNone
    | none => true

/-- The feature bits of FEAT that a tile instruction needs (R161, R209, R302, R307, R312, R337, R358, R363). -/
def Instr.featNeed : Instr → BitVec 64
  | .fadd _ _ _ _ p | .fsub _ _ _ _ p | .fmul _ _ _ _ p | .fma _ _ _ _ p | .fdiv _ _ _ _ p
  | .fmin _ _ _ _ p | .fmax _ _ _ _ p => if p then 1 else 0
  | .fcmp _ _ _ _ _ p => if p then 1 else 0
  | .fabs _ _ _ p | .fneg _ _ _ p | .frcp _ _ _ p | .frsq _ _ _ p | .fexp2 _ _ _ p | .flog2 _ _ _ p
  | .fclass _ _ _ p => if p then 1 else 0
  | .fsqrt _ _ _ _ p => if p then 1 else 0
  | .fcvt _ _ _ conv rm p => (if p || conv == 14 then 1 else 0) ||| (if rm == 4 then 2 else 0)
  | .amo _ _ _ op sz _ _ _ => if op == 8 && sz then 1 else 0
  | .chain _ _ _ _ _ _ p sr => (if p then 1 else 0) ||| (if sr then 2 else 0)
  | .vcvt _ _ _ _ _ p sr => (if p then 1 else 0) ||| (if sr then 2 else 0)
  | .vqnt _ _ _ _ _ sr => if sr then 2 else 0
  | .vred _ _ _ _ _ p _ | .vscat _ _ _ _ _ p _ => if p then 1 else 0
  | .vgath _ _ _ _ _ p => if p then 1 else 0
  | .vfill _ _ _ _ p _ => if p then 1 else 0
  | .vtrn _ _ _ _ _ p => if p then 1 else 0
  | .ard _ _ _ _ _ _ sr => if sr then 2 else 0
  | .dotk _ _ _ _ _ _ | .dotv _ _ _ _ _ _ | .dots _ _ _ _ _ _ | .dotx _ _ _ _ _ _ => 4
  | _ => 0

end Sys2Proof
end

