-- ==== Sys2Proof/WellFormed.lean ====
section
/-! DEFINITION. A step of the table is well formed when none of its fields holds a value that the spec reserves. -/
namespace Sys2Proof

/-- R7, R223, R267: no reserved field value. -/
abbrev Instr.WellFormed (i : Instr) : Prop := i.fieldsOk = true

end Sys2Proof
end

