-- ==== Sys2Proof/Decode.lean ====
section
/-! DEFINITION. Decoding of bundles' syllables and of task-stream instructions, and the encoder written from the same
tables of the spec (R222 to R226, R252 to R254, R267 to R276 and the layouts of chapters 12 to 14). -/
namespace Sys2Proof

/-- Why bits are no instruction. Each is ILLEGAL (R223, R267). -/
inductive DecodeErr where
  /-- The opcode is assigned to nothing. -/
  | reservedOpcode
  /-- The LONG bit does not match the opcode's form. -/
  | wrongForm
  /-- A reserved operand bit is nonzero. -/
  | reservedBits
  /-- A function or other field holds a reserved value. -/
  | reservedValue
  deriving DecidableEq, Repr

/-- A slot syllable with its immediate word, if it is long (R254). -/
structure Syl where
  w : BitVec 32
  imm : Option (BitVec 32)
  deriving DecidableEq, Repr

/-- The field of len bits from bit lo on. -/
def fld (w lo len : Nat) : BitVec len := BitVec.ofNat len (w / 2 ^ lo)

/-- Bit k. -/
def bt (w k : Nat) : Bool := w / 2 ^ k % 2 == 1

/-- The len bits from bit lo on are zero. -/
def rz (w lo len : Nat) : Bool := w / 2 ^ lo % 2 ^ len == 0

/-- A field's value put at bit lo, below it the rest. -/
def put {n : Nat} (v : BitVec n) (lo rest : Nat) : Nat := v.toNat * 2 ^ lo + rest
def putB (v : Bool) (lo rest : Nat) : Nat := v.toNat * 2 ^ lo + rest

/-- A slot syllable with STOP clear: IQ, OPC and the operand bits (R254). -/
def sylWord (q : BitVec 2) (opc ops : Nat) : BitVec 32 := BitVec.ofNat 32 (q.toNat * 2 ^ 29 + opc * 2 ^ 22 + ops)

/-- R267: an instruction whose fields hold no reserved value. -/
def keep (i : Instr) : Except DecodeErr Instr := if i.fieldsOk then .ok i else .error .reservedValue

/-- A syllable without an immediate word (R254, R267): R268 to R276 and the layouts of 12 to 14. -/
def decodeShort (w : Nat) : Except DecodeErr Instr :=
  match w / 2 ^ 22 % 128 with
  | 0x00 =>
    if rz w 0 22 then keep (.nop (fld w 29 2)) else .error .reservedBits
  | 0x01 =>
    keep (.br (fld w 29 2) (fld w 0 22))
  | 0x02 =>
    keep (.brc (fld w 29 2) (fld w 17 5) (bt w 16) (fld w 0 16))
  | 0x03 =>
    if bt w 21 then if rz w 0 21 then keep (.ret (fld w 29 2)) else .error .reservedBits
    else if rz w 0 14 then keep (.brx (fld w 29 2) (fld w 14 7)) else .error .reservedBits
  | 0x04 =>
    keep (.call (fld w 29 2) (fld w 0 22))
  | 0x06 =>
    if rz w 0 12 then keep (.brkl (fld w 29 2) (fld w 19 3) (bt w 18) (fld w 13 5) (bt w 12)) else .error .reservedBits
  | 0x07 =>
    keep (.fork (fld w 29 2) (fld w 0 22))
  | 0x08 =>
    if rz w 0 6 then keep (.join (fld w 29 2) (fld w 14 8) (fld w 6 8)) else .error .reservedBits
  | 0x09 =>
    if bt w 21 then if rz w 0 21 then keep (.exit (fld w 29 2)) else .error .reservedBits
    else if rz w 0 21 then keep (.halt (fld w 29 2)) else .error .reservedBits
  | 0x0A =>
    if bt w 21 then if rz w 0 21 then keep (.eret (fld w 29 2)) else .error .reservedBits
    else if rz w 16 5 then keep (.trap (fld w 29 2) (fld w 0 16)) else .error .reservedBits
  | 0x0B =>
    if bt w 21 then if rz w 0 16 then keep (.clrc (fld w 29 2) (fld w 16 5)) else .error .reservedBits
    else if rz w 0 16 then keep (.setc (fld w 29 2) (fld w 16 5)) else .error .reservedBits
  | 0x0C =>
    if rz w 0 16 then keep (.waitc (fld w 29 2) (fld w 17 5) (bt w 16)) else .error .reservedBits
  | 0x0D =>
    if rz w 0 22 then keep (.preemptpt (fld w 29 2)) else .error .reservedBits
  | 0x0E =>
    if bt w 21 then if rz w 0 2 then keep (.csrw (fld w 29 2) (fld w 14 7) (fld w 2 12)) else .error .reservedBits
    else if rz w 0 2 then keep (.csrr (fld w 29 2) (fld w 14 7) (fld w 2 12)) else .error .reservedBits
  | 0x0F =>
    if bt w 21 then if rz w 0 7 then keep (.rget (fld w 29 2) (fld w 14 7) (fld w 7 7)) else .error .reservedBits
    else if rz w 0 8 then keep (.getid (fld w 29 2) (fld w 14 7) (fld w 8 6)) else .error .reservedBits
  | 0x10 =>
    if rz w 0 1 then keep (.add (fld w 29 2) (fld w 15 7) (fld w 8 7) (fld w 1 7)) else .error .reservedBits
  | 0x11 =>
    if rz w 0 1 then keep (.sub (fld w 29 2) (fld w 15 7) (fld w 8 7) (fld w 1 7)) else .error .reservedBits
  | 0x12 =>
    if rz w 0 1 then keep (.mul (fld w 29 2) (fld w 15 7) (fld w 8 7) (fld w 1 7)) else .error .reservedBits
  | 0x13 =>
    keep (.mulh (fld w 29 2) (fld w 15 7) (fld w 8 7) (fld w 1 7) (bt w 0))
  | 0x14 =>
    if rz w 0 1 then keep (.madd (fld w 29 2) (fld w 15 7) (fld w 8 7) (fld w 1 7)) else .error .reservedBits
  | 0x15 =>
    if rz w 0 1 then keep (.and (fld w 29 2) (fld w 15 7) (fld w 8 7) (fld w 1 7)) else .error .reservedBits
  | 0x16 =>
    if rz w 0 1 then keep (.or (fld w 29 2) (fld w 15 7) (fld w 8 7) (fld w 1 7)) else .error .reservedBits
  | 0x17 =>
    if rz w 0 1 then keep (.xor (fld w 29 2) (fld w 15 7) (fld w 8 7) (fld w 1 7)) else .error .reservedBits
  | 0x18 =>
    if rz w 0 1 then keep (.andn (fld w 29 2) (fld w 15 7) (fld w 8 7) (fld w 1 7)) else .error .reservedBits
  | 0x19 =>
    if rz w 0 1 then keep (.shl (fld w 29 2) (fld w 15 7) (fld w 8 7) (fld w 1 7)) else .error .reservedBits
  | 0x1A =>
    if rz w 0 1 then keep (.shr (fld w 29 2) (fld w 15 7) (fld w 8 7) (fld w 1 7)) else .error .reservedBits
  | 0x1B =>
    if rz w 0 1 then keep (.sra (fld w 29 2) (fld w 15 7) (fld w 8 7) (fld w 1 7)) else .error .reservedBits
  | 0x1C =>
    if rz w 0 1 then keep (.rotr (fld w 29 2) (fld w 15 7) (fld w 8 7) (fld w 1 7)) else .error .reservedBits
  | 0x1D =>
    if rz w 0 1 then keep (.min (fld w 29 2) (fld w 15 7) (fld w 8 7) (fld w 1 7)) else .error .reservedBits
  | 0x1E =>
    if rz w 0 1 then keep (.max (fld w 29 2) (fld w 15 7) (fld w 8 7) (fld w 1 7)) else .error .reservedBits
  | 0x1F =>
    if rz w 0 1 then keep (.minu (fld w 29 2) (fld w 15 7) (fld w 8 7) (fld w 1 7)) else .error .reservedBits
  | 0x20 =>
    if rz w 0 1 then keep (.maxu (fld w 29 2) (fld w 15 7) (fld w 8 7) (fld w 1 7)) else .error .reservedBits
  | 0x21 =>
    keep (.cmp (fld w 29 2) (fld w 17 5) (fld w 10 7) (fld w 3 7) (fld w 0 3))
  | 0x22 =>
    if rz w 0 2 then keep (.sel (fld w 29 2) (fld w 15 7) (fld w 8 7) (fld w 3 5) (bt w 2)) else .error .reservedBits
  | 0x23 =>
    keep (.li (fld w 29 2) (fld w 15 7) (fld w 0 15))
  | 0x24 =>
    keep (.addi (fld w 29 2) (fld w 15 7) (fld w 8 7) (fld w 0 8))
  | 0x25 =>
    if bt w 0 then keep (.ins (fld w 29 2) (fld w 15 7) (fld w 8 7) (fld w 1 7))
    else keep (.ext (fld w 29 2) (fld w 15 7) (fld w 8 7) (fld w 1 7))
  | 0x26 =>
    if bt w 0 then if rz w 1 7 then keep (.clz (fld w 29 2) (fld w 15 7) (fld w 8 7)) else .error .reservedBits
    else if rz w 1 7 then keep (.popc (fld w 29 2) (fld w 15 7) (fld w 8 7)) else .error .reservedBits
  | 0x27 =>
    if rz w 0 1 then keep (.hashb (fld w 29 2) (fld w 15 7) (fld w 8 7) (fld w 1 7)) else .error .reservedBits
  | 0x28 =>
    if rz w 0 9 then keep (.stg (fld w 29 2) (fld w 20 2) (fld w 16 4) (fld w 9 7)) else .error .reservedBits
  | 0x2A =>
    if rz w 0 9 then keep (.stgr (fld w 29 2) (fld w 20 2) (fld w 16 4) (fld w 9 7)) else .error .reservedBits
  | 0x30 =>
    keep (.fadd (fld w 29 2) (fld w 15 7) (fld w 8 7) (fld w 1 7) (bt w 0))
  | 0x31 =>
    keep (.fsub (fld w 29 2) (fld w 15 7) (fld w 8 7) (fld w 1 7) (bt w 0))
  | 0x32 =>
    keep (.fmul (fld w 29 2) (fld w 15 7) (fld w 8 7) (fld w 1 7) (bt w 0))
  | 0x33 =>
    keep (.fma (fld w 29 2) (fld w 15 7) (fld w 8 7) (fld w 1 7) (bt w 0))
  | 0x34 =>
    keep (.fmin (fld w 29 2) (fld w 15 7) (fld w 8 7) (fld w 1 7) (bt w 0))
  | 0x35 =>
    keep (.fmax (fld w 29 2) (fld w 15 7) (fld w 8 7) (fld w 1 7) (bt w 0))
  | 0x36 =>
    keep (.fcmp (fld w 29 2) (fld w 17 5) (fld w 10 7) (fld w 3 7) (fld w 1 2) (bt w 0))
  | 0x37 =>
    keep (.fcvt (fld w 29 2) (fld w 15 7) (fld w 8 7) (fld w 4 4) (fld w 1 3) (bt w 0))
  | 0x38 =>
    if bt w 1 then if rz w 2 6 then keep (.fneg (fld w 29 2) (fld w 15 7) (fld w 8 7) (bt w 0)) else .error .reservedBits
    else if rz w 2 6 then keep (.fabs (fld w 29 2) (fld w 15 7) (fld w 8 7) (bt w 0)) else .error .reservedBits
  | 0x39 =>
    if rz w 1 7 then keep (.frcp (fld w 29 2) (fld w 15 7) (fld w 8 7) (bt w 0)) else .error .reservedBits
  | 0x3A =>
    if rz w 1 7 then keep (.frsq (fld w 29 2) (fld w 15 7) (fld w 8 7) (bt w 0)) else .error .reservedBits
  | 0x3B =>
    if rz w 1 7 then keep (.fexp2 (fld w 29 2) (fld w 15 7) (fld w 8 7) (bt w 0)) else .error .reservedBits
  | 0x3C =>
    if rz w 1 7 then keep (.flog2 (fld w 29 2) (fld w 15 7) (fld w 8 7) (bt w 0)) else .error .reservedBits
  | 0x3D =>
    keep (.fdiv (fld w 29 2) (fld w 15 7) (fld w 8 7) (fld w 1 7) (bt w 0))
  | 0x3E =>
    if rz w 4 4 then keep (.fsqrt (fld w 29 2) (fld w 15 7) (fld w 8 7) (fld w 1 3) (bt w 0)) else .error .reservedBits
  | 0x3F =>
    if rz w 1 7 then keep (.fclass (fld w 29 2) (fld w 15 7) (fld w 8 7) (bt w 0)) else .error .reservedBits
  | 0x40 =>
    keep (.ldB (fld w 29 2) (fld w 15 7) (fld w 8 7) (bt w 7) (bt w 6) (fld w 0 6))
  | 0x41 =>
    keep (.ldH (fld w 29 2) (fld w 15 7) (fld w 8 7) (bt w 7) (bt w 6) (fld w 0 6))
  | 0x42 =>
    keep (.ldW (fld w 29 2) (fld w 15 7) (fld w 8 7) (bt w 7) (bt w 6) (fld w 0 6))
  | 0x43 =>
    if rz w 7 1 then keep (.ldD (fld w 29 2) (fld w 15 7) (fld w 8 7) (bt w 6) (fld w 0 6)) else .error .reservedBits
  | 0x44 =>
    if rz w 7 1 then keep (.stB (fld w 29 2) (fld w 15 7) (fld w 8 7) (bt w 6) (fld w 0 6)) else .error .reservedBits
  | 0x45 =>
    if rz w 7 1 then keep (.stH (fld w 29 2) (fld w 15 7) (fld w 8 7) (bt w 6) (fld w 0 6)) else .error .reservedBits
  | 0x46 =>
    if rz w 7 1 then keep (.stW (fld w 29 2) (fld w 15 7) (fld w 8 7) (bt w 6) (fld w 0 6)) else .error .reservedBits
  | 0x47 =>
    if rz w 7 1 then keep (.stD (fld w 29 2) (fld w 15 7) (fld w 8 7) (bt w 6) (fld w 0 6)) else .error .reservedBits
  | 0x48 =>
    if rz w 0 2 then keep (.ldc (fld w 29 2) (fld w 15 7) (fld w 8 7) (fld w 6 2) (bt w 5) (bt w 4) (fld w 2 2)) else .error .reservedBits
  | 0x49 =>
    if rz w 0 2 && rz w 5 1 then keep (.stc (fld w 29 2) (fld w 15 7) (fld w 8 7) (fld w 6 2) (bt w 4) (fld w 2 2)) else .error .reservedBits
  | 0x4A =>
    keep (.amo (fld w 29 2) (fld w 16 6) (fld w 9 7) (fld w 5 4) (bt w 4) (bt w 3) (bt w 2) (fld w 0 2))
  | 0x4B =>
    if rz w 0 8 then keep (.flagset (fld w 29 2) (fld w 15 7) (fld w 8 7)) else .error .reservedBits
  | 0x4C =>
    if rz w 0 8 then keep (.waitf (fld w 29 2) (fld w 15 7) (fld w 8 7)) else .error .reservedBits
  | 0x4D =>
    if rz w 0 2 then keep (.flagtest (fld w 29 2) (fld w 15 7) (fld w 8 7) (fld w 3 5) (bt w 2)) else .error .reservedBits
  | 0x4E =>
    if bt w 21 then if rz w 0 4 then keep (.pref (fld w 29 2) (fld w 14 7) (fld w 7 7) (bt w 6) (fld w 4 2)) else .error .reservedBits
    else if rz w 0 4 then keep (.probe (fld w 29 2) (fld w 14 7) (fld w 7 7) (bt w 6) (fld w 4 2)) else .error .reservedBits
  | 0x4F =>
    if rz w 0 20 then keep (.fence (fld w 29 2) (fld w 20 2)) else .error .reservedBits
  | 0x50 =>
    if rz w 0 10 then keep (.cpyin (fld w 29 2) (bt w 21) (bt w 20) (bt w 19) (fld w 13 6) (bt w 12) (fld w 10 2)) else .error .reservedBits
  | 0x51 =>
    if rz w 0 10 then keep (.cpyout (fld w 29 2) (bt w 21) (bt w 20) (bt w 19) (fld w 13 6) (bt w 12) (fld w 10 2)) else .error .reservedBits
  | 0x52 =>
    if rz w 0 13 then keep (.cpyss (fld w 29 2) (bt w 21) (bt w 20) (bt w 19) (fld w 13 6)) else .error .reservedBits
  | 0x53 =>
    if rz w 0 13 && rz w 20 1 then keep (.cpyr (fld w 29 2) (bt w 21) (bt w 19) (fld w 13 6)) else .error .reservedBits
  | 0x54 =>
    if rz w 0 6 then keep (.mcast (fld w 29 2) (bt w 21) (bt w 20) (bt w 19) (fld w 13 6) (bt w 12) (fld w 10 2) (fld w 6 4)) else .error .reservedBits
  | 0x55 =>
    if bt w 14 then if rz w 0 14 then keep (.unbind (fld w 29 2) (bt w 21) (bt w 20) (fld w 15 5)) else .error .reservedBits
    else if rz w 0 14 then keep (.bind (fld w 29 2) (bt w 21) (bt w 20) (fld w 15 5)) else .error .reservedBits
  | 0x56 =>
    keep (.sadv (fld w 29 2) (bt w 21) (bt w 20) (fld w 15 5) (fld w 0 15))
  | 0x57 =>
    if rz w 0 10 && rz w 12 1 then keep (.idxld (fld w 29 2) (bt w 21) (bt w 20) (bt w 19) (fld w 13 6) (fld w 10 2)) else .error .reservedBits
  | 0x58 =>
    if bt w 21 then if rz w 0 14 then keep (.waittl (fld w 29 2) (fld w 14 7)) else .error .reservedBits
    else if rz w 0 14 then keep (.waitta (fld w 29 2) (fld w 14 7)) else .error .reservedBits
  | 0x59 =>
    if rz w 0 7 then keep (.ffrt (fld w 29 2) (fld w 15 7) (fld w 8 7) (bt w 7)) else .error .reservedBits
  | 0x5A =>
    if rz w 0 13 && rz w 20 2 then keep (.tagclr (fld w 29 2) (fld w 13 7)) else .error .reservedBits
  | 0x5B =>
    if rz w 0 6 && rz w 20 1 then keep (.qpush (fld w 29 2) (bt w 21) (fld w 13 7) (fld w 6 7)) else .error .reservedBits
  | 0x5C =>
    if rz w 0 6 && rz w 20 2 then keep (.qpop (fld w 29 2) (fld w 13 7) (fld w 6 7)) else .error .reservedBits
  | 0x5D =>
    if bt w 21 then if bt w 20 then if rz w 0 10 then keep (.dwaitReg (fld w 29 2) (fld w 17 3) (fld w 10 7)) else .error .reservedBits
      else if rz w 15 2 then keep (.dwaitDist (fld w 29 2) (fld w 17 3) (fld w 0 15)) else .error .reservedBits
    else if rz w 0 14 then keep (.dsig (fld w 29 2) (fld w 14 7)) else .error .reservedBits
  | 0x5E =>
    if rz w 0 13 && rz w 20 1 then keep (.send (fld w 29 2) (bt w 21) (bt w 19) (fld w 13 6)) else .error .reservedBits
  | 0x5F =>
    if rz w 0 22 then keep (.recv (fld w 29 2)) else .error .reservedBits
  | 0x60 =>
    if rz w 0 3 then keep (.chain (fld w 29 2) (bt w 21) (bt w 20) (fld w 15 5) (fld w 10 5) (fld w 5 5) (bt w 4) (bt w 3)) else .error .reservedBits
  | 0x61 =>
    if rz w 3 1 && rz w 5 5 then keep (.vred (fld w 29 2) (bt w 21) (bt w 20) (fld w 15 5) (fld w 10 5) (bt w 4) (fld w 0 3)) else .error .reservedBits
  | 0x62 =>
    if rz w 0 4 && rz w 10 5 then keep (.vgath (fld w 29 2) (bt w 21) (bt w 20) (fld w 15 5) (fld w 5 5) (bt w 4)) else .error .reservedBits
  | 0x63 =>
    if rz w 3 1 && rz w 15 5 then keep (.vscat (fld w 29 2) (bt w 21) (bt w 20) (fld w 10 5) (fld w 5 5) (bt w 4) (fld w 0 3)) else .error .reservedBits
  | 0x64 =>
    if rz w 0 3 && rz w 5 5 then keep (.vcvt (fld w 29 2) (bt w 21) (bt w 20) (fld w 15 5) (fld w 10 5) (bt w 4) (bt w 3)) else .error .reservedBits
  | 0x65 =>
    if rz w 0 3 && rz w 4 6 then keep (.vqnt (fld w 29 2) (bt w 21) (bt w 20) (fld w 15 5) (fld w 10 5) (bt w 3)) else .error .reservedBits
  | 0x66 =>
    if rz w 3 1 && rz w 5 10 then keep (.vfill (fld w 29 2) (bt w 21) (bt w 20) (fld w 15 5) (bt w 4) (fld w 0 3)) else .error .reservedBits
  | 0x67 =>
    if rz w 0 4 && rz w 5 5 then keep (.vtrn (fld w 29 2) (bt w 21) (bt w 20) (fld w 15 5) (fld w 10 5) (bt w 4)) else .error .reservedBits
  | 0x68 =>
    if bt w 19 then if rz w 0 19 && rz w 20 2 then keep (.rels (fld w 29 2)) else .error .reservedBits
    else if rz w 0 19 && rz w 20 2 then keep (.lease (fld w 29 2)) else .error .reservedBits
  | 0x69 =>
    if rz w 0 6 then keep (.mma (fld w 29 2) (bt w 21) (bt w 20) (fld w 15 5) (fld w 10 5) (fld w 6 4)) else .error .reservedBits
  | 0x6A =>
    if rz w 0 5 then keep (.mmab (fld w 29 2) (bt w 21) (bt w 20) (fld w 15 5) (fld w 10 5) (fld w 6 4) (bt w 5)) else .error .reservedBits
  | 0x6B =>
    if rz w 0 6 && rz w 10 10 then keep (.mz (fld w 29 2) (bt w 21) (bt w 20) (fld w 6 4)) else .error .reservedBits
  | 0x6C =>
    if rz w 0 5 then keep (.dotk (fld w 29 2) (bt w 21) (bt w 20) (fld w 15 5) (fld w 10 5) (fld w 5 5)) else .error .reservedBits
  | 0x6D =>
    if rz w 0 5 then keep (.dotv (fld w 29 2) (bt w 21) (bt w 20) (fld w 15 5) (fld w 10 5) (fld w 5 5)) else .error .reservedBits
  | 0x6E =>
    if rz w 0 5 then keep (.dots (fld w 29 2) (bt w 21) (bt w 20) (fld w 15 5) (fld w 10 5) (fld w 5 5)) else .error .reservedBits
  | 0x6F =>
    if rz w 0 5 then keep (.dotx (fld w 29 2) (bt w 21) (bt w 20) (fld w 15 5) (fld w 10 5) (fld w 5 5)) else .error .reservedBits
  | 0x70 =>
    if rz w 0 3 && rz w 10 5 && rz w 19 1 then keep (.azero (fld w 29 2) (bt w 21) (bt w 20) (fld w 15 4) (fld w 3 7)) else .error .reservedBits
  | 0x71 =>
    if bt w 19 then if rz w 0 3 then keep (.awr (fld w 29 2) (bt w 21) (bt w 20) (fld w 15 4) (fld w 10 5) (fld w 3 7)) else .error .reservedBits
    else if rz w 0 2 then keep (.ard (fld w 29 2) (bt w 21) (bt w 20) (fld w 15 4) (fld w 10 5) (fld w 3 7) (bt w 2)) else .error .reservedBits
  | 0x72 =>
    if rz w 0 3 && rz w 19 1 then keep (.aadd (fld w 29 2) (bt w 21) (bt w 20) (fld w 15 4) (fld w 10 5) (fld w 3 7)) else .error .reservedBits
  | 0x73 =>
    if bt w 19 then if rz w 0 3 then keep (.ascl (fld w 29 2) (bt w 21) (bt w 20) (fld w 15 4) (fld w 10 5) (fld w 3 7)) else .error .reservedBits
    else if rz w 0 3 then keep (.amaxr (fld w 29 2) (bt w 21) (bt w 20) (fld w 15 4) (fld w 10 5) (fld w 3 7)) else .error .reservedBits
  | 0x05 => .error .wrongForm
  | 0x29 => .error .wrongForm
  | 0x2B => .error .wrongForm
  | _ => .error .reservedOpcode

/-- A syllable with its immediate word (R254, R267). -/
def decodeLong (w : Nat) (imm : BitVec 32) : Except DecodeErr Instr :=
  match w / 2 ^ 22 % 128 with
  | 0x05 =>
    if rz w 0 4 then keep (.loop (fld w 29 2) (fld w 19 3) (fld w 12 7) (fld w 4 8) (fld imm.toNat 16 16) (fld imm.toNat 0 16)) else .error .reservedBits
  | 0x10 =>
    if rz w 0 8 then keep (.addLong (fld w 29 2) (fld w 15 7) (fld w 8 7) imm) else .error .reservedBits
  | 0x11 =>
    if rz w 0 8 then keep (.subLong (fld w 29 2) (fld w 15 7) (fld w 8 7) imm) else .error .reservedBits
  | 0x12 =>
    if rz w 0 8 then keep (.mulLong (fld w 29 2) (fld w 15 7) (fld w 8 7) imm) else .error .reservedBits
  | 0x15 =>
    if rz w 0 8 then keep (.andLong (fld w 29 2) (fld w 15 7) (fld w 8 7) imm) else .error .reservedBits
  | 0x16 =>
    if rz w 0 8 then keep (.orLong (fld w 29 2) (fld w 15 7) (fld w 8 7) imm) else .error .reservedBits
  | 0x17 =>
    if rz w 0 8 then keep (.xorLong (fld w 29 2) (fld w 15 7) (fld w 8 7) imm) else .error .reservedBits
  | 0x18 =>
    if rz w 0 8 then keep (.andnLong (fld w 29 2) (fld w 15 7) (fld w 8 7) imm) else .error .reservedBits
  | 0x19 =>
    if rz w 0 8 then keep (.shlLong (fld w 29 2) (fld w 15 7) (fld w 8 7) imm) else .error .reservedBits
  | 0x1A =>
    if rz w 0 8 then keep (.shrLong (fld w 29 2) (fld w 15 7) (fld w 8 7) imm) else .error .reservedBits
  | 0x1B =>
    if rz w 0 8 then keep (.sraLong (fld w 29 2) (fld w 15 7) (fld w 8 7) imm) else .error .reservedBits
  | 0x1C =>
    if rz w 0 8 then keep (.rotrLong (fld w 29 2) (fld w 15 7) (fld w 8 7) imm) else .error .reservedBits
  | 0x1D =>
    if rz w 0 8 then keep (.minLong (fld w 29 2) (fld w 15 7) (fld w 8 7) imm) else .error .reservedBits
  | 0x1E =>
    if rz w 0 8 then keep (.maxLong (fld w 29 2) (fld w 15 7) (fld w 8 7) imm) else .error .reservedBits
  | 0x1F =>
    if rz w 0 8 then keep (.minuLong (fld w 29 2) (fld w 15 7) (fld w 8 7) imm) else .error .reservedBits
  | 0x20 =>
    if rz w 0 8 then keep (.maxuLong (fld w 29 2) (fld w 15 7) (fld w 8 7) imm) else .error .reservedBits
  | 0x21 =>
    if rz w 3 7 then keep (.cmpLong (fld w 29 2) (fld w 17 5) (fld w 10 7) (fld w 0 3) imm) else .error .reservedBits
  | 0x23 =>
    if bt w 0 then if rz w 1 14 then keep (.liHi (fld w 29 2) (fld w 15 7) imm) else .error .reservedBits
    else if rz w 1 14 then keep (.liLong (fld w 29 2) (fld w 15 7) imm) else .error .reservedBits
  | 0x24 =>
    if rz w 0 8 then keep (.addiLong (fld w 29 2) (fld w 15 7) (fld w 8 7) imm) else .error .reservedBits
  | 0x29 =>
    if rz w 0 16 then keep (.stgi (fld w 29 2) (fld w 20 2) (fld w 16 4) imm) else .error .reservedBits
  | 0x2B =>
    if rz w 0 16 then keep (.stgl (fld w 29 2) (fld w 20 2) (fld w 16 4) imm) else .error .reservedBits
  | 0x40 =>
    if rz w 0 6 then keep (.ldBLong (fld w 29 2) (fld w 15 7) (fld w 8 7) (bt w 7) (bt w 6) imm) else .error .reservedBits
  | 0x41 =>
    if rz w 0 6 then keep (.ldHLong (fld w 29 2) (fld w 15 7) (fld w 8 7) (bt w 7) (bt w 6) imm) else .error .reservedBits
  | 0x42 =>
    if rz w 0 6 then keep (.ldWLong (fld w 29 2) (fld w 15 7) (fld w 8 7) (bt w 7) (bt w 6) imm) else .error .reservedBits
  | 0x43 =>
    if rz w 0 6 && rz w 7 1 then keep (.ldDLong (fld w 29 2) (fld w 15 7) (fld w 8 7) (bt w 6) imm) else .error .reservedBits
  | 0x44 =>
    if rz w 0 6 && rz w 7 1 then keep (.stBLong (fld w 29 2) (fld w 15 7) (fld w 8 7) (bt w 6) imm) else .error .reservedBits
  | 0x45 =>
    if rz w 0 6 && rz w 7 1 then keep (.stHLong (fld w 29 2) (fld w 15 7) (fld w 8 7) (bt w 6) imm) else .error .reservedBits
  | 0x46 =>
    if rz w 0 6 && rz w 7 1 then keep (.stWLong (fld w 29 2) (fld w 15 7) (fld w 8 7) (bt w 6) imm) else .error .reservedBits
  | 0x47 =>
    if rz w 0 6 && rz w 7 1 then keep (.stDLong (fld w 29 2) (fld w 15 7) (fld w 8 7) (bt w 6) imm) else .error .reservedBits
  | 0x48 =>
    if rz w 0 2 then keep (.ldcLong (fld w 29 2) (fld w 15 7) (fld w 8 7) (fld w 6 2) (bt w 5) (bt w 4) (fld w 2 2) imm) else .error .reservedBits
  | 0x49 =>
    if rz w 0 2 && rz w 5 1 then keep (.stcLong (fld w 29 2) (fld w 15 7) (fld w 8 7) (fld w 6 2) (bt w 4) (fld w 2 2) imm) else .error .reservedBits
  | 0x00 => .error .wrongForm
  | 0x01 => .error .wrongForm
  | 0x02 => .error .wrongForm
  | 0x03 => .error .wrongForm
  | 0x04 => .error .wrongForm
  | 0x06 => .error .wrongForm
  | 0x07 => .error .wrongForm
  | 0x08 => .error .wrongForm
  | 0x09 => .error .wrongForm
  | 0x0A => .error .wrongForm
  | 0x0B => .error .wrongForm
  | 0x0C => .error .wrongForm
  | 0x0D => .error .wrongForm
  | 0x0E => .error .wrongForm
  | 0x0F => .error .wrongForm
  | 0x13 => .error .wrongForm
  | 0x14 => .error .wrongForm
  | 0x22 => .error .wrongForm
  | 0x25 => .error .wrongForm
  | 0x26 => .error .wrongForm
  | 0x27 => .error .wrongForm
  | 0x28 => .error .wrongForm
  | 0x2A => .error .wrongForm
  | 0x30 => .error .wrongForm
  | 0x31 => .error .wrongForm
  | 0x32 => .error .wrongForm
  | 0x33 => .error .wrongForm
  | 0x34 => .error .wrongForm
  | 0x35 => .error .wrongForm
  | 0x36 => .error .wrongForm
  | 0x37 => .error .wrongForm
  | 0x38 => .error .wrongForm
  | 0x39 => .error .wrongForm
  | 0x3A => .error .wrongForm
  | 0x3B => .error .wrongForm
  | 0x3C => .error .wrongForm
  | 0x3D => .error .wrongForm
  | 0x3E => .error .wrongForm
  | 0x3F => .error .wrongForm
  | 0x4A => .error .wrongForm
  | 0x4B => .error .wrongForm
  | 0x4C => .error .wrongForm
  | 0x4D => .error .wrongForm
  | 0x4E => .error .wrongForm
  | 0x4F => .error .wrongForm
  | 0x50 => .error .wrongForm
  | 0x51 => .error .wrongForm
  | 0x52 => .error .wrongForm
  | 0x53 => .error .wrongForm
  | 0x54 => .error .wrongForm
  | 0x55 => .error .wrongForm
  | 0x56 => .error .wrongForm
  | 0x57 => .error .wrongForm
  | 0x58 => .error .wrongForm
  | 0x59 => .error .wrongForm
  | 0x5A => .error .wrongForm
  | 0x5B => .error .wrongForm
  | 0x5C => .error .wrongForm
  | 0x5D => .error .wrongForm
  | 0x5E => .error .wrongForm
  | 0x5F => .error .wrongForm
  | 0x60 => .error .wrongForm
  | 0x61 => .error .wrongForm
  | 0x62 => .error .wrongForm
  | 0x63 => .error .wrongForm
  | 0x64 => .error .wrongForm
  | 0x65 => .error .wrongForm
  | 0x66 => .error .wrongForm
  | 0x67 => .error .wrongForm
  | 0x68 => .error .wrongForm
  | 0x69 => .error .wrongForm
  | 0x6A => .error .wrongForm
  | 0x6B => .error .wrongForm
  | 0x6C => .error .wrongForm
  | 0x6D => .error .wrongForm
  | 0x6E => .error .wrongForm
  | 0x6F => .error .wrongForm
  | 0x70 => .error .wrongForm
  | 0x71 => .error .wrongForm
  | 0x72 => .error .wrongForm
  | 0x73 => .error .wrongForm
  | _ => .error .reservedOpcode

/-- The instruction of a syllable. -/
def decodeSyl (y : Syl) : Except DecodeErr Instr :=
  match y.imm with
  | none => decodeShort y.w.toNat
  | some imm => decodeLong y.w.toNat imm

/-- The syllable of a tile instruction, STOP clear (R254). None: the step is no tile syllable. -/
def encodeSyl : Instr → Option Syl
  | .nop q => some ⟨sylWord q 0x00 (0), none⟩
  | .br q off => some ⟨sylWord q 0x01 (put off 0 (0)), none⟩
  | .brc q c neg off => some ⟨sylWord q 0x02 (put c 17 (putB neg 16 (put off 0 (0)))), none⟩
  | .brx q a => some ⟨sylWord q 0x03 (put a 14 (0)), none⟩
  | .ret q => some ⟨sylWord q 0x03 (0x200000), none⟩
  | .call q off => some ⟨sylWord q 0x04 (put off 0 (0)), none⟩
  | .loop q lev a min endOff short => some ⟨sylWord q 0x05 (put lev 19 (put a 12 (put min 4 (0)))), (some (BitVec.ofNat 32 (put endOff 16 (put short 0 (0)))))⟩
  | .brkl q lev cond c neg => some ⟨sylWord q 0x06 (put lev 19 (putB cond 18 (put c 13 (putB neg 12 (0))))), none⟩
  | .fork q off => some ⟨sylWord q 0x07 (put off 0 (0)), none⟩
  | .join q mask id => some ⟨sylWord q 0x08 (put mask 14 (put id 6 (0))), none⟩
  | .halt q => some ⟨sylWord q 0x09 (0), none⟩
  | .exit q => some ⟨sylWord q 0x09 (0x200000), none⟩
  | .trap q code => some ⟨sylWord q 0x0A (put code 0 (0)), none⟩
  | .eret q => some ⟨sylWord q 0x0A (0x200000), none⟩
  | .setc q c => some ⟨sylWord q 0x0B (put c 16 (0)), none⟩
  | .clrc q c => some ⟨sylWord q 0x0B (put c 16 (0x200000)), none⟩
  | .waitc q c neg => some ⟨sylWord q 0x0C (put c 17 (putB neg 16 (0))), none⟩
  | .preemptpt q => some ⟨sylWord q 0x0D (0), none⟩
  | .csrr q x csr => some ⟨sylWord q 0x0E (put x 14 (put csr 2 (0))), none⟩
  | .csrw q x csr => some ⟨sylWord q 0x0E (put x 14 (put csr 2 (0x200000))), none⟩
  | .getid q d sel => some ⟨sylWord q 0x0F (put d 14 (put sel 8 (0))), none⟩
  | .rget q d a => some ⟨sylWord q 0x0F (put d 14 (put a 7 (0x200000))), none⟩
  | .add q d a b => some ⟨sylWord q 0x10 (put d 15 (put a 8 (put b 1 (0)))), none⟩
  | .addLong q d a imm => some ⟨sylWord q 0x10 (put d 15 (put a 8 (0))), (some imm)⟩
  | .sub q d a b => some ⟨sylWord q 0x11 (put d 15 (put a 8 (put b 1 (0)))), none⟩
  | .subLong q d a imm => some ⟨sylWord q 0x11 (put d 15 (put a 8 (0))), (some imm)⟩
  | .mul q d a b => some ⟨sylWord q 0x12 (put d 15 (put a 8 (put b 1 (0)))), none⟩
  | .mulLong q d a imm => some ⟨sylWord q 0x12 (put d 15 (put a 8 (0))), (some imm)⟩
  | .mulh q d a b uns => some ⟨sylWord q 0x13 (put d 15 (put a 8 (put b 1 (putB uns 0 (0))))), none⟩
  | .madd q d a b => some ⟨sylWord q 0x14 (put d 15 (put a 8 (put b 1 (0)))), none⟩
  | .and q d a b => some ⟨sylWord q 0x15 (put d 15 (put a 8 (put b 1 (0)))), none⟩
  | .andLong q d a imm => some ⟨sylWord q 0x15 (put d 15 (put a 8 (0))), (some imm)⟩
  | .or q d a b => some ⟨sylWord q 0x16 (put d 15 (put a 8 (put b 1 (0)))), none⟩
  | .orLong q d a imm => some ⟨sylWord q 0x16 (put d 15 (put a 8 (0))), (some imm)⟩
  | .xor q d a b => some ⟨sylWord q 0x17 (put d 15 (put a 8 (put b 1 (0)))), none⟩
  | .xorLong q d a imm => some ⟨sylWord q 0x17 (put d 15 (put a 8 (0))), (some imm)⟩
  | .andn q d a b => some ⟨sylWord q 0x18 (put d 15 (put a 8 (put b 1 (0)))), none⟩
  | .andnLong q d a imm => some ⟨sylWord q 0x18 (put d 15 (put a 8 (0))), (some imm)⟩
  | .shl q d a b => some ⟨sylWord q 0x19 (put d 15 (put a 8 (put b 1 (0)))), none⟩
  | .shlLong q d a imm => some ⟨sylWord q 0x19 (put d 15 (put a 8 (0))), (some imm)⟩
  | .shr q d a b => some ⟨sylWord q 0x1A (put d 15 (put a 8 (put b 1 (0)))), none⟩
  | .shrLong q d a imm => some ⟨sylWord q 0x1A (put d 15 (put a 8 (0))), (some imm)⟩
  | .sra q d a b => some ⟨sylWord q 0x1B (put d 15 (put a 8 (put b 1 (0)))), none⟩
  | .sraLong q d a imm => some ⟨sylWord q 0x1B (put d 15 (put a 8 (0))), (some imm)⟩
  | .rotr q d a b => some ⟨sylWord q 0x1C (put d 15 (put a 8 (put b 1 (0)))), none⟩
  | .rotrLong q d a imm => some ⟨sylWord q 0x1C (put d 15 (put a 8 (0))), (some imm)⟩
  | .min q d a b => some ⟨sylWord q 0x1D (put d 15 (put a 8 (put b 1 (0)))), none⟩
  | .minLong q d a imm => some ⟨sylWord q 0x1D (put d 15 (put a 8 (0))), (some imm)⟩
  | .max q d a b => some ⟨sylWord q 0x1E (put d 15 (put a 8 (put b 1 (0)))), none⟩
  | .maxLong q d a imm => some ⟨sylWord q 0x1E (put d 15 (put a 8 (0))), (some imm)⟩
  | .minu q d a b => some ⟨sylWord q 0x1F (put d 15 (put a 8 (put b 1 (0)))), none⟩
  | .minuLong q d a imm => some ⟨sylWord q 0x1F (put d 15 (put a 8 (0))), (some imm)⟩
  | .maxu q d a b => some ⟨sylWord q 0x20 (put d 15 (put a 8 (put b 1 (0)))), none⟩
  | .maxuLong q d a imm => some ⟨sylWord q 0x20 (put d 15 (put a 8 (0))), (some imm)⟩
  | .cmp q c a b p => some ⟨sylWord q 0x21 (put c 17 (put a 10 (put b 3 (put p 0 (0))))), none⟩
  | .cmpLong q c a p imm => some ⟨sylWord q 0x21 (put c 17 (put a 10 (put p 0 (0)))), (some imm)⟩
  | .sel q d a c neg => some ⟨sylWord q 0x22 (put d 15 (put a 8 (put c 3 (putB neg 2 (0))))), none⟩
  | .li q d imm => some ⟨sylWord q 0x23 (put d 15 (put imm 0 (0))), none⟩
  | .liLong q d imm => some ⟨sylWord q 0x23 (put d 15 (0)), (some imm)⟩
  | .liHi q d imm => some ⟨sylWord q 0x23 (put d 15 (0x1)), (some imm)⟩
  | .addi q d a imm => some ⟨sylWord q 0x24 (put d 15 (put a 8 (put imm 0 (0)))), none⟩
  | .addiLong q d a imm => some ⟨sylWord q 0x24 (put d 15 (put a 8 (0))), (some imm)⟩
  | .ext q d a b => some ⟨sylWord q 0x25 (put d 15 (put a 8 (put b 1 (0)))), none⟩
  | .ins q d a b => some ⟨sylWord q 0x25 (put d 15 (put a 8 (put b 1 (0x1)))), none⟩
  | .popc q d a => some ⟨sylWord q 0x26 (put d 15 (put a 8 (0))), none⟩
  | .clz q d a => some ⟨sylWord q 0x26 (put d 15 (put a 8 (0x1))), none⟩
  | .hashb q d a b => some ⟨sylWord q 0x27 (put d 15 (put a 8 (put b 1 (0)))), none⟩
  | .stg q e n a => some ⟨sylWord q 0x28 (put e 20 (put n 16 (put a 9 (0)))), none⟩
  | .stgi q e n imm => some ⟨sylWord q 0x29 (put e 20 (put n 16 (0))), (some imm)⟩
  | .stgr q e n d => some ⟨sylWord q 0x2A (put e 20 (put n 16 (put d 9 (0)))), none⟩
  | .stgl q e n imm => some ⟨sylWord q 0x2B (put e 20 (put n 16 (0))), (some imm)⟩
  | .fadd q d a b p => some ⟨sylWord q 0x30 (put d 15 (put a 8 (put b 1 (putB p 0 (0))))), none⟩
  | .fsub q d a b p => some ⟨sylWord q 0x31 (put d 15 (put a 8 (put b 1 (putB p 0 (0))))), none⟩
  | .fmul q d a b p => some ⟨sylWord q 0x32 (put d 15 (put a 8 (put b 1 (putB p 0 (0))))), none⟩
  | .fma q d a b p => some ⟨sylWord q 0x33 (put d 15 (put a 8 (put b 1 (putB p 0 (0))))), none⟩
  | .fmin q d a b p => some ⟨sylWord q 0x34 (put d 15 (put a 8 (put b 1 (putB p 0 (0))))), none⟩
  | .fmax q d a b p => some ⟨sylWord q 0x35 (put d 15 (put a 8 (put b 1 (putB p 0 (0))))), none⟩
  | .fcmp q c a b r p => some ⟨sylWord q 0x36 (put c 17 (put a 10 (put b 3 (put r 1 (putB p 0 (0)))))), none⟩
  | .fcvt q d a conv rm p => some ⟨sylWord q 0x37 (put d 15 (put a 8 (put conv 4 (put rm 1 (putB p 0 (0)))))), none⟩
  | .fabs q d a p => some ⟨sylWord q 0x38 (put d 15 (put a 8 (putB p 0 (0)))), none⟩
  | .fneg q d a p => some ⟨sylWord q 0x38 (put d 15 (put a 8 (putB p 0 (0x2)))), none⟩
  | .frcp q d a p => some ⟨sylWord q 0x39 (put d 15 (put a 8 (putB p 0 (0)))), none⟩
  | .frsq q d a p => some ⟨sylWord q 0x3A (put d 15 (put a 8 (putB p 0 (0)))), none⟩
  | .fexp2 q d a p => some ⟨sylWord q 0x3B (put d 15 (put a 8 (putB p 0 (0)))), none⟩
  | .flog2 q d a p => some ⟨sylWord q 0x3C (put d 15 (put a 8 (putB p 0 (0)))), none⟩
  | .fdiv q d a b p => some ⟨sylWord q 0x3D (put d 15 (put a 8 (put b 1 (putB p 0 (0))))), none⟩
  | .fsqrt q d a rm p => some ⟨sylWord q 0x3E (put d 15 (put a 8 (put rm 1 (putB p 0 (0))))), none⟩
  | .fclass q d a p => some ⟨sylWord q 0x3F (put d 15 (put a 8 (putB p 0 (0)))), none⟩
  | .ldB q d a sx aq off => some ⟨sylWord q 0x40 (put d 15 (put a 8 (putB sx 7 (putB aq 6 (put off 0 (0)))))), none⟩
  | .ldBLong q d a sx aq imm => some ⟨sylWord q 0x40 (put d 15 (put a 8 (putB sx 7 (putB aq 6 (0))))), (some imm)⟩
  | .ldH q d a sx aq off => some ⟨sylWord q 0x41 (put d 15 (put a 8 (putB sx 7 (putB aq 6 (put off 0 (0)))))), none⟩
  | .ldHLong q d a sx aq imm => some ⟨sylWord q 0x41 (put d 15 (put a 8 (putB sx 7 (putB aq 6 (0))))), (some imm)⟩
  | .ldW q d a sx aq off => some ⟨sylWord q 0x42 (put d 15 (put a 8 (putB sx 7 (putB aq 6 (put off 0 (0)))))), none⟩
  | .ldWLong q d a sx aq imm => some ⟨sylWord q 0x42 (put d 15 (put a 8 (putB sx 7 (putB aq 6 (0))))), (some imm)⟩
  | .ldD q d a aq off => some ⟨sylWord q 0x43 (put d 15 (put a 8 (putB aq 6 (put off 0 (0))))), none⟩
  | .ldDLong q d a aq imm => some ⟨sylWord q 0x43 (put d 15 (put a 8 (putB aq 6 (0)))), (some imm)⟩
  | .stB q xs a rl off => some ⟨sylWord q 0x44 (put xs 15 (put a 8 (putB rl 6 (put off 0 (0))))), none⟩
  | .stBLong q xs a rl imm => some ⟨sylWord q 0x44 (put xs 15 (put a 8 (putB rl 6 (0)))), (some imm)⟩
  | .stH q xs a rl off => some ⟨sylWord q 0x45 (put xs 15 (put a 8 (putB rl 6 (put off 0 (0))))), none⟩
  | .stHLong q xs a rl imm => some ⟨sylWord q 0x45 (put xs 15 (put a 8 (putB rl 6 (0)))), (some imm)⟩
  | .stW q xs a rl off => some ⟨sylWord q 0x46 (put xs 15 (put a 8 (putB rl 6 (put off 0 (0))))), none⟩
  | .stWLong q xs a rl imm => some ⟨sylWord q 0x46 (put xs 15 (put a 8 (putB rl 6 (0)))), (some imm)⟩
  | .stD q xs a rl off => some ⟨sylWord q 0x47 (put xs 15 (put a 8 (putB rl 6 (put off 0 (0))))), none⟩
  | .stDLong q xs a rl imm => some ⟨sylWord q 0x47 (put xs 15 (put a 8 (putB rl 6 (0)))), (some imm)⟩
  | .ldc q d a sz sx aq spc => some ⟨sylWord q 0x48 (put d 15 (put a 8 (put sz 6 (putB sx 5 (putB aq 4 (put spc 2 (0))))))), none⟩
  | .ldcLong q d a sz sx aq spc imm => some ⟨sylWord q 0x48 (put d 15 (put a 8 (put sz 6 (putB sx 5 (putB aq 4 (put spc 2 (0))))))), (some imm)⟩
  | .stc q xs a sz rl spc => some ⟨sylWord q 0x49 (put xs 15 (put a 8 (put sz 6 (putB rl 4 (put spc 2 (0)))))), none⟩
  | .stcLong q xs a sz rl spc imm => some ⟨sylWord q 0x49 (put xs 15 (put a 8 (put sz 6 (putB rl 4 (put spc 2 (0)))))), (some imm)⟩
  | .amo q xdp a op sz aq rl spc => some ⟨sylWord q 0x4A (put xdp 16 (put a 9 (put op 5 (putB sz 4 (putB aq 3 (putB rl 2 (put spc 0 (0)))))))), none⟩
  | .flagset q a b => some ⟨sylWord q 0x4B (put a 15 (put b 8 (0))), none⟩
  | .waitf q d a => some ⟨sylWord q 0x4C (put d 15 (put a 8 (0))), none⟩
  | .flagtest q d a c aq => some ⟨sylWord q 0x4D (put d 15 (put a 8 (put c 3 (putB aq 2 (0))))), none⟩
  | .probe q a b wr spc => some ⟨sylWord q 0x4E (put a 14 (put b 7 (putB wr 6 (put spc 4 (0))))), none⟩
  | .pref q a b l1 spc => some ⟨sylWord q 0x4E (put a 14 (put b 7 (putB l1 6 (put spc 4 (0x200000))))), none⟩
  | .fence q kind => some ⟨sylWord q 0x4F (put kind 20 (0)), none⟩
  | .cpyin q acq rel tagv tag lin spc => some ⟨sylWord q 0x50 (putB acq 21 (putB rel 20 (putB tagv 19 (put tag 13 (putB lin 12 (put spc 10 (0))))))), none⟩
  | .cpyout q acq rel tagv tag lin spc => some ⟨sylWord q 0x51 (putB acq 21 (putB rel 20 (putB tagv 19 (put tag 13 (putB lin 12 (put spc 10 (0))))))), none⟩
  | .cpyss q acq rel tagv tag => some ⟨sylWord q 0x52 (putB acq 21 (putB rel 20 (putB tagv 19 (put tag 13 (0))))), none⟩
  | .cpyr q acq tagv tag => some ⟨sylWord q 0x53 (putB acq 21 (putB tagv 19 (put tag 13 (0)))), none⟩
  | .mcast q acq rel tagv tag lin spc tmask => some ⟨sylWord q 0x54 (putB acq 21 (putB rel 20 (putB tagv 19 (put tag 13 (putB lin 12 (put spc 10 (put tmask 6 (0)))))))), none⟩
  | .bind q acq rel n => some ⟨sylWord q 0x55 (putB acq 21 (putB rel 20 (put n 15 (0)))), none⟩
  | .unbind q acq rel n => some ⟨sylWord q 0x55 (putB acq 21 (putB rel 20 (put n 15 (0x4000)))), none⟩
  | .sadv q acq rel n k => some ⟨sylWord q 0x56 (putB acq 21 (putB rel 20 (put n 15 (put k 0 (0))))), none⟩
  | .idxld q acq rel tagv tag spc => some ⟨sylWord q 0x57 (putB acq 21 (putB rel 20 (putB tagv 19 (put tag 13 (put spc 10 (0)))))), none⟩
  | .waitta q a => some ⟨sylWord q 0x58 (put a 14 (0)), none⟩
  | .waittl q a => some ⟨sylWord q 0x58 (put a 14 (0x200000)), none⟩
  | .ffrt q d a clr => some ⟨sylWord q 0x59 (put d 15 (put a 8 (putB clr 7 (0)))), none⟩
  | .tagclr q a => some ⟨sylWord q 0x5A (put a 13 (0)), none⟩
  | .qpush q acq xq xs => some ⟨sylWord q 0x5B (putB acq 21 (put xq 13 (put xs 6 (0)))), none⟩
  | .qpop q xq xs => some ⟨sylWord q 0x5C (put xq 13 (put xs 6 (0))), none⟩
  | .dsig q d => some ⟨sylWord q 0x5D (put d 14 (0)), none⟩
  | .dwaitDist q e k => some ⟨sylWord q 0x5D (put e 17 (put k 0 (0x200000))), none⟩
  | .dwaitReg q e x => some ⟨sylWord q 0x5D (put e 17 (put x 10 (0x300000))), none⟩
  | .send q acq tagv tag => some ⟨sylWord q 0x5E (putB acq 21 (putB tagv 19 (put tag 13 (0)))), none⟩
  | .recv q => some ⟨sylWord q 0x5F (0), none⟩
  | .chain q acq rel qo qa qb p sr => some ⟨sylWord q 0x60 (putB acq 21 (putB rel 20 (put qo 15 (put qa 10 (put qb 5 (putB p 4 (putB sr 3 (0)))))))), none⟩
  | .vred q acq rel qo qa p f => some ⟨sylWord q 0x61 (putB acq 21 (putB rel 20 (put qo 15 (put qa 10 (putB p 4 (put f 0 (0))))))), none⟩
  | .vgath q acq rel qo qb p => some ⟨sylWord q 0x62 (putB acq 21 (putB rel 20 (put qo 15 (put qb 5 (putB p 4 (0)))))), none⟩
  | .vscat q acq rel qa qb p f => some ⟨sylWord q 0x63 (putB acq 21 (putB rel 20 (put qa 10 (put qb 5 (putB p 4 (put f 0 (0))))))), none⟩
  | .vcvt q acq rel qo qa p sr => some ⟨sylWord q 0x64 (putB acq 21 (putB rel 20 (put qo 15 (put qa 10 (putB p 4 (putB sr 3 (0))))))), none⟩
  | .vqnt q acq rel qo qa sr => some ⟨sylWord q 0x65 (putB acq 21 (putB rel 20 (put qo 15 (put qa 10 (putB sr 3 (0)))))), none⟩
  | .vfill q acq rel qo p f => some ⟨sylWord q 0x66 (putB acq 21 (putB rel 20 (put qo 15 (putB p 4 (put f 0 (0)))))), none⟩
  | .vtrn q acq rel qo qa p => some ⟨sylWord q 0x67 (putB acq 21 (putB rel 20 (put qo 15 (put qa 10 (putB p 4 (0)))))), none⟩
  | .lease q => some ⟨sylWord q 0x68 (0), none⟩
  | .rels q => some ⟨sylWord q 0x68 (0x80000), none⟩
  | .mma q acq rel qa qb bank => some ⟨sylWord q 0x69 (putB acq 21 (putB rel 20 (put qa 15 (put qb 10 (put bank 6 (0)))))), none⟩
  | .mmab q acq rel qa qb bank loadb => some ⟨sylWord q 0x6A (putB acq 21 (putB rel 20 (put qa 15 (put qb 10 (put bank 6 (putB loadb 5 (0))))))), none⟩
  | .mz q acq rel bank => some ⟨sylWord q 0x6B (putB acq 21 (putB rel 20 (put bank 6 (0)))), none⟩
  | .dotk q acq rel qq qk qo => some ⟨sylWord q 0x6C (putB acq 21 (putB rel 20 (put qq 15 (put qk 10 (put qo 5 (0)))))), none⟩
  | .dotv q acq rel qq qk qo => some ⟨sylWord q 0x6D (putB acq 21 (putB rel 20 (put qq 15 (put qk 10 (put qo 5 (0)))))), none⟩
  | .dots q acq rel qq qk qo => some ⟨sylWord q 0x6E (putB acq 21 (putB rel 20 (put qq 15 (put qk 10 (put qo 5 (0)))))), none⟩
  | .dotx q acq rel qq qk qo => some ⟨sylWord q 0x6F (putB acq 21 (putB rel 20 (put qq 15 (put qk 10 (put qo 5 (0)))))), none⟩
  | .azero q acq rel bank xp => some ⟨sylWord q 0x70 (putB acq 21 (putB rel 20 (put bank 15 (put xp 3 (0))))), none⟩
  | .ard q acq rel bank qn xp sr => some ⟨sylWord q 0x71 (putB acq 21 (putB rel 20 (put bank 15 (put qn 10 (put xp 3 (putB sr 2 (0))))))), none⟩
  | .awr q acq rel bank qn xp => some ⟨sylWord q 0x71 (putB acq 21 (putB rel 20 (put bank 15 (put qn 10 (put xp 3 (0x80000)))))), none⟩
  | .aadd q acq rel bank qn xp => some ⟨sylWord q 0x72 (putB acq 21 (putB rel 20 (put bank 15 (put qn 10 (put xp 3 (0)))))), none⟩
  | .amaxr q acq rel bank qn xp => some ⟨sylWord q 0x73 (putB acq 21 (putB rel 20 (put bank 15 (put qn 10 (put xp 3 (0)))))), none⟩
  | .ascl q acq rel bank qn xp => some ⟨sylWord q 0x73 (putB acq 21 (putB rel 20 (put bank 15 (put qn 10 (put xp 3 (0x80000)))))), none⟩
  | _ => none

/-- LEN of a TLI with n operand descriptors (R223). -/
def tliUnits (n : Nat) : Nat := 1 + (n + 3) / 4

/-- The words of a task-stream instruction (R222): four words of unit 0, then the descriptors, padded to whole units. -/
def encodeTli (i : Instr) : Option (List (BitVec 32)) :=
  match i.tli? with
  | none => none
  | some (opc, _, t) =>
    let n := t.opnds.length
    let w0 := opc * 2 ^ 26 + tliUnits n * 2 ^ 23 + n * 2 ^ 18 + t.yd.toNat * 2 ^ 12 + t.ya.toNat * 2 ^ 6 + t.yb.toNat
    some (BitVec.ofNat 32 w0 :: t.w1 :: t.w2 :: t.w3 :: (t.opnds ++ List.replicate (4 * (tliUnits n - 1) - n) 0))

/-- What decode makes of a TLI's words (R223). -/
inductive TliDec where
  | instr (i : Instr)
  /-- OPC is not assigned, or LEN is reserved. -/
  | unassigned
  /-- Another check of R223 fails; OPND of the fault record. -/
  | illegal (opnd : Nat)
  deriving DecidableEq, Repr

/-- LEN of a TLI's first word. -/
def tliLen (w0 : BitVec 32) : Nat := w0.toNat / 2 ^ 23 % 8

/-- R223: decode of the words of a TLI, unit 0 first. -/
def decodeTli : List (BitVec 32) → TliDec
  | w0 :: w1 :: w2 :: w3 :: ds =>
    let n := w0.toNat
    let opc := n / 2 ^ 26
    let nop := n / 2 ^ 18 % 32
    let t : Tli := ⟨fld n 12 6, fld n 6 6, fld n 0 6, w1, w2, w3, ds.take nop⟩
    match mkTli opc .decode t with
    | none => .unassigned
    | some i =>
      if tliLen w0 == 0 || 5 < tliLen w0 then .unassigned
      else if tliLen w0 != tliUnits nop || 16 < nop || ds.length < nop then .illegal 0x1F
      else if !(ds.drop nop).all (· == 0) then .illegal 0x1F
      else
        match tliIllegal opc t with
        | some k => .illegal k
        | none => .instr i
  | _ => .unassigned

/-- A syllable of 32 bits laid out as the table numbers it, with a zero immediate word where its opcode has only a
long form (R252, R254): STOP is the bundle's (R255). -/
def tableSyl (nbits w : Nat) : Syl :=
  let y : Syl := ⟨BitVec.ofNat 32 w, none⟩
  if 32 < nbits then ⟨BitVec.ofNat 32 w, some (BitVec.ofNat 32 (w / 2 ^ 32))⟩
  else
    match decodeSyl y with
    | .error .wrongForm => ⟨BitVec.ofNat 32 w, some 0⟩
    | _ => y

/-- The instruction that the decoder reads from a word of the opcode table. -/
def decodeTableWord (nbits w : Nat) : Option Instr :=
  match decodeSyl (tableSyl nbits w) with
  | .ok i => some i
  | .error _ => none

end Sys2Proof
end

