-- ==== Sys2Proof/Machine/State.lean ====
section
/-! DEFINITION. The state of the EN4 as plain data (INVENTORY.md, ## State). Every piece of state that the spec names
stands here under the rule that names it; the model's own fields (agenda, cur, freeCtr) say so. -/
namespace Sys2Proof.Machine

/-! ## A tile -/

/-- What a result in flight is bound for (R262, R290). Staging register n of engine e (R301's ENG code) has key
16 × e + n. -/
inductive Dest where
  | x (r : BitVec 7)
  | c (n : BitVec 5)
  | stg (key : Nat)
  | csr (n : Nat)
  deriving DecidableEq, Repr

/-- A result in flight (R262 to R264): value, the cycle in which its bound ends, the cycle of issue, issue order, issuing
group, and its bundle's address. An interlocked result has no bound; `poison` and `fva` say what its completion raises
(R109, R311). `latch`: a shadow latch re-delivers it (R375). `mem`: the result of a load, an LDC or an AMO (R142, R315).
`csr`: the CSR whose value at the end of the issue cycle it takes (R290). A result of a group that a FORK ended counts for
every group (group 255). -/
structure Pend where
  dest : Dest
  val : Word
  due : Nat
  born : Nat
  seq : Nat
  grp : Nat
  ilk : Bool
  latch : Bool
  poison : Bool
  fva : Nat
  addr : Word
  mem : Bool
  csr : Option Nat
  deriving DecidableEq, Repr

/-- What a slot-L syllable leaves to be done or waited for (R142, R143): a write that has yet to be performed; a release
fence; an acquire fence; a full fence, or one with a place in the hub's order (R144); an acquire load or atomic that has
yet to return (`gate`). -/
inductive MemOp where
  | st (off n : Nat) (v : Word)
  | stc (va : VA) (sz : BitVec 2) (v : Word)
  | amo (xd : BitVec 7) (va : VA) (op n v e : Nat) (aq : Bool)
  | rel
  | acq
  | full
  | tot
  | gate
  deriving DecidableEq, Repr

/-- One such record of a group (255: of every group): the bundle's SCOPE, whether the write is a release, the place in the
tile's issue order, and the slot and bundle that a cause names. -/
structure MemWait where
  op : MemOp
  grp : Nat
  scope : Nat
  rl : Bool
  seq : Nat
  slot : Nat
  addr : Word
  deriving DecidableEq, Repr

/-- A shadow latch (R371): the result and its offset d. -/
structure Latch where
  p : Pend
  d : Nat
  deriving DecidableEq, Repr

/-- One entered loop level of a sequencer (R172): index, remaining trip, full count, stride, body bounds, PRE. -/
structure LoopLv where
  i : BitVec 32
  rem : Nat
  full : Nat
  stride : BitVec 32
  start : Word
  last : Word
  pre : Bool
  deriving DecidableEq, Repr

/-- A sequencer (R157, R172): bundle address and loop stack, outermost level first. -/
structure Seqr where
  addr : Word
  halted : Bool
  loops : List LoopLv
  deriving DecidableEq, Repr

/-- A write partition (R166). -/
structure Part where
  xFirst : Nat
  xLast : Nat
  cFirst : Nat
  cLast : Nat
  deriving DecidableEq, Repr

/-- A command in an engine queue or a copy queue: its syllable, the staging registers of its engine and the `x`
values it read at issue, ASP[SPC] and VMODE at issue, its number in the group's push sequence, its group, its bundle's
SCOPE, and its place in the tile's issue order (R11, R117, R176, R261, R290, R331). -/
structure Cmd where
  i : Instr
  stg : List Word
  xv : List Word
  asp : BitVec 16
  num : BitVec 16
  grp : Nat
  scope : Nat
  ord : Nat
  vmode : Bool
  deriving DecidableEq, Repr

/-- What a waiting instruction waits for (R265, R316). A WAITF is parked once its first test has found its word empty, and
woken with a value (R125). `recvRest`: a RECV that has taken a part of its bytes already (R396). `again`: an instruction that
is performed, from its start, when the others of its bundle are done: a LOOP, a FORK or a BRKL that raised FETCH, a FORK,
HALT or EXIT beside what its bundle leaves to be done (R151, R287). `loopAt`: a LOOP, its operands read and its first checks
made, that reads its record, at an offset, once its group's earlier stores are made (R133, R284). -/
inductive Wait where
  | waitc (c : BitVec 5) (neg : Bool)
  | waitf (d : BitVec 7) (off : Nat) (parked : Bool) (woken : Option Word)
  | probe (va : VA) (len : Word) (wr : Bool)
  | tags (mask : Word) (all : Bool)
  | qpop (qid : BitVec 32) (off : Nat)
  | recv (port strm off len : Nat)
  | recvRest (port strm off len : Nat)
  | lease
  | join (mask : BitVec 8) (id : BitVec 8)
  | again
  | loopAt (off : Nat)
  deriving DecidableEq, Repr

/-- A waiting instruction with the slot and SCOPE of its syllable, its place in the tile's issue order (`since`), and, for one
that is performed again after a freeze (R316), its syllable. -/
structure WaitRec where
  w : Wait
  slot : Nat
  scope : Nat
  since : Nat
  i : Instr
  deriving DecidableEq, Repr

/-- A slot group (R157, R166): slots, write partition, the earliest cycle of its next bundle (R256), its push sequence
(R176), its waiting instructions, whether it halted (R170), stopped at a pre-emption point (R383), the loop depth at
its FORK (R172), a breakpoint that it passes once (R378); the address and length of the bundle that it issued last,
where that bundle sends it (none: past the body-end step of R285), and whether that move is still to be made. -/
structure Group where
  num : Nat
  slots : BitVec 8
  part : Option Part
  nextIssue : Nat
  pushSeq : BitVec 16
  waits : List WaitRec
  halted : Bool
  ppStop : Bool
  forkDepth : Nat
  brkPass : Bool
  baddr : Word
  blen : Nat
  goto : Option Word
  opened : Bool
  deriving DecidableEq, Repr

/-- A SETC (R150): the bit, the setting group, its place in the issue order, the value that other groups still see,
and the cycle from which they see the bit, once it is known. -/
structure SetcRec where
  c : BitVec 5
  grp : Nat
  seq : Nat
  old : Bool
  vis : Option Nat
  deriving DecidableEq, Repr

/-- A stream register (R64, R67): DESC, the tensor descriptor read at BIND (R59), owner, the positions of the engines
and of the tile-walk engine, the positions that SADV skipped (R323), the binding group, its BIND's number and place in the issue order, SCOPE and flags; the bytes whose
elements are undefined for the rest of the binding (R71), from the first to below the second, and former values of entries
of the indirect table that were written after BIND (R73). -/
structure Stream where
  desc : List Word
  tdesc : Nat
  owner : Option Nat
  wdone : Bool
  epos : Nat
  wpos : Nat
  skips : List (Nat × Nat)
  grp : Nat
  num : Nat
  ord : Nat
  scope : Nat
  acq : Bool
  rel : Bool
  tagDone : Bool
  spoilt : List (Nat × Nat)
  ixOld : List (Nat × Nat)
  deriving DecidableEq, Repr

/-- A copy in the copy queue (R120). Phase 0: queued; 1: running; 2: its OPS write is at the target; 3: landed. `pos`: the
bytes of a SEND that the peer has accepted; `task`: the task whose kernel issued it. -/
structure Copy where
  cmd : Cmd
  phase : Nat
  id : Nat
  pos : Nat
  task : Nat
  deriving DecidableEq, Repr

/-- A range of bytes whose contents are undefined until they are written (R119, R187, R247): each byte from `lo` to
below `hi` holds the free value of the model's number `gen`. -/
structure Undef where
  lo : Nat
  hi : Nat
  gen : Nat
  deriving DecidableEq, Repr

/-- An OPS write accepted for a tile (R27, R124): window, offset, bytes with their poison, the flag fill that follows
them, and the copy that made it. -/
structure OpsIn where
  win : Nat
  off : Nat
  bytes : List (Byte × Bool)
  flag : Option (Nat × Word)
  srcTile : Nat
  srcId : Nat
  deriving DecidableEq, Repr

/-- An engine's queue; the head is the running command when `run` holds (R261, R332). -/
structure EngQ where
  q : List Cmd
  run : Bool
  deriving DecidableEq, Repr

/-- A line of the L1 (R115, R136) or of the instruction cache (R3, R153): ASID, VA of its first byte, fill cycle, its 64
bytes. -/
structure L1Line where
  asid : Nat
  va : Nat
  fill : Nat
  bytes : List Byte
  deriving DecidableEq, Repr

/-- Whether a tile runs (R165, R370, R377). `starting`: placed, its blocks not yet written. `loaded`: its blocks written,
those of its gang not all (R410). `ending`: EXIT or all halted, waiting for R129. -/
inductive TStat where
  | idle | starting | loaded | running | frozen | held | ending
  deriving DecidableEq, Repr

/-- What handler entry sets aside until ERET (R373, R375), with the place in the issue order at which it came. -/
structure Outer where
  ord : Nat
  groups : List Group
  seqs : List Seqr
  lockstep : Bool
  latches : List Latch
  frame : SMap Word
  deriving DecidableEq, Repr

/-- A scratchpad bank in retention (R111, R112): the phase and the cycle in which it ends. -/
inductive RetPhase where
  | active | entering (till : Nat) | retained | leaving (till : Nat)
  deriving DecidableEq, Repr

/-- Why a probe or a fetch failed, as the firmware sees it (R377): a far page, an unmapped or denied one, no hold left. -/
inductive ProbeWhy where
  | none | far | unmapped | holdFull
  deriving DecidableEq, Repr

/-- A cause recorded in a cycle, with what R369 ranks it by and what the frame says of it (R372): its group, slot and
engine, its engine command's push number, CODE, FADDR, FVA (80 bits), FQ, and FREG with FREGC; and why a probe failed. -/
structure Raised where
  cause : Cause
  cycle : Nat
  eng : Option Eng
  tw : Bool
  grp : Nat
  slot : Nat
  qseq : Nat
  code : Nat
  faddr : Word
  fva : Nat
  fq : Option (BitVec 5)
  freg : Option (Nat × Bool)
  why : ProbeWhy
  deriving DecidableEq, Repr

/-- A tile (R23, R25, R26, R67, R118, R165, R291, R372). `clk` counts its cycles since it was placed, those in which it
is frozen among them: bounds, periods and freeze points stand in it (the model's own field); `frozeAt`: the cycle in which
it froze last, `goesAt`: the first after its last resume. In the present cycle, `tried`:
the groups that raised a cause at their next bundle; `ports`: the registers read; `refused`: the groups that had no read
port in the cycle before (R260). -/
structure Tile where
  stat : TStat
  inHandler : Bool
  ctx : Nat
  last : Option Nat
  task : Nat
  entry : Word
  traph : Word
  prebnd : Nat
  feat : Word
  wdog : Nat
  xs : SMap Word
  cs : BitVec 32
  stg : SMap Word
  tags : Word
  tcnt : SMap Nat
  qs : SMap Stream
  spad : SMap Byte
  spadBad : List Nat
  spadUndef : List Undef
  acc : SMap Byte
  accBad : List Nat
  accUndef : List Undef
  csp : BitVec 16
  asp : SMap (BitVec 16)
  featmask : Word
  lvid : SMap Word
  lvGroup : Option Nat
  grank : Word
  clk : Nat
  frozeAt : Nat
  goesAt : Nat
  cycle : Word
  spret : BitVec 32
  ret : SMap RetPhase
  srstate : BitVec 32
  vmode : Bool
  fmode : BitVec 2
  frame : SMap Word
  raised : Option Raised
  latches : List Latch
  outer : Option Outer
  groups : List Group
  seqs : List Seqr
  lockstep : Bool
  pend : List Pend
  pseq : Nat
  setcs : List SetcRec
  mems : List MemWait
  qD : EngQ
  qV : EngQ
  qM : EngQ
  qK : EngQ
  qA : EngQ
  copyQ : List Copy
  copyId : Nat
  opsIn : List OpsIn
  wd : Nat
  wdEvent : Bool
  l1 : List L1Line
  icache : List L1Line
  preSig : Option Nat
  tried : List Nat
  ports : List Nat
  refused : List Nat
  deriving DecidableEq, Repr

def Seqr.reset : Seqr := ⟨0, false, []⟩

/-- The one group of a lockstep tile (R165). -/
def Group.lockstep : Group := ⟨0, 0xFF, none, 0, 1, [], false, false, 0, false, 0, 0, none, false⟩

/-- A tile that no instance has used: every register at the value INVENTORY.md names. -/
def Tile.reset : Tile where
  stat := .idle
  inHandler := false
  ctx := 0
  last := none
  task := 0
  entry := 0
  traph := 0
  prebnd := 0
  feat := 0
  wdog := 0
  xs := []
  cs := 0
  stg := []
  tags := 0
  tcnt := []
  qs := []
  spad := []
  spadBad := []
  spadUndef := []
  acc := []
  accBad := []
  accUndef := []
  csp := 0
  asp := []
  featmask := 7
  lvid := []
  lvGroup := none
  grank := 0
  clk := 0
  frozeAt := 0
  goesAt := 0
  cycle := 0
  spret := 0
  ret := []
  srstate := 1
  vmode := false
  fmode := 0
  frame := []
  raised := none
  latches := []
  outer := none
  groups := [Group.lockstep]
  seqs := List.replicate 8 Seqr.reset
  lockstep := true
  pend := []
  pseq := 0
  setcs := []
  mems := []
  qD := ⟨[], false⟩
  qV := ⟨[], false⟩
  qM := ⟨[], false⟩
  qK := ⟨[], false⟩
  qA := ⟨[], false⟩
  copyQ := []
  copyId := 0
  opsIn := []
  wd := 0
  wdEvent := false
  l1 := []
  icache := []
  preSig := none
  tried := []
  ports := []
  refused := []

/-! ## A cluster and a die -/

/-- A cluster (R127, R128, R175, R355): the lease, the operand buffer's entries (tile, span) and its counts, and the
stationary buffer: owner, formats code, KS, N, elements of the panel with their side values. -/
structure Cluster where
  held : Bool
  holder : Nat
  req : BitVec 4
  cmdLeft : Nat
  cycLeft : Nat
  round : Nat
  lastGrant : Option Nat
  mchit : Nat
  mcmiss : Nat
  opbuf : List (Nat × Nat)
  sbOwner : Option Nat
  sbFmt : Nat
  sbKS : Nat
  sbN : Nat
  sbData : List (List Nat)
  sbDFmt : Nat
  arrLeft : Nat
  deriving DecidableEq, Repr

def Cluster.reset : Cluster := ⟨false, 0, 0, 0, 0, 0, none, 0, 0, [], none, 0, 0, 0, [], 0, 0⟩

/-- Where a TLB entry stands (R42): a tile's micro-TLB, a cluster's TLB, a die's shared TLB, the hub's (die 4). -/
inductive TlbSite where
  | micro (tile : Nat)
  | cluster (cl : Nat)
  | shared (die : Nat)
  deriving DecidableEq, Repr

/-- Owner state of a shared range (R17). -/
inductive Own where
  | host | none | device
  deriving DecidableEq, Repr

/-- A TLB entry (R42): the leaf, its page's VA, the base chosen by copy_base, and the owner state at the fill. -/
structure TlbEntry where
  site : TlbSite
  asid : Nat
  page : Nat
  pte : Nat
  base : Nat
  own : Option Own
  deriving DecidableEq, Repr

/-- A walk-cache entry (R42): the die that holds it (4: the hub), ASID, level, the VA bits down to that level's index, and
the PA of the node that the pointer there names. -/
structure WalkEntry where
  die : Nat
  asid : Nat
  lev : Nat
  tag : Nat
  node : Nat
  deriving DecidableEq, Repr

/-- A slot of a shadow store that holds a tile (R118): the tile's task and its GRANK there. The tile's state stands in its
gang's `saved`, as does that of a tile in the context save area. -/
structure ShadowSlot where
  sn : Nat
  grank : Nat
  deriving DecidableEq, Repr

/-- A compute die (R78, R118, R131, R420, R421): clock step, the slot of the NoC frame of its next cycle, time owed to its
tiles, sensor in 1/16 °C, power in 1/16 W, the time since when it has stayed below its limits, the queue of misses (R43),
the context whose partition its shadow store holds, and the store's slots. -/
structure Die where
  step : Nat
  phase : Nat
  acc : Nat
  temp : Nat
  power : Nat
  coolSince : Nat
  missQ : List (Nat × Nat)
  shadow : Option Nat
  slots : List ShadowSlot
  deriving DecidableEq, Repr

def Die.reset : Die := ⟨0, 0, 0, 0, 0, 0, [], none, []⟩

/-! ## Memory side of the hub -/

/-- The remap entry of a congruence group (R86). -/
structure Remap where
  loc : List Nat
  busy : Bool
  deriving DecidableEq, Repr

def Remap.reset : Remap := ⟨[0, 1, 2, 3, 4], false⟩

/-- A swap that is requested or in progress (R88, R89): the group and the PA-named slot that is hot. -/
structure SwapReq where
  group : Nat
  slot : Nat
  deriving DecidableEq, Repr

/-- Frames that one mapping of a context holds (R80): the first PA, the bytes, HS, and whether they hold one of the
copies of a read-duplicated page (R55). -/
structure FrameRun where
  pa : Nat
  len : Nat
  hs : Nat
  ctx : Nat
  repl : Bool
  deriving DecidableEq, Repr

/-- The states of a page run in transit (R95). -/
inductive TransitSt where
  | demoting | demoting2 | promoting
  deriving DecidableEq, Repr

/-- Far tiers (R33). -/
inductive Far where
  | cxm | flt
  deriving DecidableEq, Repr

/-- A run in the transit table (R94 to R98): context, VA, its PTE before the step, the target, the frame and far units
taken, and whether its copy has started. -/
structure Transit where
  ctx : Nat
  va : Nat
  st : TransitSt
  pte : Nat
  target : Far
  frame : Nat
  unit : Nat
  started : Bool
  since : Nat
  deriving DecidableEq, Repr

/-- A queued request of the Fuller (R93): a page of a context, its target for a demotion, the sequence that asks by
waking or by aging, and the waking sequences whose requests have attached to it. -/
structure FReq where
  ctx : Nat
  va : Nat
  target : Far
  sn : Option Nat
  att : List (Option Nat)
  deriving DecidableEq, Repr

/-- A write that stalls on a replica collapse (R56), attached to the request: its tile and group (8: a copy or a stream), VA
and bytes. -/
structure StalledWrite where
  tile : Nat
  grp : Nat
  va : Nat
  bytes : List Byte
  deriving DecidableEq, Repr

/-- A replica collapse in progress (R56): context, page VA, the leaf, whether its entries are rewritten, the dies that
have acknowledged, and the writes that stall on it. -/
structure CollapseRec where
  ctx : Nat
  va : Nat
  pte : Nat
  begun : Bool
  acks : BitVec 4
  writes : List StalledWrite
  deriving DecidableEq, Repr

/-- A memory error record (R108) or, with KIND 0, a management record (R20, R99, R391, R393). -/
structure LogRec where
  kind : Nat
  unit : Nat
  asid : Nat
  addr : Nat
  time : Nat
  more : Nat
  deriving DecidableEq, Repr

/-- An invalidation issued and not yet complete (R44): an ASID with a VA range, or all of its pages. -/
structure InvReq where
  asid : Nat
  range : Option (Nat × Nat)
  deriving DecidableEq, Repr

/-! ## Contexts and the task window -/

/-- A party for which a write may have happened (R132, R140; notes/assumptions/84.md): a tile, its slot groups as one; the
command of a tile with a place in the issue order, its writes and what happens before it (R147); the complete commands of a
tile with a tag (R148); what a tile writes after a release fence at a scope (R143); what a tile knows once an acquire fence
follows its read of a value that tile `src` (none: the hub) released at a scope (R143). A tile in the context save area has a
number from 4096 on. -/
inductive Party where
  | tile (t : Nat)
  | cmd (t ord : Nat)
  | tag (t g : Nat)
  | fenced (t scope : Nat)
  | saw (t : Nat) (src : Option Nat) (scope : Nat)
  deriving DecidableEq, Repr

/-- Where a release is read (R139): bytes of a context's memory, of a tile's scratchpad, an entry of a pipe queue by its
number, a range unit (R177), the order of `fence.tot` (R144). -/
inductive WordAt where
  | va (lo hi : Nat)
  | spad (t lo hi : Nat)
  | entry (q n : Nat)
  | unit (n : Nat)
  | order
  deriving DecidableEq, Repr

/-- A release that orders a write (R139): where it is read, its scope, and the tile that made it (none: the hub). -/
structure RelTok where
  at' : WordAt
  scope : Nat
  tile : Option Nat
  deriving DecidableEq, Repr

/-- Bytes of the host-shared window that a context has written and that the host need not see yet (R21): the context, the
first byte and the end; the tasks in whose history the write stands (none: a write of the hub's own agents), and whether it
stands in that of every task yet to issue (R154, R237); the parties for which it has happened; the releases that order it;
and whether the range's ownership has ended without a release at SYSTEM scope. -/
structure Unseen where
  ctx : Nat
  lo : Nat
  hi : Nat
  tasks : List Nat
  past : Bool
  known : List Party
  toks : List RelTok
  lost : Bool
  deriving DecidableEq, Repr

/-- Who writes (R21): the party, and the task. -/
structure Writer where
  party : Option Party
  task : Option Nat
  deriving DecidableEq, Repr

/-- The states of R199, in the order of its table; their codes are DESIGN CHOICE (notes/assumptions/17.md). -/
inductive CtxSt where
  | created | queued | run | draining | suspended | faulted | halted | dead
  deriving DecidableEq, Repr

/-- A physical buffer of a context: its size class and number (R186). -/
structure Buf where
  cls : Nat
  idx : Nat
  deriving DecidableEq, Repr

/-- A map entry (R184): a buffer and a length in bytes. -/
structure Binding where
  buf : Buf
  len : Nat
  deriving DecidableEq, Repr

/-- Users of a buffer, and whether its superseding task has retired (R187, R192). -/
structure BufUse where
  buf : Buf
  refs : Nat
  superseded : Bool
  deriving DecidableEq, Repr

/-- A range of an entry (R187, R188). -/
structure Range where
  mode : Mode
  name : Nat
  buf : Buf
  off : Nat
  len : Nat
  writes : Bool
  prev : Option Binding
  deriving DecidableEq, Repr

/-- The hub-held structures of R228. -/
inductive HubStruct where
  | seqs | pool | prefixes | queue (qid : Nat) | unit (u : Nat)
  deriving DecidableEq, Repr

/-- States of a window entry (R197). -/
inductive EntrySt where
  | wait | place | run | frozen | done | fault
  deriving DecidableEq, Repr

/-- A window entry (R181 to R197): sequence number, the TLI, its address and length in units, ranges, scalars taken at
decode, the entries it depends on, probe progress, its result scalars, the fault it meets, the launch record read, and
the time it entered PLACE. `placed`: its gang has tiles. `blocks`: it has waited 100 µs for them (R162). `started`: its
work is made, and a TLAUNCH's tiles may start. `inval`: it waits for an invalidation (R19).
`dealloc`: the name that a TFREE unbinds. `asked`: the pages that a TMIGR has requested. -/
structure Entry where
  sn : Nat
  tli : Instr
  addr : Word
  st : EntrySt
  ranges : List Range
  sc : List Word
  deps : List Nat
  probed : Nat
  started : Bool
  res : List (Nat × Word)
  fault : Option (Nat × Nat × Nat)
  frameOff : Nat
  lrec : List Byte
  placeAt : Nat
  placed : Bool
  blocks : Bool
  inval : Bool
  dealloc : Option Nat
  asked : List Nat
  deriving DecidableEq, Repr

/-- One of the two views of a context (R184). -/
structure View where
  map : SMap Binding
  ys : SMap Word
  pos : Word
  stack : List Word
  deriving DecidableEq, Repr

def View.reset : View := ⟨[], [], 0, []⟩

/-- A gang (R157, R197): its task, its tiles in GRANK order, the level words of its record, and whether it is frozen or
ending. -/
structure Gang where
  sn : Nat
  tiles : List Nat
  levels : List Nat
  frozen : Bool
  ending : Bool
  saved : List Tile
  deriving DecidableEq, Repr

/-- A residency hold (R51): byte range and the task that it lasts for. -/
structure Hold where
  va : Nat
  len : Nat
  sn : Nat
  deriving DecidableEq, Repr

/-- MSTATE of a sequence (R99). -/
inductive MState where
  | idle | pending | becalmed | waking | ready | wakefail
  deriving DecidableEq, Repr

/-- A sequence with a mailbox, as the gust-write agent holds it (R99 to R103): slot, mailbox VA, state, counts, park
time; which steps of aging have been made, the pages that each skipped, and when it looks at them again (R101). -/
structure Mbox where
  sn : Nat
  slot : Nat
  va : VA
  st : MState
  gusts : Nat
  rlast : Nat
  pt : Nat
  aged1 : Bool
  skip1 : List Nat
  again1 : Nat
  aged2 : Bool
  skip2 : List Nat
  again2 : Nat
  deriving DecidableEq, Repr

/-- The serving block (R244). -/
structure Serving where
  seqVA : VA
  seqN : Nat
  kvBase : VA
  kvSize : Nat
  kvLtok : Nat
  kvN : Nat
  kvFree : Nat
  kvFlVA : VA
  kvCntVA : VA
  pfxVA : VA
  pfxLog : Nat
  deriving DecidableEq, Repr

def Serving.reset : Serving := ⟨⟨0, 0⟩, 0, ⟨0, 0⟩, 0, 0, 0, 0, ⟨0, 0⟩, ⟨0, 0⟩, ⟨0, 0⟩, 0⟩

/-- The tier-policy block (R81). -/
structure TierPol where
  d1 : Nat
  d2 : Nat
  cxmen : Bool
  flten : Bool
  promt : Nat
  hsmc : List Nat
  hsmb : List Nat
  deriving DecidableEq, Repr

def TierPol.reset : TierPol := ⟨0xFFFF_FFFF, 0xFFFF_FFFF, false, false, 0, [0, 0, 0, 0, 0], [0, 0, 0, 0, 0]⟩

/-- The task fault record (R195). -/
structure FaultRec where
  taddr : Word
  cause : Nat
  opnd : Nat
  fatal : Bool
  tseq : Nat
  fva : Nat
  frameOff : Nat
  ftime : Nat
  deriving DecidableEq, Repr

def FaultRec.reset : FaultRec := ⟨0, 0, 0, false, 0, 0, 0, 0⟩

/-- A context (R157, R158, R184 to R200, R244). `want`: the clusters of its partition; `part`: those that it holds now; `rslot`: its
resident slot;
`nodeCap`: the most table nodes it may have; `savedCl`: the clusters' state while its partition is swapped out (R175). -/
structure Context where
  st : CtxSt
  resident : Bool
  residentAt : Nat
  rslot : Nat
  port : Nat
  root : Nat
  nodes : List Nat
  nodeCap : Nat
  want : List Nat
  part : List Nat
  preempting : Bool
  swapped : Bool
  savedCl : SMap Cluster
  destroying : Bool
  pclass : Nat
  weight : Nat
  defDec : Nat
  defIss : Nat
  ttbase : VA
  arenas : List (VA × Nat)
  tier : TierPol
  sigreq : Bool
  space : BitVec 16
  dv : View
  rv : View
  yPend : List (Nat × Nat)
  free : SMap (List Nat)
  uses : List BufUse
  entries : List Entry
  nextSn : Nat
  decStop : Bool
  stalls : List Nat
  frec : FaultRec
  frame : List Word
  fatal : Option (Cause × Nat × Option (Nat × Nat × Nat))
  holds : List Hold
  gangs : List Gang
  syncCnt : Word
  events : Word
  ownWarn : Bool
  mcq : List LogRec
  mclost : Nat
  brks : SMap Word
  serv : Serving
  readyL : List Nat
  readyAt : Nat
  readyNew : Nat
  mboxes : List Mbox
  deriving DecidableEq, Repr

/-- A context before CTX_CREATE gives it anything. -/
def Context.reset : Context where
  st := .dead
  resident := false
  residentAt := 0
  rslot := 0
  port := 0
  root := 0
  nodes := []
  nodeCap := 0
  want := []
  part := []
  preempting := false
  swapped := false
  savedCl := []
  destroying := false
  pclass := 0
  weight := 1
  defDec := 0
  defIss := 0
  ttbase := ⟨0, 0⟩
  arenas := []
  tier := TierPol.reset
  sigreq := false
  space := 0
  dv := View.reset
  rv := View.reset
  yPend := []
  free := []
  uses := []
  entries := []
  nextSn := 0
  decStop := false
  stalls := []
  frec := FaultRec.reset
  frame := []
  fatal := none
  holds := []
  gangs := []
  syncCnt := 0
  events := 0
  ownWarn := false
  mcq := []
  mclost := 0
  brks := []
  serv := Serving.reset
  readyL := []
  readyAt := 0
  readyNew := 0
  mboxes := []

/-- A range unit (R177). -/
structure RangeUnit where
  ctx : Option Nat
  next : Word
  fin : Word
  minChunk : Nat
  parties : Nat
  deriving DecidableEq, Repr

def RangeUnit.reset : RangeUnit := ⟨none, 0, 0, 0, 0⟩

/-- A pipe queue (R178, R179, R430): its registrations (context and image VA), depth and entry size, and, while it is
held in a hardware slot, HEAD, TAIL and NOTIFY; `used` orders the queues by use. -/
structure PQueue where
  regs : List (Nat × VA)
  ldepth : Nat
  esize : Nat
  mapped : Bool
  head : BitVec 32
  tail : BitVec 32
  notify : Word
  used : Nat
  deriving DecidableEq, Repr

/-- A shared range (R16, R17). -/
structure ShRange where
  ctx : Nat
  base : Nat
  len : Nat
  devMem : Bool
  own : Own
  frame : Nat
  deriving DecidableEq, Repr

/-! ## Host side -/

/-- Command statuses (R390). -/
inductive Status where
  | ok | busy | reject | noctx | badcmd | auth
  deriving DecidableEq, Repr

/-- A command mailbox (R390). -/
structure Mailbox where
  opc : BitVec 16
  ien : Bool
  ctx : BitVec 16
  args : SMap Word
  status : Status
  run : Bool
  res : SMap Word
  payload : SMap Byte
  waiting : Bool
  deriving DecidableEq, Repr

def Mailbox.reset : Mailbox := ⟨0, false, 0, [], .ok, false, [], [], false⟩

/-- A Hiphor port (R395 to R398): the holding context and its peer, the chip and context that have opened it from the other
side with the context here that they name, its streams' received bytes, and the bytes that the peer's receive queues hold. -/
structure Port where
  ctx : Option Nat
  peer : Word
  pctx : Word
  peerOpen : Option (Word × Word × Nat)
  failed : Bool
  rx : SMap (List Byte)
  tx : SMap (List Byte)
  deriving DecidableEq, Repr

def Port.reset : Port := ⟨none, 0, 0, none, false, [], []⟩

/-- A firmware image in a boot-flash slot or running (R422, R424): its bytes, version, and its image keys. -/
structure FwImage where
  bytes : List Byte
  version : Nat
  keys : List (List Byte)
  deriving DecidableEq, Repr

/-- Security state (R422 to R427). -/
structure Security where
  chipId : Nat
  idSecret : Nat
  keyHashes : List (List Byte)
  svn : Nat
  debugOpen : Bool
  debugSeen : Bool
  recovery : Bool
  slots : List FwImage
  active : Nat
  running : FwImage
  pendingBoot : Bool
  updating : Option Nat
  deriving DecidableEq, Repr

/-- The forms of R2. -/
inductive ChipForm where
  | die | en4 | en4m
  deriving DecidableEq, Repr

/-! ## The machine -/

/-- What a step of the hub acts on: a context, a number, an index, a die, a mailbox. -/
structure Subject where
  ctx : Nat
  n : Nat
  k : Nat
  die : Nat
  mb : Nat
  deriving DecidableEq, Repr

def Subject.none : Subject := ⟨0, 0, 0, 0, 0⟩

/-- The model's own field: whose step this is. For a tile's syllables, the bundle that holds them: tile, group, slot,
bundle address, length in bytes, SCOPE, IQLEV, GAP. For the hub's steps, the subject. For a TLI in decode, the address
of the TLI and its length. -/
structure Cur where
  tile : Nat
  group : Nat
  slot : Nat
  addr : Word
  len : Nat
  scope : Nat
  iqlev : Nat
  gap : Nat
  sub : Subject
  deriving DecidableEq, Repr

def Cur.reset : Cur := ⟨0, 0, 0, 0, 0, 0, 0, 0, Subject.none⟩

/-- The machine. -/
structure State where
  form : ChipForm
  time : Nat
  cur : Cur
  agenda : List (Subject × Instr)
  freeCtr : Nat
  phys : SMap Byte
  physBad : List Nat
  physUndef : List Undef
  flt : SMap Byte
  fltBad : List Nat
  fltUndef : List Undef
  host : SMap Byte
  hostBad : List Nat
  hostUndef : List Undef
  netFrame : BitVec 64
  chanFrame : BitVec 128
  chanTables : SMap (BitVec 128)
  chanPhase : SMap Nat
  routing : List Byte
  chanCnt : SMap Nat
  attrNow : SMap Word
  cxlResp : List (Byte × Bool)
  jtagResp : List Byte
  unseen : List Unseen
  ownAt : Nat
  ownQ : List (Option Nat)
  hotAsked : List Nat
  walkCache : List WalkEntry
  tiles : SMap Tile
  clusters : SMap Cluster
  dies : SMap Die
  tlb : List TlbEntry
  invQ : List InvReq
  remap : SMap Remap
  hot : SMap Nat
  swth : Nat
  epoch : Nat
  epochAt : Nat
  swapQ : List SwapReq
  swaps : List SwapReq
  nodeFrames : List Nat
  frames : List FrameRun
  cxmUnits : List (Nat × Nat)
  fltUnits : List (Nat × Nat)
  cxmBase : Nat
  cxmLen : Nat
  transit : List Transit
  promoQ : List FReq
  stagedQ : List FReq
  demoQ : List FReq
  fullerTurn : Nat
  collapses : List CollapseRec
  cntFrame : Option Nat
  attr : SMap Word
  cntPages : List (Nat × VA)
  snapSeq : Word
  snapTime : Nat
  snapAt : Nat
  log : List LogRec
  fenceTot : Nat
  cf : List Nat
  turnDec : List Nat
  turnIss : List Nat
  slotsDec : Nat
  slotsIss : Nat
  ctxs : SMap Context
  units : SMap RangeUnit
  queues : SMap PQueue
  useCtr : Nat
  ranges : List ShRange
  mbxs : SMap Mailbox
  submitted : List Nat
  msix : List (Nat × Nat)
  ports : SMap Port
  sec : Security
  telem : SMap Word
  modPower : Nat
  railPower : SMap Nat
  hubTemp : Nat
  tripped : Bool
  wdogDef : Nat
  deriving DecidableEq, Repr

/-- The machine does not stop of itself: every fault of the EN4 is a next state (R368, R193, R390). This is the one
stop: an access of the Ceone firmware's own units on the hub die, whose layout R22 leaves to the firmware. -/
inductive Fault where
  /-- Raised by no step at present; kept for an address that the spec says does not exist. Safe: the model stops where
  the hardware would not be reached. -/
  | noSuchAddress (pa : Nat)
  deriving DecidableEq, Repr

/-- Steps without a meaning. -/
inductive Refusal where
  /-- Raised by the dispatcher alone, for a step not modelled yet. Safe: nothing follows from it. -/
  | notModelled (mnemonic : String)
  deriving DecidableEq, Repr

/-- Security state right after a cold reset of a part whose fuses are unset and whose flash is empty: neither slot boots,
so the hub is in recovery (R422; notes/assumptions/16.md). -/
def Security.reset : Security :=
  ⟨0, 0, [], 0, false, false, true, [⟨[], 0, []⟩, ⟨[], 0, []⟩], 0, ⟨[], 0, []⟩, false, none⟩

/-- The machine right after reset: no context exists, no tile is placed, memory lists nothing, and what the
flash tier holds is undefined (R91). -/
def State.reset : State where
  form := .en4m
  time := 0
  cur := Cur.reset
  agenda := []
  freeCtr := 0
  phys := []
  physBad := []
  physUndef := []
  flt := []
  fltBad := []
  fltUndef := [⟨0, 2 ^ 45, 0⟩]
  host := []
  hostBad := []
  hostUndef := []
  netFrame := 0xC000_4000_8000_4000
  chanFrame := 0x00008000400080000000800040008000
  chanTables := []
  chanPhase := []
  routing := []
  chanCnt := []
  attrNow := []
  cxlResp := []
  jtagResp := []
  unseen := []
  ownAt := 0
  ownQ := []
  hotAsked := []
  walkCache := []
  tiles := []
  clusters := []
  dies := []
  tlb := []
  invQ := []
  remap := []
  hot := []
  swth := 0
  epoch := 0
  epochAt := 0
  swapQ := []
  swaps := []
  nodeFrames := []
  frames := []
  cxmUnits := []
  fltUnits := []
  cxmBase := 0
  cxmLen := 0
  transit := []
  promoQ := []
  stagedQ := []
  demoQ := []
  fullerTurn := 0
  collapses := []
  cntFrame := none
  attr := []
  cntPages := []
  snapSeq := 0
  snapTime := 0
  snapAt := 0
  log := []
  fenceTot := 0
  cf := [8, 4, 2, 1]
  turnDec := []
  turnIss := []
  slotsDec := 0
  slotsIss := 0
  ctxs := []
  units := []
  queues := []
  useCtr := 0
  ranges := []
  mbxs := []
  submitted := []
  msix := []
  ports := []
  sec := Security.reset
  telem := []
  modPower := 0
  railPower := []
  hubTemp := 0
  tripped := false
  wdogDef := 4096

end Sys2Proof.Machine
end

