-- ==== Sys2Proof/Machine/Mem.lean ====
section
/-! DEFINITION. Access to the machine's parts by number, the memories as locations, reads and writes with poison (R105
to R109), the error log (R108), page-table entries and the walk (R35 to R40), the channels and their counters (R79, R82,
R83, R86 to R88), translation (R42, R50) and residency (R51). -/
namespace Sys2Proof.Machine

/-! ## Parts by number -/

/-- Tile t of the package, t = 128 × die + 4 × cluster + tile (R3, R22). -/
def State.tile (s : State) (t : Nat) : Tile := mget Tile.reset s.tiles t

/-- The state with tile t replaced. -/
def State.setTile (s : State) (t : Nat) (x : Tile) : State := { s with tiles := mput s.tiles t x }

/-- The state with tile t changed. -/
def State.updTile (s : State) (t : Nat) (f : Tile → Tile) : State := s.setTile t (f (s.tile t))

/-- A context of the package. -/
def State.ctx (s : State) (c : Nat) : Context := mget Context.reset s.ctxs c

/-- The state with a context replaced. -/
def State.setCtx (s : State) (c : Nat) (x : Context) : State := { s with ctxs := mput s.ctxs c x }

/-- The state with a context changed. -/
def State.updCtx (s : State) (c : Nat) (f : Context → Context) : State := s.setCtx c (f (s.ctx c))

/-- A cluster of the package, numbered 32 × die + cluster. -/
def State.cluster (s : State) (k : Nat) : Cluster := mget Cluster.reset s.clusters k

/-- The state with a cluster changed. -/
def State.updCluster (s : State) (k : Nat) (f : Cluster → Cluster) : State :=
  { s with clusters := mput s.clusters k (f (s.cluster k)) }

/-- A compute die. -/
def State.die (s : State) (d : Nat) : Die := mget Die.reset s.dies d

/-- The state with a die changed. -/
def State.updDie (s : State) (d : Nat) (f : Die → Die) : State := { s with dies := mput s.dies d (f (s.die d)) }

/-- The die of a tile, its cluster in the package and its number in the cluster (R22). -/
def tileDie (t : Nat) : Nat := t / 128
def tileCluster (t : Nat) : Nat := t / 4
def tileInCluster (t : Nat) : Nat := t % 4

/-- The hub timebase in ticks of 1 µs (R99). -/
def State.ticks (s : State) : Nat := s.time / 18000

/-- A free value of this step (R8): `site` tells apart the values that one step needs. -/
def State.free (s : State) (site : Nat) : Word := Config.freeValue s.freeCtr site

/-- A free byte of this step (R8). -/
def State.freeB (s : State) (site : Nat) : Byte := Config.freeByte s.freeCtr site

/-! ## The error log -/

/-- A record with the count of a record of the same KIND and ADDR raised (R108), or appended; UNIT says what ADDR
numbers, so records of two units do not merge (notes/assumptions/86.md). -/
def logAdd (r : LogRec) : List LogRec → List LogRec
  | [] => [r]
  | q :: l => if q.kind = r.kind ∧ q.addr = r.addr ∧ q.unit = r.unit then { q with more := q.more + 1 } :: l else q :: logAdd r l

/-- A machine-check record in a context's queue of 32 (R381); the event count of R393 tells the host. -/
def Context.machineCheck (x : Context) (r : LogRec) : Context :=
  let x := if x.mcq.length < 32 then { x with mcq := x.mcq ++ [r] } else { x with mclost := x.mclost + 1 }
  { x with events := x.events + 1 }

/-- A memory error record (R108): to the log, and, for an uncorrectable kind that names a context, to its queue. -/
def State.logErr (s : State) (kind unit asid addr : Nat) : State :=
  let r : LogRec := ⟨kind, unit, asid, addr, s.ticks, 0⟩
  let s := { s with log := logAdd r s.log }
  if 2 ≤ kind ∧ (mget? s.ctxs asid).isSome then s.updCtx asid (·.machineCheck r) else s

/-! ## Locations -/

/-- Where a byte lies: resident memory by PA (R30), the flash tier by byte (R33), host memory by host address, that of CXM
among it (R15, R90), a tile's scratchpad or accumulators by window offset (R23). -/
inductive Loc where
  | phys | flt | host
  | spad (t : Nat)
  | acc (t : Nat)
  deriving DecidableEq, Repr

/-- The memory of a location. -/
def State.mem (s : State) : Loc → SMap Byte
  | .phys => s.phys
  | .flt => s.flt
  | .host => s.host
  | .spad t => (s.tile t).spad
  | .acc t => (s.tile t).acc

/-- The state with a location's memory replaced. -/
def State.setMem (s : State) (l : Loc) (m : SMap Byte) : State :=
  match l with
  | .phys => { s with phys := m }
  | .flt => { s with flt := m }
  | .host => { s with host := m }
  | .spad t => s.updTile t fun x => { x with spad := m }
  | .acc t => s.updTile t fun x => { x with acc := m }

/-- The poisoned 8-byte granules of a location (R105, R109). -/
def State.bad (s : State) : Loc → List Nat
  | .phys => s.physBad
  | .flt => s.fltBad
  | .host => s.hostBad
  | .spad t => (s.tile t).spadBad
  | .acc t => (s.tile t).accBad

/-- The state with a location's poisoned granules replaced. -/
def State.setBad (s : State) (l : Loc) (b : List Nat) : State :=
  match l with
  | .phys => { s with physBad := b }
  | .flt => { s with fltBad := b }
  | .host => { s with hostBad := b }
  | .spad t => s.updTile t fun x => { x with spadBad := b }
  | .acc t => s.updTile t fun x => { x with accBad := b }

/-- The ranges of a location with undefined contents. -/
def State.undef (s : State) : Loc → List Undef
  | .phys => s.physUndef
  | .flt => s.fltUndef
  | .host => s.hostUndef
  | .spad t => (s.tile t).spadUndef
  | .acc t => (s.tile t).accUndef

/-- The state with a location's undefined ranges replaced. -/
def State.setUndef (s : State) (l : Loc) (u : List Undef) : State :=
  match l with
  | .phys => { s with physUndef := u }
  | .flt => { s with fltUndef := u }
  | .host => { s with hostUndef := u }
  | .spad t => s.updTile t fun x => { x with spadUndef := u }
  | .acc t => s.updTile t fun x => { x with accUndef := u }

/-- Ranges without the n bytes from a on. -/
def cutUndef (us : List Undef) (a n : Nat) : List Undef :=
  us.flatMap fun u =>
    (if u.lo < min u.hi a then [{ u with hi := min u.hi a }] else []) ++
      (if max u.lo (a + n) < u.hi then [{ u with lo := max u.lo (a + n) }] else [])

/-- The n bytes from a on become undefined. -/
def State.undefine (s : State) (l : Loc) (a n : Nat) : State :=
  s.setUndef l (⟨a, a + n, s.freeCtr⟩ :: cutUndef (s.undef l) a n)

/-- The first PA of T1 (R30). -/
def lpmBase : Nat := 0x0200_0000_0000

/-- The granule in which a write is a read-modify-write when it is narrower (R107, R116): 8 bytes behind an L2 and in a
tile, 64 at the LPDDR 6 controller and in CXM, and the 4 KiB unit of FLT, whose code holds one poison mark (R105). Host memory
beside CXM is taken as CXM is (notes/assumptions/87.md). -/
def granule (l : Loc) (a : Nat) : Nat :=
  match l with
  | .phys => if a < lpmBase then 8 else 64
  | .flt => 4096
  | .host => 64
  | _ => 8

/-- The remap entry of a congruence group (R86). -/
def State.remapOf (s : State) (g : Nat) : Remap := mget Remap.reset s.remap g

/-- The congruence group of a PA and its slot there (R32, R86). -/
def groupOfPA (pa : Nat) : Nat × Nat :=
  if pa < lpmBase then (pa / 65536, 0) else ((pa - lpmBase) / 65536 / 4, 1 + (pa - lpmBase) / 65536 % 4)

/-- The UNIT code of R108 for a byte of a location: resident memory is HBM or LPM by where its frame stands (R87). -/
def State.unitOf (s : State) (l : Loc) (a : Nat) : Nat :=
  match l with
  | .phys => if nth 0 (s.remapOf (groupOfPA a).1).loc (groupOfPA a).2 = 0 then 0 else 1
  | .flt => 7
  | .spad _ => 3
  | .acc _ => 4
  | .host => 6

/-- The OPS address of window w, offset o of tile t (R22). -/
def opsAddr (t w o : Nat) : Nat :=
  t / 128 * 2 ^ 37 + t / 4 % 32 * 2 ^ 32 + t % 4 * 2 ^ 30 + w * 2 ^ 27 + o

/-- The ADDR of R108 for a byte of a location; a byte of CXM lies at its host address (R90). -/
def State.locAddr (s : State) (l : Loc) (a : Nat) : Nat :=
  match l with
  | .spad t => opsAddr t 0 a
  | .acc t => opsAddr t 1 a
  | .host => if s.cxmBase ≤ a ∧ a < s.cxmBase + s.cxmLen then (a - s.cxmBase) / 4096 else a
  | .flt => a / 4096
  | _ => a

/-- Whether two hash selections are one class (R80). -/
def State.sameClass (s : State) (hs c hs' c' : Nat) : Bool :=
  hs == hs' && (hs != 3 || ((s.ctx c).tier.hsmc == (s.ctx c').tier.hsmc && (s.ctx c).tier.hsmb == (s.ctx c').tier.hsmb))

/-- R47: whether two mappings of the frame of a PA differ in their hash selection. -/
def State.hashClash (s : State) (a : Nat) : Bool :=
  let fs := s.frames.filter fun f => f.pa ≤ a && a < f.pa + f.len
  fs.any fun f => fs.any fun h => !s.sameClass f.hs f.ctx h.hs h.ctx

/-- One byte of a location: what has been written there, or a free byte where the contents are undefined (R8) or the
frame's mappings differ in their hash selection (R47). -/
def State.byte (s : State) (l : Loc) (a : Nat) : Byte :=
  if l = .phys ∧ s.hashClash a = true then Config.clashByte s.freeCtr a
  else
    match (s.undef l).find? fun u => u.lo ≤ a && a < u.hi with
    | some u => Config.freeByte u.gen a
    | none => Memory.get (s.mem l) a

/-- Bytes of a location. -/
def State.bytes (s : State) (l : Loc) (a n : Nat) : List Byte :=
  if (s.undef l).isEmpty && !(s.frames.any fun f => f.hs != 0) then Memory.read (s.mem l) a n
  else (List.range n).map fun k => s.byte l (a + k)

/-- A number read little-endian from a location. -/
def State.num (s : State) (l : Loc) (a n : Nat) : Nat := leNat (s.bytes l a n)

/-- Whether the n bytes from a on meet a poisoned granule. -/
def badIn (b : List Nat) (a n : Nat) : Bool := b.any fun g => g * 8 < a + n && a < g * 8 + 8

/-- Whether a read of n bytes returns poison (R109). -/
def State.poisoned (s : State) (l : Loc) (a n : Nat) : Bool := badIn (s.bad l) a n

/-- A set of granule numbers with the granules of a byte range added or removed. -/
def badAdd (b : List Nat) (a n : Nat) : List Nat :=
  (List.range' (a / 8) ((a + n + 7) / 8 - a / 8)).foldl (fun b g => if g ∈ b then b else g :: b) b

/-- Marks for every granule of g bytes that a byte range overlaps. -/
def badAround (b : List Nat) (g a n : Nat) : List Nat := badAdd b (a / g * g) ((a + n + g - 1) / g * g - a / g * g)

/-- The state with every granule that a byte range overlaps poisoned (R105, R109). -/
def State.poison (s : State) (l : Loc) (a n : Nat) : State :=
  if n = 0 then s else s.setBad l (badAround (s.bad l) (granule l a) a n)

/-- R107: whether the write of n bytes at a drops byte k, because its granule of g bytes is poisoned and not covered. -/
def dropAt (b : List Nat) (g a n k : Nat) : Bool :=
  let lo := k / g * g
  !(a ≤ lo && lo + g ≤ a + n) && badIn b lo g

/-- A memory with bytes k, k + 1, … of a write of n bytes at a, without those that R107 drops. -/
def writeKept (b : List Nat) (g a n : Nat) (m : SMap Byte) (k : Nat) : List Byte → SMap Byte
  | [] => m
  | x :: xs => writeKept b g a n (if dropAt b g a n k then m else Memory.set m k x) (k + 1) xs

/-- R107: the granules of g bytes, by their first byte, in which a write of n bytes at a is dropped: of the granules that it
touches only the first and the last can be written in part. -/
def dropped (b : List Nat) (g a n : Nat) : List Nat :=
  if n = 0 then [] else ([a / g * g, (a + n - 1) / g * g].eraseDups).filter fun k => dropAt b g a n k

/-- R107: what becomes of the poison marks at a write: a granule written whole loses its mark, one in which the write is
dropped is poisoned whole. -/
def marksAfter (b : List Nat) (g a n : Nat) : List Nat :=
  (dropped b g a n).foldl (fun b k => badAdd b k g) (b.filter fun q => !(a ≤ q * 8 / g * g && q * 8 / g * g + g ≤ a + n))

/-- A write of bytes at a location (R107): a granule written whole loses its poison; in a poisoned granule that is not
written whole the write is dropped, the granule is poisoned, and a record is made for the writing context. -/
def State.write (s : State) (l : Loc) (a : Nat) (bs : List Byte) (asid : Nat) : State :=
  let b := s.bad l
  let n := bs.length
  let s := if (s.undef l).isEmpty then s else s.setUndef l (cutUndef (s.undef l) a n)
  if b.isEmpty then s.setMem l (Memory.write (s.mem l) a bs)
  else
    let g := granule l a
    let s := (s.setMem l (writeKept b g a n (s.mem l) a bs)).setBad l (marksAfter b g a n)
    (dropped b g a n).foldl (fun s k => s.logErr 3 (s.unitOf l k) asid (s.locAddr l k)) s

/-- A write that carries poison (R109): the bytes, then the granules that a poisoned byte overlaps. -/
def State.writeP (s : State) (l : Loc) (a : Nat) (bs : List (Byte × Bool)) (asid : Nat) : State :=
  let s := s.write l a (bs.map Prod.fst) asid
  if bs.any Prod.snd then
    (bs.zipIdx).foldl (fun s p => if p.1.2 then s.poison l (a + p.2) 1 else s) s
  else s

/-- Bytes with their poison. -/
def State.bytesP (s : State) (l : Loc) (a n : Nat) : List (Byte × Bool) :=
  let b := s.bad l
  let bs := s.bytes l a n
  if b.isEmpty then bs.map fun x => (x, false)
  else bs.zipIdx.map fun p => (p.1, badIn b (a + p.2) 1)

/-- Whether a tile has been released by the last instance that held it (R129). -/
def State.released (s : State) (t : Nat) : Bool := (s.tile t).stat == .idle && (s.tile t).last.isSome

/-- The state as a read that reaches tile t finds it: what a released tile keeps in its memories, it answers no longer (R129). -/
def State.readFrom (s : State) (t : Nat) : State :=
  if s.released t then (s.undefine (.spad t) 0 (2 ^ 20)).undefine (.acc t) 0 (2 ^ 18) else s

/-! ## Page-table entries -/

/-- Fields of a PTE as a 128-bit number (R35). -/
def pteV (e : Nat) : Bool := nbit e 0
def pteLeaf (e : Nat) : Bool := nbit e 1
def pteTier (e : Nat) : Nat := bits e 2 2
def pteSize (e : Nat) : Nat := bits e 4 4
def pteHS (e : Nat) : Nat := bits e 8 2
def pteRepl (e : Nat) : Bool := nbit e 10
def pteExtw (e : Nat) : Bool := nbit e 11
def pteFrame (e : Nat) : Nat := bits e 12 40
def ptePR (e : Nat) : Bool := nbit e 52
def ptePW (e : Nat) : Bool := nbit e 53
def ptePX (e : Nat) : Bool := nbit e 54
def pteMtype (e : Nat) : Nat := bits e 55 2
def ptePin (e : Nat) : Bool := nbit e 57

/-- FRM1 to FRM3 (R35). -/
def pteFrm (e d : Nat) : Nat :=
  if d = 1 then bits e 64 21 else if d = 2 then bits e 85 21 else bits e 106 21

/-- log2 of the page size of a SIZE code (R36). -/
def pageLog (z : Nat) : Nat :=
  match z with
  | 0 => 12
  | 1 => 14
  | 2 => 16
  | 3 => 18
  | 4 => 20
  | 5 => 21
  | 6 => 22
  | 7 => 24
  | 8 => 26
  | 9 => 28
  | 10 => 30
  | _ => 34

/-- The bytes of a page (R36). -/
def pageBytes (z : Nat) : Nat := 2 ^ pageLog z

/-- The level at which a SIZE code's leaf stands (R36). -/
def leafLevel (z : Nat) : Nat := if z ≤ 6 then 0 else 1

/-- The page-table entries in the run of a page (R36). -/
def runLen (z : Nat) : Nat := pageBytes z / 2 ^ (if z ≤ 6 then 12 else 24)

/-- Whether the package has T1, T3 (R2). The spec leaves the tiers of form die to its supply: here it has none beside T0
(notes/assumptions/11.md). -/
def ChipForm.hasLpm (f : ChipForm) : Bool := f == .en4m

/-- The compute dies of a form (R2). -/
def ChipForm.dies (f : ChipForm) : Nat := if f = .die then 1 else 4

/-- Whether the n bytes at a PA lie in a range that R30 gives. Every form is taken to have all of T0
(notes/assumptions/11.md). -/
def paExists (f : ChipForm) (pa n : Nat) : Bool :=
  pa + n ≤ 0x0080_0000_0000 || (f.hasLpm && lpmBase ≤ pa && pa + n ≤ 0x0400_0000_0000)

/-- The 4 KiB units of a far tier (R33): those configured as CXM, 2^33 of FLT. -/
def State.farUnits (s : State) (tier : Nat) : Nat :=
  if tier = 1 then s.cxmLen / 4096 else if s.form.hasLpm then 2 ^ 33 else 0

/-- R38: the walk's test of an entry read at a level. -/
def malformedPte (s : State) (e lev : Nat) : Bool :=
  if !pteLeaf e then
    e - 1 - pteFrame e * 2 ^ 12 != 0 || lev == 0 || bits (pteFrame e) 0 4 != 0 || !paExists s.form (pteFrame e * 4096) 65536
  else
    let z := pteSize e
    let pg := pageBytes z
    bits e 58 6 != 0 || 12 ≤ z || pteTier e == 3 || pteMtype e == 3 || 2 ≤ lev || lev != leafLevel z ||
      (ptePW e && !ptePR e) || (if pteRepl e then nbit e 127 else bits e 96 32 != 0) ||
      (if pteTier e == 0 then
        bits (pteFrame e) 36 4 != 0 || pteFrame e * 4096 % pg != 0 || !paExists s.form (pteFrame e * 4096) pg ||
          (pteRepl e &&
            (!ptePin e || pteMtype e != 0 || z < 2 || 0x0020_0000_0000 ≤ pteFrame e * 4096 ||
              [1, 2, 3].any fun d => (pteFrm e d * 65536) % pg != 0 || 2 ^ 37 < pteFrm e d * 65536 + pg))
      else pteRepl e || ptePin e || s.farUnits (pteTier e) < pteFrame e + pg / 4096)

/-- R40's copy_base. -/
def copyBase (e die : Nat) : Nat :=
  if pteRepl e && 1 ≤ die && die ≤ 3 then die * 2 ^ 37 + pteFrm e die * 2 ^ 16 else pteFrame e * 4096

/-- The index of a level of the walk for an 80-bit VA (R37). -/
def walkIndex (va lev : Nat) : Nat := if lev = 5 then va / 2 ^ 72 else va / 2 ^ (12 * lev + 12) % 4096

/-- What a walk ends in: an entry, none, a malformed entry, or the PA of a poisoned node (R40, R41). -/
inductive Walk where
  | entry (e : Nat)
  | unmapped
  | malformed
  | poison (pa : Nat)
  deriving DecidableEq, Repr

/-- The levels of the walk of R40 from level lev of the node at PA node down. -/
def walkFrom (s : State) (va : Nat) : Nat → Nat → Walk
  | lev, node =>
    let pa := node + walkIndex va lev * 16
    if s.poisoned .phys pa 16 then .poison node
    else
      let e := s.num .phys pa 16
      if !pteV e then .unmapped
      else if malformedPte s e lev then .malformed
      else if pteLeaf e then .entry e
      else
        match lev with
        | 0 => .malformed
        | k + 1 => walkFrom s va k (pteFrame e * 4096)

/-- R40's walk for a context. -/
def walk (s : State) (c va : Nat) : Walk := walkFrom s va 5 (s.ctx c).root

/-- The table pointers that the walk follows from level lev of the node at PA node down: each with its level and the node
that it names (R37). -/
def walkPtrs (s : State) (va : Nat) : Nat → Nat → List (Nat × Nat)
  | 0, _ => []
  | lev + 1, node =>
    let pa := node + walkIndex va (lev + 1) * 16
    let e := s.num .phys pa 16
    if s.poisoned .phys pa 16 || !pteV e || pteLeaf e || malformedPte s e (lev + 1) then []
    else (lev + 1, pteFrame e * 4096) :: walkPtrs s va lev (pteFrame e * 4096)

/-- The bits of a VA down to the index of a level (R37). -/
def walkTag (va lev : Nat) : Nat := va / 2 ^ (12 * lev + 12)

/-- Where a walk on die d (4: the hub) starts (R42): below the deepest pointer that the die's walk cache supplies, else at
the root. -/
def State.walkStart (s : State) (d c va : Nat) : Nat × Nat :=
  if s.walkCache.isEmpty then (5, (s.ctx c).root)
  else
    ([1, 2, 3, 4, 5].findSome? fun lev =>
      (s.walkCache.find? fun w => w.die == d && w.asid == c && w.lev == lev && w.tag == walkTag va lev).map fun w =>
        (lev - 1, w.node)).getD (5, (s.ctx c).root)

/-- R40's walk on a die, with its walk cache (R42). -/
def walkOn (s : State) (d c va : Nat) : Walk := let p := s.walkStart d c va; walkFrom s va p.1 p.2

/-- The leaf that maps an address. -/
def State.leaf (s : State) (c va : Nat) : Option Nat := match walk s c va with
  | .entry e => some e
  | _ => none

/-- A list of cache entries of one structure with one more (R42): while fewer than `ways` entries stand in its set, none
leaves; then one does, which the spec leaves to the pseudo-LRU choice (notes/assumptions/71.md). -/
def evictFor {α : Type} [DecidableEq α] (ways : Nat) (here : α → Bool) (same : α → Bool) (pick : Nat) (l : List α) : List α :=
  if (l.filter here).length < ways then l
  else
    let m := l.filter fun x => here x && same x
    if m.length < ways then l else match m[pick % ways]? with
      | some x => l.erase x
      | none => l

/-- A pointer kept in a die's walk cache: 1,024 entries, 8-way (R42). -/
def State.walkKeep (s : State) (d c va : Nat) (p : Nat × Nat) : State :=
  let tag := walkTag va p.1
  if s.walkCache.any fun w => w.die == d && w.asid == c && w.lev == p.1 && w.tag == tag then s
  else
    let set (lev tag asid : Nat) : Nat := (Config.cacheSet 3 asid (tag * 8 + lev)) % 128
    let l := evictFor 8 (fun w : WalkEntry => w.die == d) (fun w => set w.lev w.tag w.asid == set p.1 tag c)
      (s.free (700 + p.1)).toNat s.walkCache
    { s with walkCache := l ++ [⟨d, c, p.1, tag, p.2⟩] }

/-- The pointers of a walk on a die kept in its walk cache (R42). -/
def State.walkFill (s : State) (d c va : Nat) : State :=
  let p := s.walkStart d c va
  (walkPtrs s va p.1 p.2).foldl (fun s q => s.walkKeep d c va q) s

/-! ## Channels -/

/-- A location in a stack (R79): channel, bank, row and column granule. -/
structure ChanLoc where
  ch : Nat
  bk : Nat
  row : Nat
  col : Nat
  deriving DecidableEq, Repr

/-- The parity of n bits. -/
def parity (n v : Nat) : Nat := ((List.range n).countP fun k => nbit v k) % 2

/-- The number whose bit i is the parity of a field under row i of a mask, over five rows (R79, hs = 3). -/
def matBits (w n : Nat) (rows : List Nat) : Nat :=
  ((List.range 5).map fun i => parity n (Nat.land w (nth 0 rows i)) * 2 ^ i).sum

/-- PA[24:20] XOR PA[29:25] XOR PA[34:30]: the fold of R79 and R82. -/
def rowFold (p : Nat) : Nat := Nat.xor (Nat.xor (bits p 20 5) (bits p 25 5)) (bits p 30 5)

/-- R79's hash of a T0 PA under an HS, with the matrix of a tier-policy block. -/
def chanHash (pa hs : Nat) (m : TierPol) : ChanLoc :=
  let chb := bits pa 8 5
  let bkb := bits pa 15 5
  let row := bits pa 20 16
  let col := bits pa 13 2 * 4 + bits pa 6 2
  match hs with
  | 0 => ⟨Nat.xor chb (rowFold pa), Nat.xor bkb (bits pa 20 5), row, col⟩
  | 1 => ⟨chb, bkb, row, col⟩
  | 2 => ⟨(chb + bits pa 13 23 % 31) % 32, Nat.xor bkb (bits pa 20 5), row, col⟩
  | _ => ⟨Nat.xor chb (matBits (bits pa 13 23) 23 m.hsmc), Nat.xor bkb (matBits row 16 m.hsmb), row, col⟩

/-- The location of the frame of a PA in its group (R86, R87). -/
def State.locOf (s : State) (pa : Nat) : Nat := let g := groupOfPA pa; nth 0 (s.remapOf g.1).loc g.2

/-- The global channel at which an access to a PA is served (R79, R82, R87): its remap entry names the location, which the
hash or the fold places. -/
def State.channel (s : State) (pa hs c : Nat) : Nat :=
  let g := (groupOfPA pa).1
  let l := s.locOf pa
  if l = 0 then
    let p := g * 65536 + pa % 65536
    32 * (p / 2 ^ 36) + (chanHash p hs (s.ctx c).tier).ch
  else
    let p := (4 * g + (l - 1)) * 65536 + pa % 65536
    256 + Nat.xor (bits p 8 5) (rowFold p)

/-- The counter sets that an access of a context counts in (R83): set 0, and those whose attribution in force names it. -/
def State.setsOf (s : State) (c : Nat) : List Nat :=
  0 :: [1, 2, 3].filter fun j => let w := (mget 0 s.attrNow j).toNat; nbit w 16 && w % 65536 == c

/-- A counter of R83 some counts further, modulo 2^64. -/
def bump (m : SMap Nat) (k n : Nat) : SMap Nat := mput m k ((mget 0 m k + n) % 2 ^ 64)

/-- When the epoch that holds the present tick began, the last one having begun at `epochAt` (R88). -/
def State.epochStart (s : State) : Nat := s.epochAt + (s.ticks - s.epochAt) / s.epoch * s.epoch

/-- R88: the counts of an epoch that has run out are gone. -/
def State.epochRoll (s : State) : State :=
  if s.epoch ≠ 0 ∧ s.epochAt + s.epoch ≤ s.ticks then { s with hot := [], hotAsked := [], epochAt := s.epochStart } else s

/-- One granule access to a PA by a context, counted at its channel (R83) and in the hot filter (R88). A PA of T1 is held in
no cache (R116), so its access is performed at the channel; whether one of T0 leaves its home L2, and what an access finds
its row and its bank's refresh at, are free values (notes/assumptions/72.md). -/
def State.countOne (s : State) (c hs pa : Nat) : State :=
  let ch := s.channel pa hs c
  let site := 2 ^ 64 + 4 * pa
  let n := if pa < lpmBase then (s.free site).toNat % 2 else 1
  let r := (s.free (site + 1)).toNat % 3
  let counts := [(0, n), (1, if r = 1 then n else 0), (2, if r = 2 then n else 0), (3, n * (s.free (site + 2)).toNat)]
  let m := (s.setsOf c).foldl (fun m k => counts.foldl (fun m q => bump m (ch * 16 + k * 4 + q.1) q.2) m) s.chanCnt
  let f := pa / 65536
  let hot := if ch < 256 || (s.hot.length == 4096 && (mget? s.hot f).isNone) then s.hot else mput s.hot f (mget 0 s.hot f + n)
  { s with chanCnt := m, hot := hot }

/-- The granules of n bytes at a PA counted, those of an epoch before gone from the hot filter (R88). -/
def State.countRun (s : State) (c hs pa n : Nat) : State :=
  if n = 0 then s
  else (List.range' (pa / 64) ((pa + n + 63) / 64 - pa / 64)).foldl (fun s g => s.countOne c hs (64 * g)) s.epochRoll

/-! ## Translation -/

/-- The kinds of access of R45. -/
inductive Acc where
  | r | w | rw | x
  deriving DecidableEq, Repr

/-- The outcomes of R50; RESIDENT carries where the byte lies and the leaf. -/
inductive Tr where
  | resident (l : Loc) (a : Nat) (e : Nat)
  | far (e : Nat)
  | unmapped
  | denied
  | notOwned
  | malformed
  deriving DecidableEq, Repr

/-- R45: whether a leaf permits an access; `ext`: the accessor is an EXT issuer. -/
def permits (e : Nat) (k : Acc) (ext : Bool) : Bool :=
  match k with
  | .r => ptePR e
  | .w => ptePW e && (ext || !pteExtw e)
  | .rw => ptePR e && ptePW e && (ext || !pteExtw e)
  | .x => ptePX e

/-- The registered shared range of a context that holds a host address (R15, R16). -/
def State.shRange? (s : State) (c h : Nat) : Option ShRange :=
  s.ranges.find? fun r => r.ctx == c && r.base ≤ h && h < r.base + r.len

/-- The TLB entry of a site that covers an address (R42). -/
def State.tlbHit (s : State) (site : TlbSite) (asid va : Nat) : Option TlbEntry :=
  s.tlb.find? fun t => t.site == site && t.asid == asid && t.page ≤ va && va < t.page + pageBytes (pteSize t.pte)

/-- The TLB sites that an access meets, nearest first (R42): a tile's, or those of die d alone (4: the hub). -/
def tlbSites (t : Option Nat) (d : Nat) : List TlbSite :=
  match t with
  | some t => [.micro t, .cluster (t / 4), .shared (t / 128)]
  | none => [.shared d]

/-- The first hit on a list of sites. -/
def State.tlbLookup (s : State) (asid va : Nat) : List TlbSite → Option TlbEntry
  | [] => none
  | x :: xs =>
    match s.tlbHit x asid va with
    | some e => some e
    | none => s.tlbLookup asid va xs

/-- The ways of a set of a site, and its sets (R42); the hub's shared TLB of 8,192 entries is given no organisation and is
taken as 16-way (notes/assumptions/71.md). -/
def TlbSite.ways (x : TlbSite) : Nat := match x with
  | .micro _ => 64
  | .cluster _ => 8
  | .shared _ => 16

def TlbSite.sets (x : TlbSite) : Nat := match x with
  | .micro _ => 1
  | .cluster _ => 256
  | .shared d => if d = 4 then 512 else 4096

/-- The set of a site in which a page's entry stands: no rule gives the index (notes/assumptions/71.md). -/
def TlbSite.setOf (x : TlbSite) (asid page : Nat) : Nat := Config.cacheSet 1 asid page % x.sets

/-- The state with an entry filled at the sites that lack it (R42); a full set gives up one entry. -/
def State.tlbFill (s : State) (sites : List TlbSite) (asid va e base : Nat) (own : Option Own) : State :=
  sites.foldl
    (fun s x =>
      if (s.tlbHit x asid va).isSome then s
      else
        let page := va / pageBytes (pteSize e) * pageBytes (pteSize e)
        let l := evictFor x.ways (fun t : TlbEntry => t.site == x) (fun t => x.setOf t.asid t.page == x.setOf asid page)
          (s.free (710 + x.ways)).toNat s.tlb
        { s with tlb := l ++ [⟨x, asid, page, e, base, own⟩] }) s

/-- The PAs of the entries that R40's walk reads from level lev of the node at PA node down. -/
def walkReads (s : State) (va : Nat) : Nat → Nat → List Nat
  | lev, node =>
    let pa := node + walkIndex va lev * 16
    let e := s.num .phys pa 16
    if s.poisoned .phys pa 16 || !pteV e || malformedPte s e lev || pteLeaf e then [pa]
    else
      match lev with
      | 0 => [pa]
      | k + 1 => pa :: walkReads s va k (pteFrame e * 4096)

/-- The reads of a walk on a die for a context, counted at their channels (R83). -/
def State.countWalk (s : State) (d c va : Nat) : State :=
  let p := s.walkStart d c va
  (walkReads s va p.1 p.2).foldl (fun s pa => s.countRun c 0 pa 16) s

/-- The leaf, its base and the owner state for an address, from a TLB or by R40's walk on die d with a fill of its walk
cache and TLBs; a node that reads as poison is consumed (R41, R109). -/
def State.leafOf (s : State) (c : Nat) (t : Option Nat) (d va : Nat) : State × (Walk × Nat × Option Own) :=
  let sites := tlbSites t d
  match s.tlbLookup c va sites with
  | some h => (s.tlbFill sites c va h.pte h.base h.own, .entry h.pte, h.base, h.own)
  | none =>
    let w := walkOn s d c va
    let s := (s.countWalk d c va).walkFill d c va
    match w with
    | .entry e =>
      let base := copyBase e d
      let own := if va / 2 ^ 64 = 0 then (s.shRange? c va).map (·.own) else none
      if pteTier e = 0 then (s.tlbFill sites c va e base own, .entry e, base, own) else (s, .entry e, base, own)
    | .poison pa => (s.logErr 4 (s.unitOf .phys pa) c pa, .poison pa, 0, none)
    | w => (s, w, 0, none)

/-- Whether host memory backs an address of a context (R15). -/
def State.hostBacked (s : State) (c va : Nat) : Bool := va < 2 ^ 64 && (s.shRange? c va).any fun r => !r.devMem

/-- R50: the translation of one byte for context c on die d (4: the hub) from tile t if any. In space 0x0000 nothing but
registered ranges is mapped, the owner state at the fill decides (R15, R19), and a page that host memory backs names the
host address itself. -/
def State.translate (s : State) (c : Nat) (t : Option Nat) (d : Nat) (va : Nat) (k : Acc) (ext : Bool) : State × Tr :=
  if 0x8000 * 2 ^ 64 ≤ va then (s, .malformed)
  else if va < 2 ^ 64 ∧ (s.shRange? c va).isNone then (s, .unmapped)
  else
    match s.leafOf c t d va with
    | (s, .entry e, base, own) =>
      if va < 2 ^ 64 ∧ own ≠ some .device then (s, .notOwned)
      else if pteTier e ≠ 0 then (s, .far e)
      else if !permits e k ext then (s, .denied)
      else if s.hostBacked c va then (s, .resident .host va e)
      else (s, .resident .phys (base + va % pageBytes (pteSize e)) e)
    | (s, .unmapped, _) => (s, .unmapped)
    | (s, .malformed, _) => (s, .malformed)
    | (s, .poison _, _) => (s, .malformed)

/-- The cause with which an ordinary access or a probe ends the context (R50), or none. -/
def Tr.fatal (o : Tr) (ordinary : Bool) : Option Cause :=
  match o with
  | .resident _ _ _ => none
  | .far _ | .unmapped | .denied => if ordinary then some .access else none
  | .notOwned => some .shared
  | .malformed => some .access

/-! ## Accesses by virtual address -/

/-- A VA some bytes further on, in its space (R11). -/
def VA.plus (v : VA) (n : Nat) : VA := ⟨v.space, v.off + BitVec.ofNat 64 n⟩

/-- A piece of a range that lies in one 4 KiB page: its VA and its length. -/
structure Piece where
  va : Nat
  len : Nat
  deriving DecidableEq, Repr

/-- The pieces of n bytes from {space, off} on; the offset wraps modulo 2^64 (R11). -/
def pieces : Nat → Nat → Nat → Nat → List Piece
  | 0, _, _, _ => []
  | f + 1, sp, off, n =>
    if n = 0 then []
    else
      let k := min n (4096 - off % 4096)
      ⟨sp * 2 ^ 64 + off, k⟩ :: pieces f sp ((off + k) % 2 ^ 64) (n - k)

/-- The pieces of a range. -/
def vaPieces (v : VA) (n : Nat) : List Piece := pieces (n / 4096 + 2) v.space.toNat v.off.toNat n

/-- A translated piece. -/
structure Seg where
  l : Loc
  a : Nat
  len : Nat
  e : Nat
  va : Nat
  deriving DecidableEq, Repr

/-- Translation of pieces in ascending order: the segments, or the first outcome that is not RESIDENT with its VA. -/
def State.translateAll (s : State) (c : Nat) (t : Option Nat) (d : Nat) (k : Acc) (ext : Bool) :
    List Piece → State × Except (Tr × Nat) (List Seg)
  | [] => (s, .ok [])
  | p :: ps =>
    match s.translate c t d p.va k ext with
    | (s, .resident l a e) =>
      match s.translateAll c t d k ext ps with
      | (s, .ok r) => (s, .ok (⟨l, a, p.len, e, p.va⟩ :: r))
      | (s, .error x) => (s, .error x)
    | (s, o) => (s, .error (o, p.va))

/-- The bytes of segments, with poison. -/
def State.segBytes (s : State) (gs : List Seg) : List (Byte × Bool) := gs.flatMap fun g => s.bytesP g.l g.a g.len

/-- The accesses of a context to a segment counted at their channels (R83). -/
def State.countSeg (s : State) (c : Nat) (g : Seg) : State := if g.l = .phys then s.countRun c (pteHS g.e) g.a g.len else s

/-- The accesses to segments counted. -/
def State.countSegs (s : State) (c : Nat) (gs : List Seg) : State := gs.foldl (fun s g => s.countSeg c g) s

/-! ## Invalidation and replica collapse -/

/-- Whether an invalidation covers the page of n bytes at va (R44). -/
def InvReq.covers (q : InvReq) (asid va n : Nat) : Bool :=
  q.asid == asid &&
    (match q.range with
     | none => true
     | some (a, len) => va < a + len && a < va + n)

/-- R44: the entries of every TLB and the L1 lines of the pages that an invalidation names are gone, and the misses
that wait for their pages walk again. -/
def State.invalidate (s : State) (q : InvReq) : State :=
  { s with
    tlb := s.tlb.filter fun t => !q.covers t.asid t.page (pageBytes (pteSize t.pte))
    walkCache := s.walkCache.filter fun w => !q.covers w.asid (w.tag * 2 ^ (12 * w.lev + 12)) (2 ^ (12 * w.lev + 12))
    tiles :=
      mmap (fun _ x =>
        { x with
          l1 := x.l1.filter fun l => !q.covers l.asid l.va 64
          icache := x.icache.filter fun l => !q.covers l.asid l.va 64 }) s.tiles }

/-- The PAs of the entries in the run of the page at va, from the node of its leaf level (R36, R37). -/
def runEntries (s : State) (c va z : Nat) : List Nat :=
  let lev := leafLevel z
  let base := va / pageBytes z * pageBytes z
  let rec node : Nat → Nat → Option Nat
    | k, pa =>
      if k = lev then some pa
      else
        let e := s.num .phys (pa + walkIndex base k * 16) 16
        if pteV e && !pteLeaf e then
          match k with
          | 0 => none
          | j + 1 => node j (pteFrame e * 4096)
        else none
  match node 5 (s.ctx c).root with
  | none => []
  | some pa => (List.range (runLen z)).map fun i => pa + (walkIndex base lev + i) * 16

/-- A page-table entry written, an access with no owning context (R83). -/
def State.putPte (s : State) (pa e : Nat) : State := (s.write .phys pa (leBytes 16 e) 0xFFFF).countRun 0xFFFF 0 pa 16

/-- The state with every entry of a page's run written (R36, R39). -/
def State.writeRun (s : State) (c va z e : Nat) : State := (runEntries s c va z).foldl (fun s pa => s.putPte pa e) s

/-- R39: a page's entries rewritten with the old translations invalidated. -/
def State.rewrite (s : State) (c va z e : Nat) : State :=
  let page := va / pageBytes z * pageBytes z
  ((s.writeRun c page z 0).invalidate ⟨c, some (page, pageBytes z)⟩).writeRun c page z e

/-- R56 step 2: a leaf without its replicas. -/
def pteUnrepl (e : Nat) : Nat := e % 2 ^ 64 - (if pteRepl e then 2 ^ 10 else 0)

/-- What is left of a range that the host need not see when the bytes from lo to below hi are written anew. -/
def Unseen.cut (u : Unseen) (lo hi : Nat) : List Unseen :=
  (if u.lo < min u.hi lo then [{ u with hi := min u.hi lo }] else []) ++
    (if max u.lo hi < u.hi then [{ u with lo := max u.lo hi }] else [])

/-- The host-shared bytes from lo to below hi of the contexts that satisfy a test are no longer hidden from the host. -/
def State.unseenCut (s : State) (p : Nat → Bool) (lo hi : Nat) : State :=
  { s with unseen := s.unseen.flatMap fun u => if p u.ctx then u.cut lo hi else [u] }

/-- The tile of a party. -/
def Party.tileOf (p : Party) : Nat := match p with
  | .tile t | .cmd t _ | .tag t _ | .fenced t _ | .saw t _ _ => t

/-- A party whose tile now has number b. -/
def Party.retile (a b : Nat) (p : Party) : Party :=
  if p.tileOf ≠ a then p
  else
    match p with
    | .tile _ => .tile b
    | .cmd _ o => .cmd b o
    | .tag _ g => .tag b g
    | .fenced _ k => .fenced b k
    | .saw _ r k => .saw b r k

/-- Whether two places share a byte, or are one. -/
def WordAt.meets (v w : WordAt) : Bool := match v, w with
  | .va a b, .va c d => a < d && c < b
  | .spad t a b, .spad u c d => t == u && a < d && c < b
  | v, w => v == w

/-- R137: whether a party lies in the scope instance of another: tiles, or the hub (none). -/
def inScope (scope : Nat) (a b : Option Nat) : Bool :=
  a == b || (match scope with
    | 0 => false
    | 1 => a.isSome && a.map tileCluster == b.map tileCluster
    | 2 => a.map tileDie == b.map tileDie
    | _ => true)

/-- R139: whether a release synchronises with an acquire of a party at a scope that reads what it or its release sequence wrote. -/
def RelTok.syncs (k : RelTok) (w : WordAt) (scope : Nat) (q : Option Nat) : Bool :=
  k.at'.meets w && inScope k.scope k.tile q && inScope scope q k.tile

/-- A record with a party that it has happened for. -/
def Unseen.tell (u : Unseen) (p : Party) : Unseen := if p ∈ u.known then u else { u with known := p :: u.known }

/-- A record in the history of a task. -/
def Unseen.inTask (u : Unseen) (sn : Nat) : Unseen := if sn ∈ u.tasks then u else { u with tasks := sn :: u.tasks }

/-- A record that a release orders. -/
def Unseen.tok (u : Unseen) (k : RelTok) : Unseen := if k ∈ u.toks then u else { u with toks := k :: u.toks }

/-- The records of a context's writes whose ownership lasts changed where a test holds. -/
def State.updUnseen (s : State) (c : Nat) (p : Unseen → Bool) (f : Unseen → Unseen) : State :=
  { s with unseen := s.unseen.map fun u => if u.ctx == c && !u.lost && p u then f u else u }

/-- R21: the host sees the records of a context's writes for which a test holds. -/
def State.showHost (s : State) (c : Nat) (p : Unseen → Bool) : State :=
  { s with unseen := s.unseen.filter fun u => !(u.ctx == c && !u.lost && p u) }

/-- R21: bytes of the host-shared window that a context has written. -/
def State.unseenAdd (s : State) (c : Nat) (w : Writer) (g : Seg) : State :=
  if g.va < 2 ^ 64 then
    let u := s.unseenCut (· == c) g.va (g.va + g.len)
    { u with unseen := ⟨c, g.va, g.va + g.len, w.task.toList, false, w.party.toList, [], false⟩ :: u.unseen }
  else s

/-- R139: a write that is no atomic ends the release sequences of the bytes that it writes; of every context where `c` is none. -/
def State.overwritten (s : State) (c : Option Nat) (w : WordAt) : State :=
  { s with
    unseen := s.unseen.map fun u =>
      if c.all (· == u.ctx) then { u with toks := u.toks.filter fun k => !k.at'.meets w } else u }

/-- R21, R155, R237: a release of a context's task stream at SYSTEM scope orders every write of the tasks older than its own, and
of the hub's agents. -/
def State.systemRelease (s : State) (c sn : Nat) : State :=
  s.showHost c fun u => u.tasks.isEmpty || u.past || u.tasks.any (· < sn)

/-- The writes for which a test holds have happened for tile t (R140), and stand in the history of its task (R154). -/
def State.tileLearn (s : State) (t : Nat) (p : Unseen → Bool) : State :=
  s.updUnseen (s.tile t).ctx p fun u => (u.tell (.tile t)).inTask (s.tile t).task

/-- R21, R143: a release fence of tile t at a scope: at SYSTEM scope it orders the writes that have happened for the tile, and
the host sees them; at another, what the tile writes from then on releases them (notes/assumptions/84.md). -/
def State.tileRelease (s : State) (t scope : Nat) : State :=
  let c := (s.tile t).ctx
  if scope = 4 then s.showHost c fun u => u.known.contains (.tile t)
  else s.updUnseen c (fun u => u.known.contains (.tile t)) fun u => u.tell (.fenced t scope)

/-- R139: a release of tile t at a scope that is read at w: it orders what has happened for party `p`. -/
def State.releaseTo (s : State) (p : Party) (t scope : Nat) (w : WordAt) : State :=
  let c := (s.tile t).ctx
  if scope = 4 then s.showHost c fun u => u.known.contains p
  else s.updUnseen c (fun u => u.known.contains p) fun u => u.tok ⟨w, scope, some t⟩

/-- R143: a write of tile t at w after its release fences acts as a release at the scope of each. -/
def State.writeAfter (s : State) (t : Nat) (w : WordAt) : State :=
  (List.range 4).foldl
    (fun s k => s.updUnseen (s.tile t).ctx (fun u => u.known.contains (.fenced t k)) fun u => u.tok ⟨w, k, some t⟩) s

/-- R139: an acquire of tile t at a scope that reads w. -/
def State.acquireFrom (s : State) (t scope : Nat) (w : WordAt) : State :=
  s.tileLearn t fun u => u.toks.any fun k => k.syncs w scope (some t)

/-- R143: a plain read of tile t at w: an acquire fence after it makes it synchronise. -/
def State.readBefore (s : State) (t : Nat) (w : WordAt) : State :=
  s.updUnseen (s.tile t).ctx (fun u => u.toks.any fun k => k.at'.meets w) fun u =>
    (u.toks.filter fun k => k.at'.meets w).foldl (fun u k => u.tell (.saw t k.tile k.scope)) u

/-- R143: an acquire fence of tile t at a scope (notes/assumptions/84.md). -/
def State.tileAcquire (s : State) (t scope : Nat) : State :=
  s.tileLearn t fun u => u.known.any fun p => match p with
    | .saw q r k => q == t && inScope k r (some t) && inScope scope (some t) r
    | _ => false

/-- R144: the place of a fence.tot of tile t in the hub's order: after the earlier ones, before the later. -/
def State.hubOrder (s : State) (t : Nat) : State := (s.acquireFrom t 3 .order).releaseTo (.tile t) t 3 .order

/-- R147: a command of tile t with ACQ, or whose release covers its tile's earlier writes (R124, R327), comes after what has
happened for the tile as it issues. -/
def State.cmdSees (s : State) (t ord : Nat) : State :=
  s.updUnseen (s.tile t).ctx (fun u => u.known.contains (.tile t)) fun u => u.tell (.cmd t ord)

/-- R147: a command of tile t with REL is complete: its release at its scope, and the place of its writes before the tile's
releases from then on, while the instance of its task is there. -/
def State.cmdRelease (s : State) (t ord scope task : Nat) : State :=
  let c := (s.tile t).ctx
  if scope = 4 then s.showHost c fun u => u.known.contains (.cmd t ord)
  else if (s.tile t).task = task then s.tileLearn t fun u => u.known.contains (.cmd t ord)
  else s

/-- R148: a command of tile t is complete and sets its tag. -/
def State.tagSees (s : State) (t ord g : Nat) : State :=
  s.updUnseen (s.tile t).ctx (fun u => u.known.contains (.cmd t ord)) fun u => u.tell (.tag t g)

/-- R148: tile t has waited for tags, or read one. -/
def State.tagsSeen (s : State) (t : Nat) (tags : Word) : State :=
  s.tileLearn t fun u => u.known.any fun p => match p with
    | .tag q g => q == t && tags.getLsbD g
    | _ => false

/-- The instance of tile t has ended: its writes have happened for what follows its task (R154). -/
def State.tileLeaves (s : State) (t : Nat) : State :=
  s.updUnseen (s.tile t).ctx (fun _ => true) fun u =>
    { u with
      known := u.known.filter fun p => p.tileOf != t
      toks := u.toks.filter fun k => match k.at' with
        | .spad q _ _ => q != t
        | _ => true }

/-- The instance of a context in tile a is in tile b now (R387). -/
def State.retile (s : State) (c a b : Nat) : State :=
  s.updUnseen c (fun _ => true) fun u =>
    { u with
      known := u.known.map (Party.retile a b)
      toks := u.toks.map fun k => match k.at' with
        | .spad q lo hi => if q = a then { k with at' := .spad b lo hi } else k
        | _ => k }

/-- R154: what comes before task `sn` of a context stands in its history: the writes of the tasks that it depends on, and, where
all older ones come before it, of those. -/
def State.taskLearn (s : State) (c sn : Nat) (deps : List Nat) (all : Bool) : State :=
  s.updUnseen c (fun u => u.past || u.tasks.any fun k => deps.contains k || (all && k < sn)) fun u => u.inTask sn

/-- R237: a TFENCE: what the older tasks have written stands in the history of every younger one. -/
def State.fencePast (s : State) (c sn : Nat) : State :=
  s.updUnseen c (fun u => u.tasks.isEmpty || u.tasks.any (· < sn)) fun u => { u with past := true }

/-- R139: a push of task `sn`, a release at PACKAGE scope that a pop of the entry reads. -/
def State.taskPushed (s : State) (c sn : Nat) (w : WordAt) : State :=
  s.updUnseen c (fun u => u.tasks.contains sn) fun u => u.tok ⟨w, 3, none⟩

/-- R139: a pop of task `sn`, an acquire at PACKAGE scope. -/
def State.taskPopped (s : State) (c sn : Nat) (w : WordAt) : State :=
  s.updUnseen c (fun u => u.toks.any fun k => k.syncs w 3 none) fun u => u.inTask sn

/-- R21: the device's ownership of n bytes at h of a context ends: what no release at SYSTEM scope has ordered before stays
hidden from the host. -/
def State.unseenLost (s : State) (c h n : Nat) : State :=
  { s with
    unseen := s.unseen.flatMap fun u =>
      if u.ctx = c ∧ u.lo < h + n ∧ h < u.hi then
        ({ u with lo := max u.lo h, hi := min u.hi (h + n), lost := true } : Unseen) :: u.cut h (h + n)
      else [u] }

/-- A write of bytes with poison to segments. -/
def State.writeSegs (s : State) (asid : Nat) (w : Writer) : List Seg → List (Byte × Bool) → State
  | [], _ => s
  | g :: gs, bs =>
    ((((s.writeP g.l g.a (bs.take g.len) asid).countSeg asid g).overwritten (some asid) (.va g.va (g.va + g.len))).unseenAdd asid w
      g).writeSegs asid w gs (bs.drop g.len)

/-- A write of tile t's slot groups, or of its command with a place in the issue order. -/
def State.byTile (s : State) (t : Nat) : Writer := ⟨some (.tile t), some (s.tile t).task⟩
def State.byCmd (s : State) (t ord : Nat) : Writer := ⟨some (.cmd t ord), some (s.tile t).task⟩

/-- R56 step 2: the entries of a read-duplicated page keep the home copy alone. -/
def State.unreplicate (s : State) (c va e : Nat) : State := s.rewrite c va (pteSize e) (pteUnrepl e)

/-- R56 step 4 without its writes: the frames of dies 1 to 3 are free, and the home copy is no replica frame. -/
def State.freeReplicas (s : State) (e : Nat) : State :=
  { s with
    frames := (s.frames.filter fun f => !([1, 2, 3].any fun d => f.pa == copyBase e d)).map fun f =>
      if f.pa = copyBase e 0 then { f with repl := false } else f }

/-- R56 step 4 of a collapse in progress: the frames of dies 1 to 3 are free, and the stalled writes, which their issuers
still hold, translate again. -/
def State.collapseEnd (s : State) (r : CollapseRec) : State :=
  let s := (if r.begun then s else s.unreplicate r.ctx r.va r.pte).freeReplicas r.pte
  { s with collapses := s.collapses.filter fun q => !(q.ctx == r.ctx && q.va == r.va) }

/-- R56 step 1: a write to the read-duplicated page at va, whose leaf is e, attaches to the page's collapse, or starts it. -/
def State.stallWrite (s : State) (c va e : Nat) (w : StalledWrite) : State :=
  let page := va / pageBytes (pteSize e) * pageBytes (pteSize e)
  if s.collapses.any fun q => q.ctx == c && q.va == page then
    { s with
      collapses := s.collapses.map fun r =>
        if r.ctx = c ∧ r.va = page ∧ w ∉ r.writes then { r with writes := r.writes ++ [w] } else r }
  else { s with collapses := s.collapses ++ [⟨c, page, e, false, 0, [w]⟩] }

/-- The collapse in progress of the page that holds an address. -/
def State.collapseOf (s : State) (c va : Nat) : Option CollapseRec :=
  s.collapses.find? fun r => r.ctx == c && r.va ≤ va && va < r.va + pageBytes (pteSize r.pte)

/-- R56: the first segment of a write whose page collapses or must. -/
def State.collapsing (s : State) (c : Nat) (gs : List Seg) : Option Seg :=
  gs.find? fun g => pteRepl g.e || (s.collapseOf c g.va).isSome

/-- R56 for a segment of a write of the hub's own: the whole collapse of its page comes before it
(notes/assumptions/73.md). -/
def State.settle (s : State) (c : Nat) (g : Seg) : State :=
  match s.collapseOf c g.va with
  | some r => s.collapseEnd r
  | none => if pteRepl g.e then (s.unreplicate c g.va g.e).freeReplicas g.e else s

/-- A read of n bytes by virtual address: the bytes with poison, or the first failing outcome. -/
def State.vaRead (s : State) (c : Nat) (t : Option Nat) (d : Nat) (v : VA) (n : Nat) (k : Acc) :
    State × Except (Tr × Nat) (List (Byte × Bool)) :=
  match s.translateAll c t d k false (vaPieces v n) with
  | (s, .ok gs) => (s.countSegs c gs, .ok (s.segBytes gs))
  | (s, .error x) => (s, .error x)

/-- The segments of a write with the replicas of their pages collapsed first (R56). -/
def State.vaWriteSegs (s : State) (c : Nat) (t : Option Nat) (d : Nat) (ps : List Piece) (k : Acc) (ext : Bool) :
    State × Except (Tr × Nat) (List Seg) :=
  match s.translateAll c t d k ext ps with
  | (s, .ok gs) =>
    if (s.collapsing c gs).isSome then
      (gs.foldl (fun s g => s.settle c g) s).translateAll c t d k ext ps
    else (s, .ok gs)
  | r => r

/-- A write of bytes by virtual address, of the hub's own agents. -/
def State.vaWrite (s : State) (c : Nat) (t : Option Nat) (d : Nat) (v : VA) (bs : List (Byte × Bool)) (ext : Bool) :
    State × Except (Tr × Nat) Unit :=
  match s.vaWriteSegs c t d (vaPieces v bs.length) .w ext with
  | (s, .ok gs) => (s.writeSegs c ⟨none, none⟩ gs bs, .ok ())
  | (s, .error x) => (s, .error x)

/-! ## Holds -/

/-- Whether a hold covers a byte of a page (R51). -/
def Context.held (x : Context) (va n : Nat) : Bool := x.holds.any fun h => h.va < va + n && va < h.va + h.len

/-- What a probe ends in (R51, R52): holds placed, a failing page with its outcome, HOLDFULL, or a wait for a hold entry. -/
inductive Probe where
  | ok
  | fail (o : Tr) (va : Nat)
  | holdFull
  | wait
  deriving DecidableEq, Repr

/-- R51, R52: a probe of n bytes at v for context c; a hold is placed for the task sn. -/
def State.probe (s : State) (c : Nat) (t : Option Nat) (d : Nat) (v : VA) (n : Nat) (k : Acc) (ext : Bool) (sn : Nat) :
    State × Probe :=
  match s.translateAll c t d k ext (vaPieces v n) with
  | (s, .error (o, va)) => (s, .fail o va)
  | (s, .ok _) =>
    let x := s.ctx c
    if 1024 ≤ x.holds.length then
      if (x.entries.takeWhile fun e => e.sn != sn) != [] then (s, .wait) else (s, .holdFull)
    else (s.setCtx c { x with holds := x.holds ++ [⟨v.toNat, n, sn⟩] }, .ok)

/-- R109: the Task Engine has read poison in n bytes of context c: a record of KIND 4. -/
def State.hubConsumed (s : State) (c : Nat) (v : VA) (n : Nat) : State :=
  match (s.translateAll c none 4 .r false (vaPieces v n)).2 with
  | .error _ => s
  | .ok gs =>
    match gs.find? fun g => s.poisoned g.l g.a g.len with
    | none => s
    | some g =>
      let k := ((List.range g.len).find? fun k => s.poisoned g.l (g.a + k) 1).getD 0
      s.logErr 4 (s.unitOf g.l (g.a + k)) c (s.locAddr g.l (g.a + k))

end Sys2Proof.Machine
end

