-- ==== Sys2Proof/Machine/Entries.lean ====
section
/-! DEFINITION. Window entries by task sequence number, the marking of a fault on one (R193, R194) and the cause of a
context's end with the task that it names (R195). -/
namespace Sys2Proof.Machine

/-- The unretired entry of a task. -/
def Context.entry (x : Context) (sn : Nat) : Option Entry := x.entries.find? fun e => e.sn == sn

/-- A context with the entry of a task changed. -/
def Context.updEntry (x : Context) (sn : Nat) (f : Entry → Entry) : Context :=
  { x with entries := x.entries.map fun e => if e.sn = sn then f e else e }

/-- The state with the entry of a task changed. -/
def State.updEntry (s : State) (c sn : Nat) (f : Entry → Entry) : State := s.updCtx c fun x => x.updEntry sn f

/-- An entry that faults (R193, R197): code, OPND, FVA and FRAMEOFF of the first fault stand. -/
def Entry.fail (e : Entry) (code opnd fva off : Nat) : Entry :=
  if e.fault.isSome then e else { e with st := .fault, fault := some (code, opnd, fva), frameOff := off }

/-- The task of a sequence number faults with no tile frame. -/
def State.failTask (s : State) (c sn code opnd fva : Nat) : State := s.updEntry c sn fun e => e.fail code opnd fva 0

/-- TADDR, TSEQ and OPND that name a task (R195). -/
def Context.named (x : Context) (sn : Nat) : Option (Nat × Nat × Nat) := (x.entry sn).map fun e => (e.addr.toNat, e.sn, 0x1F)

/-- The cause of a context's end (R194, R195, R380): its first fatal cause, the failing address, and the task named. -/
def State.fatalCtx (s : State) (c : Nat) (cause : Cause) (fva : Nat) (who : Option (Nat × Nat × Nat)) : State :=
  s.updCtx c fun x => if x.fatal.isSome then x else { x with fatal := some (cause, fva, who) }

/-- The gang of a task (R197). -/
def Context.gang (x : Context) (sn : Nat) : Option Gang := x.gangs.find? fun g => g.sn == sn

/-- Whether the gang of the task of tile t has been ended by a fault (R193). -/
def State.killed (s : State) (t : Nat) : Bool :=
  let x := s.tile t
  (s.ctx x.ctx).gangs.any fun g => g.sn == x.task && g.ending

end Sys2Proof.Machine
end

