-- ==== Sys2Proof/Machine/Queue.lean ====
section
/-! DEFINITION. The pipe-queue agent (R178, R179, R430): a queue's image in memory, its hardware slot, push, pop and
notify. The agent reaches the image through the page tables of the queue's first registration, as an EXT issuer (R45).
And the Hiphor ports' streams (R395 to R398). -/
namespace Sys2Proof.Machine

/-- An empty registration. -/
def PQueue.none : PQueue := ⟨[], 4, 0, false, 0, 0, 0, 0⟩

/-- A queue, if a context has registered it (R430). -/
def State.queue? (s : State) (qid : Nat) : Option PQueue := mget? s.queues qid

/-- The state with a queue replaced. -/
def State.setQueue (s : State) (qid : Nat) (q : PQueue) : State := { s with queues := mput s.queues qid q }

/-- Whether a queue is registered for a context. -/
def PQueue.regFor (q : PQueue) (c : Nat) : Bool := q.regs.any fun r => r.1 == c

/-- Entry bytes (R178). -/
def PQueue.esz (q : PQueue) : Nat := 8 * 2 ^ q.esize

/-- Depth in entries (R178). -/
def PQueue.depth (q : PQueue) : Nat := 2 ^ q.ldepth

/-- The bytes of a queue's image. -/
def PQueue.imageBytes (q : PQueue) : Nat := 0x40 + q.depth * q.esz

/-- Bytes of an image; poison in them does not reach the queue (DESIGN CHOICE, notes/assumptions/103.md). -/
def State.imgRead (s : State) (q : PQueue) (off n : Nat) : List Byte :=
  match q.regs with
  | [] => List.replicate n 0
  | (c, v) :: _ =>
    match (s.vaRead c none 4 (VA.plus v off) n .r).2 with
    | .ok b => b.map Prod.fst
    | .error _ => List.replicate n 0

/-- A write of an image's bytes. -/
def State.imgWrite (s : State) (q : PQueue) (off : Nat) (bs : List Byte) : State :=
  match q.regs with
  | [] => s
  | (c, v) :: _ => (s.vaWrite c none 4 (VA.plus v off) (bs.map fun b => (b, false)) true).1

/-- R50, R83: an access of the agent to bytes of an image, its reads counted at their channels; one that fails ends the context
whose page tables it uses. -/
def State.imgUse (s : State) (q : PQueue) (off n : Nat) (k : Acc) : State :=
  match q.regs with
  | [] => s
  | (c, v) :: _ =>
    match s.translateAll c none 4 k true (vaPieces (VA.plus v off) n) with
    | (s, .ok gs) => if k = .w then s else s.countSegs c gs
    | (s, .error (o, va)) => s.fatalCtx c ((o.fatal true).getD .access) va none

/-- The agent's use of the words of an image that hold HEAD, TAIL, NOTIFY and the flags, while they are not in a slot. -/
def State.imgHead (s : State) (q : PQueue) : State := if q.mapped then s else s.imgUse q 0 0x20 .rw

/-- A 64-bit word of an image. -/
def State.imgWord (s : State) (q : PQueue) (off : Nat) : Nat := leNat (s.imgRead q off 8)

/-- HEAD, TAIL and NOTIFY of a queue: in its slot while it is mapped, else in its image. -/
def State.queueHTN (s : State) (q : PQueue) : BitVec 32 × BitVec 32 × Word :=
  if q.mapped then (q.head, q.tail, q.notify)
  else
    let w := s.imgWord q 8
    (BitVec.ofNat 32 w, BitVec.ofNat 32 (w / 2 ^ 32), w64 (s.imgWord q 0x10))

/-- R179: a queue leaves its slot: HEAD, TAIL and NOTIFY go to the image and MAPPED clears. -/
def State.queueUnmap (s : State) (qid : Nat) : State :=
  match s.queue? qid with
  | none => s
  | some q =>
    if !q.mapped then s
    else
      let s := s.imgUse q 0 0x20 .rw
      let s := s.imgWrite q 8 (leBytes 8 (q.head.toNat + q.tail.toNat * 2 ^ 32) ++ leBytes 8 q.notify.toNat)
      let s := s.imgWrite q 0x18 (leBytes 8 (putBits (s.imgWord q 0x18) 1 1 0))
      s.setQueue qid { q with mapped := false }

/-- The least recently used queue that holds a slot. -/
def State.lruQueue (s : State) : Option Nat :=
  (s.queues.foldl
    (fun (r : Option (Nat × Nat)) p =>
      if !p.2.mapped then r
      else
        match r with
        | none => some (p.1, p.2.used)
        | some x => if p.2.used < x.2 then some (p.1, p.2.used) else r) none).map Prod.fst

/-- R179: a queue takes a slot, the least recently used of 4,096 leaving one; NPEND clears. What counts as a use is the pop or the
wait that maps it (DESIGN CHOICE, notes/assumptions/105.md). -/
def State.queueMap (s : State) (qid : Nat) : State :=
  match s.queue? qid with
  | none => s
  | some q =>
    let s := { s with useCtr := s.useCtr + 1 }
    if q.mapped then s.setQueue qid { q with used := s.useCtr }
    else
      let s :=
        if 4096 ≤ (s.queues.filter fun p => p.2.mapped).length then
          match s.lruQueue with
          | some v => s.queueUnmap v
          | none => s
        else s
      let h := s.queueHTN q
      let s := s.imgHead q
      let s := s.imgWrite q 0x18 (leBytes 8 (putBits (putBits (s.imgWord q 0x18) 0 1 0) 1 1 1))
      s.setQueue qid { q with mapped := true, head := h.1, tail := h.2.1, notify := h.2.2, used := s.useCtr }

/-- Whether a queue is full (R178). -/
def State.queueFull (s : State) (q : PQueue) : Bool :=
  let h := s.queueHTN q
  q.depth ≤ (h.2.1 - h.1).toNat

/-- Whether a queue holds an entry. -/
def State.queueHas (s : State) (q : PQueue) : Bool :=
  let h := s.queueHTN q
  h.2.1 != h.1

/-- HEAD, TAIL and NOTIFY stored in the image (R178, R411), and in the slot of a queue that is mapped
(notes/assumptions/40.md). -/
def State.queueStore (s : State) (qid : Nat) (q : PQueue) (h t : BitVec 32) (n : Word) : State :=
  let s := (s.imgUse q 0 0x20 .rw).imgWrite q 8 (leBytes 8 (h.toNat + t.toNat * 2 ^ 32) ++ leBytes 8 n.toNat)
  if q.mapped then s.setQueue qid { q with head := h, tail := t, notify := n } else s

/-- R178, R179: an entry pushed to a queue that is not full. -/
def State.queuePush (s : State) (qid : Nat) (q : PQueue) (bs : List Byte) : State :=
  let h := s.queueHTN q
  let s := (s.imgHead q).imgUse q (0x40 + h.2.1.toNat % q.depth * q.esz) q.esz .w
  let s := s.imgWrite q (0x40 + h.2.1.toNat % q.depth * q.esz) bs
  s.queueStore qid q h.1 (h.2.1 + 1) h.2.2

/-- R178, R179: an entry popped from a queue that holds one; a pop maps the queue. -/
def State.queuePop (s : State) (qid : Nat) : State × List Byte :=
  let s := s.queueMap qid
  let q := (s.queue? qid).getD PQueue.none
  let h := s.queueHTN q
  let bs := s.imgRead q (0x40 + h.1.toNat % q.depth * q.esz) q.esz
  let s := s.imgUse q (0x40 + h.1.toNat % q.depth * q.esz) q.esz .r
  (s.queueStore qid q (h.1 + 1) h.2.1 h.2.2, bs)

/-- R178, R179: a notify write of value v; to an unmapped queue it sets NPEND in the image. -/
def State.queueNotify (s : State) (qid : Nat) (v : Word) : State :=
  match s.queue? qid with
  | none => s
  | some q =>
    let h := s.queueHTN q
    let s := s.queueStore qid q h.1 h.2.1 (h.2.2 ||| v)
    if q.mapped then s else s.imgWrite q 0x18 (leBytes 8 (putBits (s.imgWord q 0x18) 0 1 1))

/-! ## Hiphor ports -/

/-- A port of the chip. -/
def State.port (s : State) (k : Nat) : Port := mget Port.reset s.ports k

/-- The state with a port replaced. -/
def State.setPort (s : State) (k : Nat) (p : Port) : State := { s with ports := mput s.ports k p }

/-- R395: a port is open for a context: it holds the port, and both sides have opened it toward each other. -/
def Port.openFor (p : Port) (c : Nat) : Bool := p.ctx == some c && p.peerOpen == some (p.peer, p.pctx, c) && !p.failed

/-- Room left in the peer's receive queue of a stream (R396). -/
def Port.room (p : Port) (strm : Nat) : Nat := 65536 - (mget [] p.tx strm).length

end Sys2Proof.Machine
end

