-- ==== Sys2Proof/Machine/Ops.lean ====
section
/-! DEFINITION. The named operations over a tile: its groups and sequencers, register reads and results in flight (R262
to R264), write partitions (R168), staging registers and engine queues (R261), scratchpad accesses with their wake-ups
(R125), and the taking of a cause: the record of R369, the freeze of R370 to R372, and the resume of R375. -/
namespace Sys2Proof.Machine

/-- What a step answers. -/
abbrev Out := Host.Outcome State Fault Refusal

/-! ## Groups and sequencers -/

/-- The tile whose step this is. -/
def State.here (s : State) : Tile := s.tile s.cur.tile

/-- The state with the tile of this step changed. -/
def State.updHere (s : State) (f : Tile → Tile) : State := s.updTile s.cur.tile f

/-- Group g of a tile (R166). -/
def Tile.group (x : Tile) (g : Nat) : Group := (x.groups.find? fun q => q.num == g).getD Group.lockstep

/-- A tile with a group changed. -/
def Tile.updGroup (x : Tile) (g : Nat) (f : Group → Group) : Tile :=
  { x with groups := x.groups.map fun q => if q.num = g then f q else q }

/-- The group of this step. -/
def State.grp (s : State) : Group := s.here.group s.cur.group

/-- The state with the group of this step changed. -/
def State.updGrp (s : State) (f : Group → Group) : State := s.updHere fun x => x.updGroup s.cur.group f

/-- Whether a group holds a slot (R166). -/
def Group.hasSlot (g : Group) (k : Nat) : Bool := g.slots.getLsbD k

/-- The slots of a group in ascending order. -/
def Group.slotList (g : Group) : List Nat := (List.range 8).filter g.hasSlot

/-- The number of the group that holds a slot. -/
def Tile.groupOf (x : Tile) (slot : Nat) : Nat := ((x.groups.find? fun q => q.hasSlot slot).getD Group.lockstep).num

/-- A tile's sequencer of a slot. -/
def Tile.seq (x : Tile) (slot : Nat) : Seqr := nth Seqr.reset x.seqs slot

/-- A tile with the sequencers of a group changed (R258: a sequencer-class syllable acts on all of them). -/
def Tile.updSeqs (x : Tile) (g : Group) (f : Seqr → Seqr) : Tile :=
  { x with seqs := x.seqs.zipIdx.map fun p => if g.hasSlot p.2 then f p.1 else p.1 }

/-- The sequencer that stands for a group: that of its lowest slot. -/
def Tile.groupSeq (x : Tile) (g : Group) : Seqr := x.seq (g.slotList.headD 0)

/-- Loop index n of a sequencer; 0 while the level is not entered (R294). -/
def Seqr.index (q : Seqr) (n : Nat) : BitVec 32 := match q.loops[n]? with
  | some l => l.i
  | none => 0

/-- The slot of an engine (R6). -/
def engSlot (e : Eng) : Nat :=
  match e with
  | .D => 3
  | .V => 4
  | .M => 5
  | .K => 6
  | .A => 7

/-- The place of an engine in R372's ENG field and R369's order. -/
def engIdx (e : Eng) : Nat :=
  match e with
  | .D => 0
  | .V => 1
  | .M => 2
  | .K => 3
  | .A => 4

/-- The engine whose slot a slot number is. -/
def slotEng (k : Nat) : Eng :=
  match k with
  | 4 => .V
  | 5 => .M
  | 6 => .K
  | 7 => .A
  | _ => .D

/-- The engine of an ENG field of DWAIT (R328). -/
def engOfIdx (k : Nat) : Eng := slotEng (k + 3)

/-- An engine's queue. -/
def Tile.queue (x : Tile) (e : Eng) : EngQ :=
  match e with
  | .D => x.qD
  | .V => x.qV
  | .M => x.qM
  | .K => x.qK
  | .A => x.qA

/-- A tile with an engine's queue replaced. -/
def Tile.setQueue (x : Tile) (e : Eng) (q : EngQ) : Tile :=
  match e with
  | .D => { x with qD := q }
  | .V => { x with qV := q }
  | .M => { x with qM := q }
  | .K => { x with qK := q }
  | .A => { x with qA := q }

/-- The key of staging register n of an engine, by R301's ENG code. -/
def stgKey (code n : Nat) : Nat := 16 * code + n

/-- R301's ENG code of an engine; the accumulator port has no staging registers. -/
def stgCode (e : Eng) : Option Nat :=
  match e with
  | .M => some 0
  | .V => some 1
  | .D => some 2
  | .K => some 3
  | .A => none

/-- The slot of the engine of an ENG code (R301). -/
def stgSlot (code : Nat) : Nat :=
  match code with
  | 0 => 5
  | 1 => 4
  | 2 => 3
  | _ => 6

/-! ## Register reads -/

/-- A number that tells apart the free values of one destination. -/
def Dest.site (d : Dest) : Nat :=
  match d with
  | .x r => r.toNat
  | .c n => 128 + n.toNat
  | .stg k => 160 + k
  | .csr n => 256 + n

/-- Whether a read of a destination by group g is undefined now (R262, R263): an exposed result of the group issued in
an earlier cycle has not landed, or, in a handler, a held latch targets it (R374). In the cycle in which the tile freezes,
the results in flight stand in its latches already. -/
def Tile.undefinedRead (x : Tile) (g : Nat) (d : Dest) : Bool :=
  ((x.pend ++ x.latches.map Latch.p).any fun p => p.dest == d && !p.ilk && (p.grp == g || p.grp == 255) && p.born != x.clk) ||
    (match x.outer with
     | some o => o.latches.any fun l => l.p.dest == d
     | none => false)

/-- `x`[r] as the group of this step reads it (R262, R281). -/
def State.readX (s : State) (r : BitVec 7) : Word :=
  if r = 0 then 0
  else if s.here.undefinedRead s.cur.group (.x r) then s.free (s.cur.slot * 65536 + r.toNat)
  else mget 0 s.here.xs r.toNat

/-- `c`[n] as the group of this step reads it (R150, R262). -/
def State.readC (s : State) (n : BitVec 5) : Bool :=
  let x := s.here
  if x.undefinedRead s.cur.group (.c n) then (s.free (s.cur.slot * 65536 + 128 + n.toNat)).getLsbD 0
  else
    match x.setcs.find? fun r => r.c == n && r.grp != s.cur.group && !((r.vis.getD (x.clk + 1)) ≤ x.clk) with
    | some r => r.old
    | none => x.cs.getLsbD n.toNat

/-- Staging register n of the engine with an ENG code as a syllable of this step reads it (R261, R301). -/
def State.readStg (s : State) (code n : Nat) : Word :=
  let k := stgKey code n
  if s.here.undefinedRead s.cur.group (.stg k) then s.free (s.cur.slot * 65536 + 160 + k) else mget 0 s.here.stg k

/-- The sixteen staging registers of an engine (R261). -/
def State.readStgs (s : State) (e : Eng) : List Word :=
  match stgCode e with
  | some c => (List.range 16).map (s.readStg c)
  | none => []

/-- ASPn as an 80-bit VA with an offset (R11). -/
def State.aspVA (s : State) (spc : BitVec 2) (off : Word) : VA := ⟨mget 0 s.here.asp spc.toNat, off⟩

/-! ## Taking a cause -/

/-- The class of a cause (R368): 0 fatal to the context, 1 fatal to the kernel, 2 restartable. -/
def causeClass (c : Cause) : Nat :=
  match c with
  | .access | .shared => 0
  | .probe | .fetch | .trap | .brk => 2
  | _ => 1

/-- The code of a cause (R368). -/
def causeCode (c : Cause) : Nat :=
  match c with
  | .probe => 0x01
  | .fetch => 0x02
  | .trap => 0x03
  | .brk => 0x04
  | .illegal => 0x10
  | .bundle => 0x11
  | .partition => 0x12
  | .align => 0x13
  | .fwdwait => 0x14
  | .engine => 0x15
  | .poison => 0x16
  | .lease => 0x17
  | .watchdog => 0x18
  | .access => 0x20
  | .shared => 0x21

/-- The place of a cause in R369's order: the lowest is recorded. -/
def Raised.rank (r : Raised) : Nat :=
  causeClass r.cause * 2 ^ 20 + (if causeClass r.cause = 2 && r.cause != .trap then 2 ^ 19 else 0) +
    (match r.eng, r.tw with
     | _, true => 2 ^ 18 + 16
     | some e, false => 2 ^ 18 + engIdx e
     | none, false => r.grp * 256 + (if r.cause = .brk then 128 else r.slot))

/-- R369: a tile records one cause per freeze, the first in its order of those raised in one cycle. -/
def Tile.record (x : Tile) (r : Raised) : Tile :=
  match x.raised with
  | none => { x with raised := some r }
  | some q => if q.cycle = r.cycle ∧ r.rank < q.rank then { x with raised := some r } else x

/-- PARTN of a group (R26). -/
def Tile.partn (x : Tile) (g : Nat) : Word :=
  if x.lockstep then (if g = 0 then 0x9F007F00 else 0)
  else
    match x.groups.find? fun q => q.num == g with
    | none => 0
    | some q =>
      match q.part with
      | none => 0x9F007F00
      | some p => w64 (p.xFirst + p.xLast * 2 ^ 8 + p.cFirst * 2 ^ 16 + p.cLast * 2 ^ 24 + 2 ^ 31)

/-- SEQADDR of a slot (R26, R370): the bundle that its group issues next, or the bundle that still waits or faulted. -/
def Tile.seqAddr (x : Tile) (slot : Nat) : Word :=
  let g := x.group (x.groupOf slot)
  if g.opened && g.hasSlot slot then g.baddr else (x.seq slot).addr

/-- SEQSTAT of a slot (R26). -/
def Tile.seqStat (x : Tile) (slot : Nat) : Word := w64 (x.groupOf slot + b2n (x.seq slot).halted * 8)

/-- Two loop indices of a slot as one CSR (R372). -/
def Tile.loopIdx2 (x : Tile) (slot k : Nat) : Word :=
  w64 (((x.seq slot).index (2 * k)).toNat + ((x.seq slot).index (2 * k + 1)).toNat * 2 ^ 32)

/-- Whether the bundle at a slot's SEQADDR holds a pending waiting instruction (R316, R372). -/
def Tile.seqPend (x : Tile) (slot : Nat) : Bool := !(x.group (x.groupOf slot)).waits.isEmpty

/-- FCAUSE (R372). -/
def Tile.fcause (x : Tile) (r : Raised) : Word :=
  let eng := match r.eng, r.tw with
    | _, true => 2 ^ 16 + 5 * 2 ^ 17
    | some e, false => 2 ^ 16 + engIdx e * 2 ^ 17
    | none, false => 0
  w64 (causeCode r.cause + b2n (causeClass r.cause == 2) * 2 ^ 8 + b2n x.inHandler * 2 ^ 9 + r.grp % 8 * 2 ^ 10 +
    r.slot % 8 * 2 ^ 13 + eng + r.qseq % 65536 * 2 ^ 32 + r.code % 65536 * 2 ^ 48)

/-- FINFO (R372). -/
def Raised.finfo (r : Raised) : Word :=
  w64 ((match r.fq with
    | some q => q.toNat + 32
    | none => 0) +
   (match r.freg with
    | some (n, c) => n % 128 * 2 ^ 6 + b2n c * 2 ^ 13
    | none => 0))

/-- FVA (R372): 0 but for PROBE, FETCH, ALIGN and POISON. -/
def Raised.frameVA (r : Raised) : Nat :=
  match r.cause with
  | .probe | .fetch | .align | .poison => r.fva
  | _ => 0

/-- The frame CSRs that a freeze writes beside the latch count (R372); no cause: pre-emption. -/
def Tile.frameOf (x : Tile) (r : Option Raised) : SMap Word :=
  let head : SMap Word :=
    match r with
    | none => [(0x105, x.cycle)]
    | some r =>
      [(0x100, x.fcause r), (0x101, if r.eng.isSome || r.tw then 0 else r.faddr), (0x102, w64 r.frameVA),
       (0x103, w64 (r.frameVA / 2 ^ 64)), (0x104, r.finfo), (0x105, x.cycle)]
  let per (f : Nat → Word) (base step : Nat) : SMap Word := (List.range 8).map fun k => (base + step * k, f k)
  head ++ per x.seqAddr 0x108 1 ++ per x.seqStat 0x110 1 ++
    per (fun k => w64 (b2n (x.seqPend k) + (x.seq k).loops.length * 2)) 0x118 1 ++
    (List.range 24).map (fun k => (0x120 + k, x.loopIdx2 (k / 3) (k % 3))) ++ per x.partn 0x138 1

/-- The freeze point F of a group: the earliest cycle of its next bundle (R370). -/
def Tile.freezePoint (x : Tile) (g : Nat) : Nat :=
  match x.groups.find? fun q => q.num == g with
  | some q => q.nextIssue
  | none => (x.groups.map (·.nextIssue)).foldl max 0

/-- R371: a result in flight in its latch; an interlocked result takes d = 0. -/
def Tile.latchOf (x : Tile) (p : Pend) : Latch := ⟨p, if p.ilk then 0 else p.due - x.freezePoint p.grp⟩

/-- Whether a result goes to a latch at a freeze: every one but a CSR write, and one whose bound ends before its group's
freeze point, which lands (R371). -/
def Tile.latches? (x : Tile) (p : Pend) : Bool := match p.dest with
  | .csr _ => false
  | _ => p.ilk || x.freezePoint p.grp ≤ p.due

/-- The number of the group that issued a result. -/
def Pend.issuer (p : Pend) : Nat := if p.grp = 255 then 0 else p.grp

/-- R370 to R372: the tile stops, its results in flight are held in latches, the frame says where and why. An
interlocked result that returned poison is a cause of its own, fatal to the kernel (R109). A later cause of the same
cycle freezes the tile again over the first. -/
def Tile.freeze (x : Tile) : Tile :=
  let ps := x.latches.map Latch.p ++ x.pend.filter x.latches?
  let ls := ps.map x.latchOf
  let bad := ps.find? fun p => p.ilk && p.poison
  let r : Option Raised :=
    match x.raised, bad with
    | some r, some p =>
      if causeClass r.cause = 2 then
        some
          { r with
            cause := .poison, eng := none, tw := false, grp := p.issuer, slot := 2, qseq := 0, code := 0, faddr := p.addr
            fva := p.fva, why := .none }
      else some r
    | none, some p => some ⟨.poison, x.clk, none, false, p.issuer, 2, 0, 0, p.addr, p.fva, none, none, .none⟩
    | r, none => r
  -- R376: inside a handler, the frame of the interrupted program is kept
  let o := if x.stat = .frozen then x.outer else x.outer.map fun o => { o with frame := x.frame }
  let x := { x with raised := r, outer := o }
  { x with
    stat := .frozen
    frozeAt := if x.stat = .frozen then x.frozeAt else x.clk
    frame := x.frameOf r ++ [(0x140, w64 ls.length)]
    latches := ls
    pend := x.pend.filter fun p => !x.latches? p }

/-- TAKING A CAUSE (R368 to R372): tile t records it under R369, freezes, and writes its frame; a cause that is fatal to
the context marks the context too (R380). A cause raised after the gang has been ended is not recorded (R379). -/
def State.raiseIn (s : State) (t : Nat) (r : Raised) : State :=
  let x := s.tile t
  let s := if s.killed t then s else s.setTile t (x.record r).freeze
  if causeClass r.cause = 0 then s.fatalCtx x.ctx r.cause r.fva ((s.ctx x.ctx).named x.task) else s

/-- Group g of tile t raised a cause in this cycle at its bundle, where it stays (R370). -/
def State.triedAt (s : State) (t g : Nat) : State := s.updTile t fun x => { x with tried := x.tried ++ [g] }

/-- A cause raised by the syllable of this step, as it executes or by the checks of R277: its group stays at the bundle, but
for a TRAP (R370). -/
def State.raiseWhy (s : State) (c : Cause) (fva : Nat) (code : Nat) (freg : Option (Nat × Bool)) (why : ProbeWhy) : State :=
  (if c = .trap then s else s.triedAt s.cur.tile s.cur.group).raiseIn s.cur.tile
    ⟨c, s.here.clk, none, false, s.cur.group, s.cur.slot, 0, code, s.cur.addr, fva, none, freg, why⟩

/-- A cause raised by the syllable of this step that is no failing probe or fetch. -/
def State.raiseSyl (s : State) (c : Cause) (fva : Nat) (code : Nat) (freg : Option (Nat × Bool)) : State :=
  s.raiseWhy c fva code freg .none

/-- A cause raised by the syllable of this step that says no more than its address. -/
def State.raise (s : State) (c : Cause) : State := s.raiseSyl c 0 0 none

/-- A cause raised with a failing address. -/
def State.raiseAt (s : State) (c : Cause) (fva : Nat) : State := s.raiseSyl c fva 0 none

/-- A cause raised by an engine of tile t for a command of group g with push number num (R369, R372); tw: by the
tile-walk engine. -/
def State.raiseEng (s : State) (t : Nat) (e : Eng) (tw : Bool) (g num : Nat) (c : Cause) (fva : Nat) (fq : Option (BitVec 5)) : State :=
  s.raiseIn t ⟨c, (s.tile t).clk, some e, tw, g, engSlot e, num, 0, 0, fva, fq, none, .none⟩

/-- THE RETURN (R375): latches become results in flight that land at b + d, in the order in which they were issued and
before every later result; the handler's own results land at their bounds. -/
def Tile.redeliver (x : Tile) (b : Nat) (ls : List Latch) : Tile :=
  let held := ls.map fun l => { l.p with due := b + l.d, born := 0, latch := true }
  { x with pend := held ++ x.pend.map fun p => { p with grp := 255 } }

/-- R375: every group issues its first bundle at its frame address in cycle b; the group of the cause at HRET where the
handler set it, instead of its SEQADDR (R372). A group that waited performs its waiting instruction first (R316): its wait
records stand (notes/assumptions/21.md). -/
def Tile.resumeAt (x : Tile) (b : Nat) (hret : Word) (fgroup : Nat) : Tile :=
  let again (w : WaitRec) : WaitRec := match w.w with
    | .waitf d off _ _ => { w with w := .waitf d off false none }
    | _ => w
  let gs := x.groups.map fun g => { g with nextIssue := b, ppStop := false, waits := g.waits.map again }
  let x := { x with groups := gs }
  let x :=
    if hret = 0 then
      -- R378: the bundle at which a breakpoint stopped issues once without matching
      if (mget 0 x.frame 0x100).toNat % 256 = 0x04 then x.updGroup fgroup fun g => { g with brkPass := true } else x
    else
      let a := (hret >>> 2) <<< 2
      let g := x.group fgroup
      let x := x.updSeqs g fun q => { q with addr := a }
      x.updGroup fgroup fun g => { g with goto := some a, opened := !g.waits.isEmpty }
  -- R376: a handler that resumes sees the frame of the interrupted program again
  let f := match x.outer with
    | some o => o.frame
    | none => x.frame
  { x with stat := .running, raised := none, frame := f }

/-- R115, R142: an acquire of a tile at CLUSTER scope or wider discards its L1. -/
def State.l1Clear (s : State) (t scope : Nat) : State :=
  if 1 ≤ scope then s.updTile t fun x => { x with l1 := [] } else s

/-- An acquire of a tile at a scope that reads w (R115, R139, R142). -/
def State.acquireAt (s : State) (t scope : Nat) (w : WordAt) : State := (s.l1Clear t scope).acquireFrom t scope w

/-- An acquire fence of a tile at a scope (R115, R143). -/
def State.acquireFence (s : State) (t scope : Nat) : State := (s.l1Clear t scope).tileAcquire t scope

/-! ## Results -/

/-- Whether group g may write a destination (R168, R282). -/
def Tile.mayWrite (x : Tile) (g : Nat) (d : Dest) : Bool :=
  x.lockstep ||
    (let q := x.group g
     match q.part with
     | none => true
     | some p =>
       match d with
       | .x r => r == 0 || (p.xFirst ≤ r.toNat && r.toNat ≤ p.xLast)
       | .c n => p.cFirst ≤ n.toNat && n.toNat ≤ p.cLast
       | .stg k => q.hasSlot (stgSlot (k / 16))
       | .csr _ => q.hasSlot 0)

/-- FREG of a destination (R372). -/
def Dest.freg (d : Dest) : Option (Nat × Bool) :=
  match d with
  | .x r => some (r.toNat, false)
  | .c n => some (n.toNat, true)
  | _ => none

/-- R168, R282: a syllable that writes outside its group's partition raises PARTITION and has no effect; else it has the
effect k. -/
def State.within (s : State) (ds : List Dest) (k : State → State) : State :=
  match ds.find? fun d => !s.here.mayWrite s.cur.group d with
  | some d => s.raiseSyl .partition 0 0 d.freg
  | none => k s

/-- A result of this step in flight with latency lat (R262): of a load or of another syllable, and of a CSR's value at the
end of the cycle (R290) or of the value v. -/
def State.resultAs (s : State) (d : Dest) (v : Word) (lat : Nat) (mem : Bool) (csr : Option Nat) : State :=
  if d = .x 0 then s
  else
    s.updHere fun x =>
      { x with
        pend := x.pend ++ [⟨d, v, x.clk + lat, x.clk, x.pseq, s.cur.group, false, false, false, 0, s.cur.addr, mem, csr⟩]
        pseq := x.pseq + 1 }

/-- A result of this step in flight with latency lat (R262). -/
def State.result (s : State) (d : Dest) (v : Word) (lat : Nat) : State := s.resultAs d v lat false none

/-- A load's result (R310, R313). -/
def State.loadResult (s : State) (d : Dest) (v : Word) (lat : Nat) : State := s.resultAs d v lat true none

/-- An interlocked result of this step (R264). -/
def State.ilkResult (s : State) (d : Dest) (v : Word) (poison : Bool) (fva : Nat) : State :=
  s.updHere fun x =>
    { x with pend := x.pend ++ [⟨d, v, x.clk, x.clk, x.pseq, s.cur.group, true, false, poison, fva, s.cur.addr, true, none⟩], pseq := x.pseq + 1 }

/-- A syllable that writes one `x` register (R262, R281, R282). -/
def State.writeX (s : State) (d : BitVec 7) (v : Word) (lat : Nat) : State :=
  s.within [.x d] fun s => s.result (.x d) v lat

/-- A syllable that writes one condition bit. -/
def State.writeC (s : State) (c : BitVec 5) (v : Bool) (lat : Nat) : State :=
  s.within [.c c] fun s => s.result (.c c) (w64 (b2n v)) lat

/-- The value put in its destination; `x0` takes none (R281). CSR writes take effect as their own steps say. -/
def Tile.put (x : Tile) (d : Dest) (v : Word) : Tile :=
  match d with
  | .x r => if r = 0 then x else { x with xs := mput x.xs r.toNat v }
  | .c n => { x with cs := if v.getLsbD 0 then x.cs ||| ((1 : BitVec 32) <<< n.toNat) else x.cs &&& ~~~((1 : BitVec 32) <<< n.toNat) }
  | .stg k => { x with stg := mput x.stg k v }
  | .csr n =>
    if n = 0x32 then { x with vmode := v.getLsbD 0 }
    else if n = 0x33 then { x with fmode := v.truncate 2 }
    else if n = 0x106 then { x with frame := mput x.frame 0x106 v }
    else if 1 ≤ n ∧ n ≤ 4 then { x with asp := mput x.asp (n - 1) (v.truncate 16) }
    else x

/-- Whether a result comes before another in the order of R263: its bound ends earlier, or it was issued earlier. -/
def Pend.before (p q : Pend) : Bool := p.due < q.due || (p.due == q.due && p.seq < q.seq)

/-- Whether a landing is that of an exposed result or a latch: every one but an interlocked result of this program and
the CSR writes that have steps of their own. -/
def Pend.timed (p : Pend) : Bool := (!p.ilk || p.latch) && p.dest != .csr 0x30 && p.dest != .csr 0x31

/-- The result of a list that comes first in an order. -/
def firstPend (l : List Pend) : Option Pend :=
  l.foldl (fun r p => match r with
    | none => some p
    | some q => if p.before q then some p else some q) none

/-- Whether two group numbers of records meet: 255 stands for every group. -/
def sameGrp (a b : Nat) : Bool := a == b || a == 255 || b == 255

/-- Whether a record is a write that has yet to be performed (R142). -/
def MemOp.writes (o : MemOp) : Bool := match o with
  | .st _ _ _ | .stc _ _ _ | .amo _ _ _ _ _ _ _ => true
  | _ => false

/-- The register that a waiting AMO will write (R264, R312). -/
def MemOp.amoDest (o : MemOp) : Option (BitVec 7) := match o with
  | .amo xd _ _ _ _ _ _ => some xd
  | _ => none

/-- Whether a write that group g issued before place ord has yet to be performed (R142). -/
def Tile.writesOut (x : Tile) (g ord : Nat) : Bool := x.mems.any fun w => w.op.writes && sameGrp w.grp g && w.seq < ord

/-- The latches of a tile, those of the program that a handler interrupts among them. -/
def Tile.allLatches (x : Tile) : List Latch := x.latches ++ (match x.outer with
  | some o => o.latches
  | none => [])

/-- The groups of a tile, those of the program that a handler interrupts among them. -/
def Tile.allGroups (x : Tile) : List Group := x.groups ++ (match x.outer with
  | some o => o.groups
  | none => [])

/-- Whether results or writes that group g issued before place ord are outstanding (R150), a result that waits in a latch
among them (R156). -/
def Tile.outBefore (x : Tile) (g ord : Nat) : Bool :=
  ((x.pend ++ x.allLatches.map Latch.p).any fun p => sameGrp p.grp g && p.seq < ord) || x.writesOut g ord

/-- R264: the registers that wait for an interlocked result. -/
def Tile.interlocked (x : Tile) (r : BitVec 7) : Bool :=
  (x.pend.any fun p => p.ilk && p.dest == .x r) || x.mems.any fun w => w.op.amoDest == some r

/-! ## Engine queues -/

/-- An event of R382: the watchdog starts anew. -/
def Tile.wdTouch (x : Tile) : Tile := { x with wdEvent := true }

/-- The REL flag of an engine command; a CPYR's fill and a QPUSH always release (R124, R147, R327). -/
def relOf (i : Instr) : Bool :=
  match i with
  | .cpyin _ _ r _ _ _ _ | .cpyout _ _ r _ _ _ _ | .cpyss _ _ r _ _ | .mcast _ _ r _ _ _ _ _ | .bind _ _ r _
  | .unbind _ _ r _ | .sadv _ _ r _ _ | .idxld _ _ r _ _ _ | .chain _ _ r _ _ _ _ _ | .vred _ _ r _ _ _ _
  | .vgath _ _ r _ _ _ | .vscat _ _ r _ _ _ _ | .vcvt _ _ r _ _ _ _ | .vqnt _ _ r _ _ _ | .vfill _ _ r _ _ _
  | .vtrn _ _ r _ _ _ | .mma _ _ r _ _ _ | .mmab _ _ r _ _ _ _ | .mz _ _ r _ | .dotk _ _ r _ _ _ | .dotv _ _ r _ _ _
  | .dots _ _ r _ _ _ | .dotx _ _ r _ _ _ | .azero _ _ r _ _ | .ard _ _ r _ _ _ _ | .awr _ _ r _ _ _
  | .aadd _ _ r _ _ _ | .amaxr _ _ r _ _ _ | .ascl _ _ r _ _ _ => r
  | .cpyr _ _ _ _ | .qpush _ _ _ _ => true
  | _ => false

/-- The ACQ flag of an engine command (R147, R317). -/
def acqOf (i : Instr) : Bool :=
  match i with
  | .cpyin _ a _ _ _ _ _ | .cpyout _ a _ _ _ _ _ | .cpyss _ a _ _ _ | .cpyr _ a _ _ | .mcast _ a _ _ _ _ _ _
  | .bind _ a _ _ | .unbind _ a _ _ | .sadv _ a _ _ _ | .idxld _ a _ _ _ _ | .qpush _ a _ _ | .send _ a _ _
  | .chain _ a _ _ _ _ _ _ | .vred _ a _ _ _ _ _ | .vgath _ a _ _ _ _ | .vscat _ a _ _ _ _ _ | .vcvt _ a _ _ _ _ _
  | .vqnt _ a _ _ _ _ | .vfill _ a _ _ _ _ | .vtrn _ a _ _ _ _ | .mma _ a _ _ _ _ | .mmab _ a _ _ _ _ _ | .mz _ a _ _
  | .dotk _ a _ _ _ _ | .dotv _ a _ _ _ _ | .dots _ a _ _ _ _ | .dotx _ a _ _ _ _ | .azero _ a _ _ _
  | .ard _ a _ _ _ _ _ | .awr _ a _ _ _ _ | .aadd _ a _ _ _ _ | .amaxr _ a _ _ _ _ | .ascl _ a _ _ _ _ => a
  | _ => false

/-- Whether a command comes after what has happened for its tile as it issues (R124, R147, R327). -/
def seesOf (i : Instr) : Bool :=
  acqOf i || (match i with
    | .cpyr _ _ _ _ | .qpush _ _ _ _ => true
    | _ => false)

/-- The push of a command to the queue of the engine of this step's slot (R176, R261): it takes the next number of its
group. A full queue holds the bundle back: step does not issue it (R266), and the push has no effect. -/
def State.push (s : State) (e : Eng) (i : Instr) (xs : List Word) (spc : BitVec 2) : State :=
  let sees := seesOf i
  let q := s.here.queue e
  if 16 ≤ q.q.length then s
  else
    let s := if sees then s.cmdSees s.cur.tile s.here.pseq else s
    let cmd : Cmd := ⟨i, s.readStgs e, xs, mget 0 s.here.asp spc.toNat, s.grp.pushSeq, s.cur.group, s.cur.scope, s.here.pseq, s.here.vmode⟩
    (s.updHere fun x => { x.setQueue e { q with q := q.q ++ [cmd] } with pseq := x.pseq + 1 }).updGrp fun g => { g with pushSeq := g.pushSeq + 1 }

/-- R121, R322: one more item pending on a tag, whose bit clears. -/
def Tile.tagAdd (x : Tile) (tag : Nat) : Tile :=
  { x with tcnt := mput x.tcnt tag (mget 0 x.tcnt tag + 1), tags := x.tags &&& ~~~((1 : Word) <<< tag) }

/-- R121: one item of a tag complete; at the last, the bit is set. -/
def Tile.tagDone (x : Tile) (tag : Nat) : Tile :=
  let n := mget 0 x.tcnt tag - 1
  let x := { x with tcnt := mput x.tcnt tag n }
  if n = 0 then { x with tags := x.tags ||| ((1 : Word) <<< tag) } else x

/-! ## Scratchpad -/

/-- A waiting instruction added to the group of this step. -/
def State.wait (s : State) (w : Wait) (i : Instr) : State :=
  let rec' : WaitRec := ⟨w, s.cur.slot, s.cur.scope, s.here.pseq, i⟩
  s.updGrp fun g => { g with waits := g.waits ++ [rec'] }

/-- R125, R313: a write of n bytes at a leaves every parked WAITF of a word that it touches woken with VALUE, if it leaves the
word full, or, if it leaves the word poisoned, no longer parked: its test then meets the poison. The operand buffer's entries of the spans written are discarded (R128). -/
def State.spadWrote (s : State) (t a n : Nat) : State :=
  let wake (w : WaitRec) : WaitRec :=
    match w.w with
    | .waitf d off true none =>
      let v := s.num (.spad t) off 8
      if !(a < off + 8 && off < a + n) then w
      else if s.poisoned (.spad t) off 8 then { w with w := .waitf d off false none }
      else if nbit v 63 then { w with w := .waitf d off true (some (w64 (v % 2 ^ 63))) }
      else w
    | _ => w
  let s := (s.updTile t fun x => { x with groups := x.groups.map fun g => { g with waits := g.waits.map wake } }).overwritten none
    (.spad t a (a + n))
  s.updCluster (t / 4) fun k => { k with opbuf := k.opbuf.filter fun e => !(e.1 == t % 4 && e.2 * 256 < a + n && a < e.2 * 256 + 256) }

/-- A span of scratchpad bytes that a bound stream owns (R71), with the size and the base of its elements. -/
structure Owned where
  base : Nat
  len : Nat
  unit : Nat
  deriving DecidableEq, Repr

/-- log2 of the element bytes of a format code, 0 for the narrow ones (R62). -/
def fmtBytes (f : Nat) : Nat :=
  match f with
  | 1 | 0x10 | 0x11 => 8
  | 2 | 0x0E | 0x0F => 4
  | 3 | 4 | 0x0C | 0x0D => 2
  | _ => 1

/-- Whether a format's elements are 4 bits wide (R62). -/
def nibble (fmt : Nat) : Bool := fmt = 8 || fmt = 9 || fmt = 0x18 || fmt = 0x1C || fmt = 0x1D

/-- The spans that a bound stream owns but for its indirect table (R71). -/
def Stream.owned (q : Stream) : List Owned :=
  let d (k : Nat) : Nat := (nth 0 q.desc k).toNat
  let fmt := bits (d 0) 3 6
  let kind := bits (d 0) 0 2
  let fbase := bits (d 1) 0 20
  let ndim := bits (d 0) 9 3
  let u := fmtBytes fmt
  let dims := (List.range (ndim + 1)).map fun k => (bits (d (6 + k)) 0 16, sgn 32 (bits (d (6 + k)) 32 32))
  let nib := nibble fmt
  let reach (pos : Bool) : Int :=
    (dims.map fun p => if (0 < p.2) == pos then ((p.1 : Int) - 1) * p.2 else 0).sum / (if nib then 2 else 1)
  let main : List Owned :=
    if kind = 1 then [⟨fbase, bits (d 1) 24 13 * 256, u⟩]
    else if kind = 0 then
      [⟨(fbase + reach false).toNat, (fbase + reach true + u).toNat - (fbase + reach false).toNat, u⟩]
    else []
  let blocks := (dims.map (·.1)).prod / (if fmt = 0x1C ∨ fmt = 0x1D then 4096 else 32)
  let recs := if kind = 1 then bits (d 1) 24 13 * 256 / (if fmt = 0x18 then 16 else if fmt = 0x19 then 32 else 2048) else blocks
  let side : List Owned := if 0x18 ≤ fmt && kind != 2 then [⟨bits (d 2) 0 20, recs * bits (d 2) 40 8, 1⟩] else []
  main ++ side

/-- Whether byte k is part of an owned element that a write of n bytes at a touches (R71). -/
def Owned.spoils (o : Owned) (a n k : Nat) : Bool :=
  let e := o.base + (k - o.base) / o.unit * o.unit
  o.base ≤ k && k < o.base + o.len && e < a + n && a < e + o.unit

/-- The first bytes of the elements of a region stream's pattern (R64, R65). -/
def Stream.regionBytes (q : Stream) : List Nat :=
  let d (k : Nat) : Nat := (nth 0 q.desc k).toNat
  let dims := (List.range (bits (d 0) 9 3 + 1)).map fun k => (bits (d (6 + k)) 0 16, sgn 32 (bits (d (6 + k)) 32 32))
  let nib := nibble (bits (d 0) 3 6)
  (List.range (dims.map (·.1)).prod).map fun n =>
    let off := (dims.foldl (fun (r : Int × Nat) p => (r.1 + ((r.2 % p.1 : Nat) : Int) * p.2, r.2 / p.1)) (0, n)).1
    if nib then ((bits (d 1) 0 20 * 2 + off) / 2).toNat else (bits (d 1) 0 20 + off).toNat

/-- R71: the bytes of a bound stream's elements that an ordinary write of n bytes at a touches: of a region, those of its
pattern's elements; of a FIFO, of packed elements; of a side area, the bytes themselves. -/
def Stream.spoiled (q : Stream) (a n : Nat) : List (Nat × Nat) :=
  let u := fmtBytes (bits (nth 0 q.desc 0).toNat 3 6)
  let os := q.owned.filter fun o => o.base < a + n && a < o.base + o.len
  if os.isEmpty then []
  else
    let grid (o : Owned) : List (Nat × Nat) :=
      ((List.range (n + 14)).map fun i => a + i - 7).filterMap fun k => if o.spoils a n k then some (k, k + 1) else none
    if bits (nth 0 q.desc 0).toNat 0 2 = 0 then
      (q.regionBytes.filterMap fun e => if e < a + n && a < e + u then some (e, e + u) else none).eraseDups ++
        (os.filter fun o => o.unit == 1 && some o != q.owned.head?).flatMap grid
    else os.flatMap grid

/-- R71: an ordinary write leaves the elements of a bound stream that it touches undefined for the rest of the binding. -/
def State.spoil (s : State) (t a n : Nat) : State :=
  (s.tile t).qs.foldl
    (fun s p =>
      match p.2.spoiled a n with
      | [] => s
      | rs =>
        let s := s.updTile t fun x => { x with qs := mput x.qs p.1 { p.2 with spoilt := p.2.spoilt ++ rs } }
        rs.foldl (fun s r => s.undefine (.spad t) r.1 (min r.2 (2 ^ 20) - r.1)) s) s

/-- The indirect table of a bound memory stream, if it has one: its base and its entries (R73). -/
def Stream.ixTab (q : Stream) : Nat × Nat :=
  let d (k : Nat) : Nat := (nth 0 q.desc k).toNat
  let idim := bits (d 0) 12 3
  if bits (d 0) 0 2 = 1 ∧ idim ≤ bits (d 0) 9 3 then (bits (d 2) 20 20, bits (d (6 + idim)) 0 16) else (0, 0)

/-- R73: the entries of bound streams' indirect tables that a write of n bytes at a is about to change keep their old
values beside the new. -/
def State.keepIx (s : State) (t a n : Nat) : State :=
  (s.tile t).qs.foldl
    (fun s p =>
      let b := p.2.ixTab
      let js := (List.range' ((a - b.1) / 4) (n / 4 + 2)).filter fun j => j < b.2 && b.1 + 4 * j < a + n && a < b.1 + 4 * j + 4
      if js.isEmpty then s
      else
        let old := js.map fun j => (j, s.num (.spad t) (b.1 + 4 * j) 4)
        s.updTile t fun x => { x with qs := mput x.qs p.1 { p.2 with ixOld := p.2.ixOld ++ old } }) s

/-- A write of a stream or an engine to a tile's scratchpad or accumulators, or to any other location, with its
wake-ups. -/
def State.storeRaw (s : State) (l : Loc) (a : Nat) (bs : List (Byte × Bool)) (asid : Nat) : State :=
  match l with
  | .spad t => (s.writeP l a bs asid).spadWrote t a bs.length
  | _ => s.writeP l a bs asid

/-- An ordinary write: in bytes that a bound stream owns it leaves undefined elements (R71), or entries of an indirect table
that read as before or as written (R73). -/
def State.store (s : State) (l : Loc) (a : Nat) (bs : List (Byte × Bool)) (asid : Nat) : State :=
  match l with
  | .spad t => ((s.keepIx t a bs.length).storeRaw l a bs asid).spoil t a bs.length
  | _ => s.storeRaw l a bs asid

/-- The two pieces of a scratchpad access that wraps (R309). -/
def wrapLen (a n : Nat) : Nat := if a + n ≤ 2 ^ 20 then n else 2 ^ 20 - a

/-- A slot-L scratchpad read of n bytes at a (R309). -/
def State.spadRead (s : State) (t a n : Nat) : List (Byte × Bool) :=
  let k := wrapLen a n
  s.bytesP (.spad t) a k ++ s.bytesP (.spad t) 0 (n - k)

/-- A slot-L scratchpad write (R309). -/
def State.spadWrite (s : State) (t a : Nat) (bs : List (Byte × Bool)) : State :=
  let k := wrapLen a bs.length
  let c := (s.tile t).ctx
  let s := s.store (.spad t) a (bs.take k) c
  if bs.length ≤ k then s else s.store (.spad t) 0 (bs.drop k) c

/-- The bank of a scratchpad offset (R113). -/
def spadBank (a : Nat) : Nat := a / 2 ^ 17 % 8 * 4 + a / 64 % 4

/-- The banks that the n bytes from a on touch (R113), by 64-byte rows. -/
def banksOf (a n : Nat) : List Nat :=
  ((List.range ((a % 64 + n + 63) / 64)).map fun k => spadBank ((a / 64 + k) * 64 % 2 ^ 20)).eraseDups

/-- R112: an access to a bank in retention begins its exit, and SPRET's bit reads 0 from then on; that of a bank entering
retention follows when the bank has entered it. -/
def Tile.leaveBank (x : Tile) (b : Nat) : Tile :=
  match mget .active x.ret b with
  | .entering till => { x with ret := mput x.ret b (.leaving (till + 1536)) }
  | .retained => { x with ret := mput x.ret b (.leaving (x.clk + 1536)), spret := x.spret &&& ~~~((1 : BitVec 32) <<< b) }
  | _ => x

/-- SPRET as it reads (R112, R293): without the banks whose exit has begun. -/
def Tile.spretNow (x : Tile) : BitVec 32 :=
  x.ret.foldl (fun v p => match p.2 with
    | .leaving till => if till ≤ x.clk + 1536 then v &&& ~~~((1 : BitVec 32) <<< p.1) else v
    | _ => v) x.spret

/-- Whether an access to n bytes of a tile's scratchpad at a waits for a bank (R112): the first such bank. -/
def Tile.bankHeld (x : Tile) (a n : Nat) : Option Nat :=
  if x.ret.isEmpty || n == 0 then none else (banksOf a n).find? fun b => mget .active x.ret b != .active

/-- R112 for an access to n bytes of tile t's scratchpad at a that is tried again in each cycle: it is made when no bank of them
is in retention, and begins the exit of the first that is. -/
def State.bankWait (s : State) (t a n : Nat) (k : State → State) : State :=
  match (s.tile t).bankHeld a n with
  | some b => s.updTile t fun x => x.leaveBank b
  | none => k s

/-- The cycle until which an access to a bank stalls (R112). -/
def Tile.bankTill (x : Tile) (b : Nat) : Nat :=
  match mget .active x.ret b with
  | .leaving till => till
  | _ => 0

/-- R112 for a slot-L access: the group issues its next bundle after the banks have left retention. -/
def State.touchBanks (s : State) (a n : Nat) : State :=
  let bs := banksOf a n
  if s.here.ret.isEmpty then s
  else
    let s := s.updHere fun x => bs.foldl Tile.leaveBank x
    let till := (bs.map s.here.bankTill).foldl max 0
    s.updGrp fun g => { g with nextIssue := max g.nextIssue till }

/-! ## Iteration qualifiers -/

/-- R173: whether a qualifier holds at level IQLEV of the bundle. -/
def State.qualified (s : State) (q : BitVec 2) : Bool :=
  if q = 0 then true
  else
    match (s.here.seq s.cur.slot).loops[s.cur.iqlev]? with
    | none => false
    | some l => if q = 1 then l.rem == l.full else if q = 2 then l.rem == 1 else l.rem != l.full && l.rem != 1

/-- A syllable of this step: its effect when its qualifier holds, none otherwise (R173). -/
def State.syl (s : State) (q : BitVec 2) (k : State → State) : Out := .next (if s.qualified q then k s else s)

end Sys2Proof.Machine
end

