-- ==== Sys2Proof/Machine/Operands.lean ====
section
/-! DEFINITION. What the syllables of a bundle read and write, as the checks of R258 and R259 and the stalls of R266 need
it; and the operand forms of the integer, slot-L and slot-D syllables: immediates, addresses (R296, R309 to R311). -/
namespace Sys2Proof.Machine

/-- The destinations of a syllable (R259, R282). -/
def dests (i : Instr) : List Dest :=
  match i with
  | .sub _ d _ _ => [.x d]
  | .mul _ d _ _ => [.x d]
  | .and _ d _ _ => [.x d]
  | .or _ d _ _ => [.x d]
  | .xor _ d _ _ => [.x d]
  | .andn _ d _ _ => [.x d]
  | .shl _ d _ _ => [.x d]
  | .shr _ d _ _ => [.x d]
  | .sra _ d _ _ => [.x d]
  | .rotr _ d _ _ => [.x d]
  | .min _ d _ _ => [.x d]
  | .max _ d _ _ => [.x d]
  | .minu _ d _ _ => [.x d]
  | .maxu _ d _ _ => [.x d]
  | .add _ d _ _ => [.x d]
  | .subLong _ d _ _ => [.x d]
  | .mulLong _ d _ _ => [.x d]
  | .andLong _ d _ _ => [.x d]
  | .orLong _ d _ _ => [.x d]
  | .xorLong _ d _ _ => [.x d]
  | .andnLong _ d _ _ => [.x d]
  | .shlLong _ d _ _ => [.x d]
  | .shrLong _ d _ _ => [.x d]
  | .sraLong _ d _ _ => [.x d]
  | .rotrLong _ d _ _ => [.x d]
  | .minLong _ d _ _ => [.x d]
  | .maxLong _ d _ _ => [.x d]
  | .minuLong _ d _ _ => [.x d]
  | .maxuLong _ d _ _ => [.x d]
  | .addLong _ d _ _ => [.x d]
  | .mulh _ d _ _ _ => [.x d]
  | .madd _ d _ _ => [.x d]
  | .cmp _ c _ _ _ => [.c c]
  | .cmpLong _ c _ _ _ => [.c c]
  | .sel _ d _ _ _ => [.x d]
  | .li _ d _ => [.x d]
  | .liLong _ d _ => [.x d]
  | .liHi _ d _ => [.x d]
  | .addi _ d _ _ => [.x d]
  | .addiLong _ d _ _ => [.x d]
  | .ext _ d _ _ => [.x d]
  | .ins _ d _ _ => [.x d]
  | .popc _ d _ => [.x d]
  | .clz _ d _ => [.x d]
  | .hashb _ d _ _ => [.x d]
  | .stgr _ _ _ d => [.x d]
  | .fadd _ d _ _ _ => [.x d]
  | .fsub _ d _ _ _ => [.x d]
  | .fmul _ d _ _ _ => [.x d]
  | .fdiv _ d _ _ _ => [.x d]
  | .fmin _ d _ _ _ => [.x d]
  | .fmax _ d _ _ _ => [.x d]
  | .fma _ d _ _ _ => [.x d]
  | .fcmp _ c _ _ _ _ => [.c c]
  | .fcvt _ d _ _ _ _ => [.x d]
  | .fabs _ d _ _ => [.x d]
  | .fneg _ d _ _ => [.x d]
  | .frcp _ d _ _ => [.x d]
  | .frsq _ d _ _ => [.x d]
  | .fexp2 _ d _ _ => [.x d]
  | .flog2 _ d _ _ => [.x d]
  | .fsqrt _ d _ _ _ => [.x d]
  | .fclass _ d _ _ => [.x d]
  | .csrr _ x _ => [.x x]
  | .getid _ d _ => [.x d]
  | .setc _ c => [.c c]
  | .clrc _ c => [.c c]
  | .ldB _ d _ _ _ _ => [.x d]
  | .ldBLong _ d _ _ _ _ => [.x d]
  | .ldH _ d _ _ _ _ => [.x d]
  | .ldHLong _ d _ _ _ _ => [.x d]
  | .ldW _ d _ _ _ _ => [.x d]
  | .ldWLong _ d _ _ _ _ => [.x d]
  | .ldD _ d _ _ _ => [.x d]
  | .ldDLong _ d _ _ _ => [.x d]
  | .ldc _ d _ _ _ _ _ => [.x d]
  | .ldcLong _ d _ _ _ _ _ _ => [.x d]
  | .waitf _ d _ => [.x d]
  | .flagtest _ d _ c _ => [.x d, .c c]
  | .ffrt _ d _ _ => [.x d]
  | .dsig _ d => [.x d]
  | .call _ _ => [.x 127]
  | .rget _ d _ => [.x d, .x (d + 1)]
  | .amo _ xdp _ _ _ _ _ _ => [.x (BitVec.ofNat 7 (2 * xdp.toNat))]
  | .stg _ e n _ => [.stg (stgKey e.toNat n.toNat)]
  | .stgi _ e n _ => [.stg (stgKey e.toNat n.toNat)]
  | .stgl _ e n _ => [.stg (stgKey e.toNat n.toNat)]
  | .csrw _ _ n => [.csr n.toNat]
  | _ => []

/-- The `x` registers that a syllable reads (R259). -/
def sources (i : Instr) : List (BitVec 7) :=
  match i with
  | .sub _ _ a b => [a, b]
  | .mul _ _ a b => [a, b]
  | .and _ _ a b => [a, b]
  | .or _ _ a b => [a, b]
  | .xor _ _ a b => [a, b]
  | .andn _ _ a b => [a, b]
  | .shl _ _ a b => [a, b]
  | .shr _ _ a b => [a, b]
  | .sra _ _ a b => [a, b]
  | .rotr _ _ a b => [a, b]
  | .min _ _ a b => [a, b]
  | .max _ _ a b => [a, b]
  | .minu _ _ a b => [a, b]
  | .maxu _ _ a b => [a, b]
  | .add _ _ a b => [a, b]
  | .subLong _ _ a _ => [a]
  | .mulLong _ _ a _ => [a]
  | .andLong _ _ a _ => [a]
  | .orLong _ _ a _ => [a]
  | .xorLong _ _ a _ => [a]
  | .andnLong _ _ a _ => [a]
  | .shlLong _ _ a _ => [a]
  | .shrLong _ _ a _ => [a]
  | .sraLong _ _ a _ => [a]
  | .rotrLong _ _ a _ => [a]
  | .minLong _ _ a _ => [a]
  | .maxLong _ _ a _ => [a]
  | .minuLong _ _ a _ => [a]
  | .maxuLong _ _ a _ => [a]
  | .addLong _ _ a _ => [a]
  | .mulh _ _ a b _ => [a, b]
  | .madd _ d a b => [d, a, b]
  | .cmp _ _ a b _ => [a, b]
  | .cmpLong _ _ a _ _ => [a]
  | .sel _ d a _ _ => [d, a]
  | .liHi _ d _ => [d]
  | .addi _ _ a _ => [a]
  | .addiLong _ _ a _ => [a]
  | .ext _ _ a b => [a, b]
  | .ins _ d a b => [d, a, b]
  | .popc _ _ a => [a]
  | .clz _ _ a => [a]
  | .hashb _ _ a b => [a, b]
  | .stg _ _ _ a => [a]
  | .fadd _ _ a b _ => [a, b]
  | .fsub _ _ a b _ => [a, b]
  | .fmul _ _ a b _ => [a, b]
  | .fdiv _ _ a b _ => [a, b]
  | .fmin _ _ a b _ => [a, b]
  | .fmax _ _ a b _ => [a, b]
  | .fma _ d a b _ => [d, a, b]
  | .fcmp _ _ a b _ _ => [a, b]
  | .fcvt _ _ a _ _ _ => [a]
  | .fabs _ _ a _ => [a]
  | .fneg _ _ a _ => [a]
  | .frcp _ _ a _ => [a]
  | .frsq _ _ a _ => [a]
  | .fexp2 _ _ a _ => [a]
  | .flog2 _ _ a _ => [a]
  | .fsqrt _ _ a _ _ => [a]
  | .fclass _ _ a _ => [a]
  | .brx _ a => [a]
  | .loop _ _ a _ _ _ => [a]
  | .csrw _ x _ => [x]
  | .ldB _ _ a _ _ _ => [a]
  | .ldBLong _ _ a _ _ _ => [a]
  | .stB _ xs a _ _ => [xs, a]
  | .stBLong _ xs a _ _ => [xs, a]
  | .ldH _ _ a _ _ _ => [a]
  | .ldHLong _ _ a _ _ _ => [a]
  | .stH _ xs a _ _ => [xs, a]
  | .stHLong _ xs a _ _ => [xs, a]
  | .ldW _ _ a _ _ _ => [a]
  | .ldWLong _ _ a _ _ _ => [a]
  | .stW _ xs a _ _ => [xs, a]
  | .stWLong _ xs a _ _ => [xs, a]
  | .ldD _ _ a _ _ => [a]
  | .ldDLong _ _ a _ _ => [a]
  | .stD _ xs a _ _ => [xs, a]
  | .stDLong _ xs a _ _ => [xs, a]
  | .ldc _ _ a _ _ _ _ => [a]
  | .ldcLong _ _ a _ _ _ _ _ => [a]
  | .stc _ xs a _ _ _ => [xs, a]
  | .stcLong _ xs a _ _ _ _ => [xs, a]
  | .flagset _ a b => [a, b]
  | .waitf _ _ a => [a]
  | .flagtest _ _ a _ _ => [a]
  | .probe _ a b _ _ => [a, b]
  | .pref _ a b _ _ => [a, b]
  | .waitta _ a => [a]
  | .waittl _ a => [a]
  | .ffrt _ _ a _ => [a]
  | .tagclr _ a => [a]
  | .qpush _ _ xq xs => [xq, xs]
  | .qpop _ xq xs => [xq, xs]
  | .dwaitReg _ _ x => [x]
  | .azero _ _ _ _ xp => [xp]
  | .ard _ _ _ _ _ xp _ => [xp]
  | .awr _ _ _ _ _ xp => [xp]
  | .aadd _ _ _ _ _ xp => [xp]
  | .amaxr _ _ _ _ _ xp => [xp]
  | .ascl _ _ _ _ _ xp => [xp]
  | .ret _ => [127]
  | .rget _ _ a => [a]
  | .amo _ xdp a op _ _ _ _ =>
    [BitVec.ofNat 7 (2 * xdp.toNat), a] ++ (if op = 7 then [BitVec.ofNat 7 (2 * xdp.toNat + 1)] else [])
  | _ => []
/-- The slots in which a syllable is legal, bit s = slot s (R258). -/
def slotMask (i : Instr) : BitVec 8 :=
  match i with
  | .nop _ | .loop _ _ _ _ _ _ | .brkl _ _ _ _ _ | .join _ _ _ | .halt _ | .setc _ _ | .clrc _ _ | .waitc _ _ _
  | .preemptpt _ => 0xFF
  | .br _ _ | .brc _ _ _ _ | .brx _ _ | .ret _ | .call _ _ | .fork _ _ | .exit _ | .trap _ _ | .eret _ => 0x01
  | .csrr _ _ _ | .csrw _ _ _ | .getid _ _ _ | .rget _ _ _ | .stg _ _ _ _ | .stgi _ _ _ _ | .stgr _ _ _ _
  | .stgl _ _ _ _ => 0x03
  | .fadd _ _ _ _ _ | .fsub _ _ _ _ _ | .fmul _ _ _ _ _ | .fma _ _ _ _ _ | .fmin _ _ _ _ _ | .fmax _ _ _ _ _
  | .fcmp _ _ _ _ _ _ | .fcvt _ _ _ _ _ _ | .fabs _ _ _ _ | .fneg _ _ _ _ | .frcp _ _ _ _ | .frsq _ _ _ _
  | .fexp2 _ _ _ _ | .flog2 _ _ _ _ | .fdiv _ _ _ _ _ | .fsqrt _ _ _ _ _ | .fclass _ _ _ _ => 0x02
  | .hashb _ _ _ _ | .ldB _ _ _ _ _ _ | .ldH _ _ _ _ _ _ | .ldW _ _ _ _ _ _ | .ldD _ _ _ _ _
  | .ldBLong _ _ _ _ _ _ | .ldHLong _ _ _ _ _ _ | .ldWLong _ _ _ _ _ _ | .ldDLong _ _ _ _ _
  | .stB _ _ _ _ _ | .stH _ _ _ _ _ | .stW _ _ _ _ _ | .stD _ _ _ _ _
  | .stBLong _ _ _ _ _ | .stHLong _ _ _ _ _ | .stWLong _ _ _ _ _ | .stDLong _ _ _ _ _
  | .ldc _ _ _ _ _ _ _ | .ldcLong _ _ _ _ _ _ _ _ | .stc _ _ _ _ _ _ | .stcLong _ _ _ _ _ _ _
  | .amo _ _ _ _ _ _ _ _ | .flagset _ _ _ | .waitf _ _ _ | .flagtest _ _ _ _ _ | .probe _ _ _ _ _ | .pref _ _ _ _ _
  | .fence _ _ => 0x04
  | .cpyin _ _ _ _ _ _ _ | .cpyout _ _ _ _ _ _ _ | .cpyss _ _ _ _ _ | .cpyr _ _ _ _ | .mcast _ _ _ _ _ _ _ _
  | .bind _ _ _ _ | .unbind _ _ _ _ | .sadv _ _ _ _ _ | .idxld _ _ _ _ _ _ | .waitta _ _ | .waittl _ _
  | .ffrt _ _ _ _ | .tagclr _ _ | .qpush _ _ _ _ | .qpop _ _ _ | .send _ _ _ _ | .recv _ => 0x08
  | .dsig _ _ | .dwaitDist _ _ _ | .dwaitReg _ _ _ => 0xF8
  | .chain _ _ _ _ _ _ _ _ | .vred _ _ _ _ _ _ _ | .vgath _ _ _ _ _ _ | .vscat _ _ _ _ _ _ _ | .vcvt _ _ _ _ _ _ _
  | .vqnt _ _ _ _ _ _ | .vfill _ _ _ _ _ _ | .vtrn _ _ _ _ _ _ => 0x10
  | .lease _ | .rels _ | .mma _ _ _ _ _ _ | .mmab _ _ _ _ _ _ _ | .mz _ _ _ _ => 0x20
  | .dotk _ _ _ _ _ _ | .dotv _ _ _ _ _ _ | .dots _ _ _ _ _ _ | .dotx _ _ _ _ _ _ => 0x40
  | .azero _ _ _ _ _ | .ard _ _ _ _ _ _ _ | .awr _ _ _ _ _ _ | .aadd _ _ _ _ _ _ | .amaxr _ _ _ _ _ _
  | .ascl _ _ _ _ _ _ => 0x80
  | _ => 0x07

/-- The syllables of which a bundle holds at most one (R259). -/
def seqClass (i : Instr) : Bool :=
  match i with
  | .br _ _ | .brc _ _ _ _ | .brx _ _ | .ret _ | .call _ _ | .loop _ _ _ _ _ _ | .brkl _ _ _ _ _ | .fork _ _
  | .join _ _ _ | .halt _ | .exit _ | .trap _ _ | .eret _ => true
  | _ => false

/-- The accumulator bank that a syllable accesses (R335). -/
def bankOf (i : Instr) : Option (BitVec 4) :=
  match i with
  | .mma _ _ _ _ _ b | .mmab _ _ _ _ _ b _ | .mz _ _ _ b | .azero _ _ _ b _ | .ard _ _ _ b _ _ _ | .awr _ _ _ b _ _
  | .aadd _ _ _ b _ _ | .amaxr _ _ _ b _ _ | .ascl _ _ _ b _ _ => some b
  | _ => none

/-- Whether a syllable is pushed to its engine's queue (R261, R272 to R276). -/
def queued (i : Instr) : Bool :=
  match i with
  | .waitta _ _ | .waittl _ _ | .ffrt _ _ _ _ | .qpop _ _ _ | .recv _ | .lease _ => false
  | i => slotMask i &&& 0x07 == 0

/-- The tag of a syllable that carries TAGV = 1 (R317, R324, R329). -/
def tagOf (i : Instr) : Option (BitVec 6) :=
  match i with
  | .cpyin _ _ _ v t _ _ | .cpyout _ _ _ v t _ _ | .mcast _ _ _ v t _ _ _ => if v then some t else none
  | .cpyss _ _ _ v t | .cpyr _ _ v t | .idxld _ _ _ v t _ | .send _ _ v t => if v then some t else none
  | _ => none

/-- The SPC of a slot-D command that forms a memory address (R11, R320, R324). -/
def spcOf (i : Instr) : BitVec 2 :=
  match i with
  | .cpyin _ _ _ _ _ _ p | .cpyout _ _ _ _ _ _ p | .mcast _ _ _ _ _ _ p _ | .idxld _ _ _ _ _ p => p
  | _ => 0

/-- A memory syllable of R315: any of opcodes 0x40 to 0x4F, and any engine command with ACQ or REL set. -/
def memSyl (i : Instr) : Bool :=
  (slotMask i == 0x04 && (match i with
    | .hashb _ _ _ _ => false
    | _ => true)) ||
    (queued i && (acqOf i || (match i with
      | .cpyr _ _ _ _ | .qpush _ _ _ _ => false
      | i => relOf i)))

/-! ## What orders a group's accesses -/

/-- Whether a stream is an output stream to memory (R64). -/
def Stream.toMem (q : Stream) : Bool := let d := (nth 0 q.desc 0).toNat; bits d 0 2 == 1 && nbit d 2

/-- Whether a command with REL that group g issued before place ord, at scope S or narrower, is not complete (R147, R148):
in an engine's queue, among the copies, or a bound output stream that has not drained. A command counts to the group that
holds its engine's slot; a user handler is the party that it interrupts (R156). -/
def Tile.relPending (x : Tile) (g ord scope : Nat) : Bool :=
  let mine (e : Eng) : Bool := x.outer.isSome || sameGrp (x.groupOf (engSlot e)) g
  let old (c : Cmd) : Bool := c.ord < ord && relOf c.i && c.scope ≤ scope
  ([.D, .V, .M, .K, .A].any fun e => mine e && (x.queue e).q.any old) ||
    (mine .D && (x.copyQ.any (fun c => c.task == x.task && old c.cmd) ||
      x.qs.any fun p => p.2.rel && p.2.scope ≤ scope && p.2.toMem && !p.2.wdone))

/-- Whether a SETC of group g at place ord has yet to be seen by other groups (R147, R150): a result or a write that its group
issued before it is outstanding, or an earlier REL command is not complete. -/
def Tile.setcWaits (x : Tile) (g ord : Nat) : Bool := x.outBefore g ord || x.relPending g ord 0

/-- R150: a SETC is seen by other groups from the cycle after the last of its group's earlier results has landed, its
earlier writes have been performed and its earlier REL commands are complete (R147). -/
def Tile.settleSetcs (x : Tile) : Tile :=
  { x with
    setcs := x.setcs.map fun r => if r.vis.isNone && !x.setcWaits r.grp r.seq then { r with vis := some (x.clk + 1) } else r }

/-- A tile with a result in flight landed. -/
def Tile.landPend (x : Tile) (p : Pend) : Tile :=
  (({ x with pend := x.pend.erase p } : Tile).put p.dest p.val).settleSetcs

/-- Whether a load, an LDC or an AMO that group g issued before place ord has not returned (R142, R143). -/
def Tile.loadsOut (x : Tile) (g ord : Nat) : Bool :=
  (x.pend.any fun p => p.mem && sameGrp p.grp g && p.seq < ord) ||
    x.mems.any fun w => w.op.amoDest.isSome && sameGrp w.grp g && w.seq < ord

/-- Whether what a record waits for has come (R143, R315): for an acquire, every earlier load; for a release fence, every
earlier write and REL command; for a full fence, both. -/
def Tile.memDone (x : Tile) (w : MemWait) : Bool :=
  match w.op with
  | .acq | .gate => !x.loadsOut w.grp w.seq
  | .rel => !x.writesOut w.grp w.seq && !x.relPending w.grp w.seq w.scope
  | .full | .tot => !x.loadsOut w.grp w.seq && !x.writesOut w.grp w.seq && !x.relPending w.grp w.seq w.scope
  | _ => false

/-- Whether a waiting write may be performed (R142, R143): every earlier one of its group has been, no fence before it stands,
and, for a release, its group's earlier REL commands are complete (R147). -/
def Tile.memReady (x : Tile) (w : MemWait) : Bool :=
  !(x.mems.any fun v => sameGrp v.grp w.grp && v.seq < w.seq) && !(w.rl && x.relPending w.grp w.seq w.scope)

/-- A record of this step's syllable (R142, R143). -/
def State.memRecord (s : State) (op : MemOp) (rl : Bool) : MemWait :=
  ⟨op, s.cur.group, s.cur.scope, rl, s.here.pseq, s.cur.slot, s.cur.addr⟩

/-- A record kept. -/
def State.keepMem (s : State) (w : MemWait) : State := s.updHere fun x => { x with mems := x.mems ++ [w], pseq := x.pseq + 1 }

/-- What a fence or an acquire holds back from now on, unless nothing is outstanding (R142, R143). -/
def State.memGate (s : State) (op : MemOp) : State :=
  let w := s.memRecord op false
  if s.here.memDone w then s else s.keepMem w

/-- Whether a write of this step's syllable waits (R142, R143): for its group's earlier writes and release fences, and, as a
release, for its group's REL commands. -/
def State.defers (s : State) (rl : Bool) : Bool := !s.here.memReady (s.memRecord .full rl)

/-- The immediate of a long form, sign-extended (R296, R310). -/
def immOf (i : BitVec 32) : Word := i.signExtend 64

/-- A scratchpad address: the low 20 bits of a 64-bit sum (R309). -/
def spadAddr (v : Word) : Nat := v.toNat % 2 ^ 20

/-- The scratchpad address of a short load or store of s bytes (R310). -/
def shortAddr (base : Word) (off : BitVec 6) (size : Nat) : Nat := spadAddr (base + off.signExtend 64 * w64 size)

/-- The address of a bundle-relative offset in 4-byte units (R281). -/
def pcRel {n : Nat} (pc : Word) (off : BitVec n) : Word := pc + off.signExtend 64 * 4

end Sys2Proof.Machine
end

