-- ==== Sys2Proof/Machine/Flags.lean ====
section
/-! DEFINITION. What condition bits record: the predicates of CMP (R298), FCMP's on an ordering (R304), the condition of
BRC, WAITC, SEL and BRKL with its NEG bit. -/
namespace Sys2Proof.Machine

/-- R298: whether a predicate of CMP holds. -/
def cmpHolds (p : BitVec 3) (a b : Word) : Bool :=
  match p.toNat with
  | 0 => a == b
  | 1 => a != b
  | 2 => a.slt b
  | 3 => !a.slt b
  | 4 => a.ult b
  | 5 => !a.ult b
  | 6 => a &&& b != 0
  | _ => a &&& b == 0

/-- A condition bit XOR NEG (R283, R286, R288, R298). -/
def condHolds (c neg : Bool) : Bool := c != neg

/-- R304: whether a predicate of FCMP holds for an ordering of its operands; none: one of them is a NaN. -/
def fcmpHolds (r : BitVec 2) (o : Option Ordering) : Bool :=
  match o with
  | none => r == 3
  | some o =>
    match r.toNat with
    | 0 => o == .eq
    | 1 => o == .lt
    | 2 => o != .gt
    | _ => o != .eq

end Sys2Proof.Machine
end

