-- ==== Sys2Proof/Machine/Float.lean ====
section
/-! DEFINITION. Numbers (R201 to R215): floating formats, exact values, rounding, NaN causes, the functions that are
correctly rounded, conversion to and from integers. An exact value is sign × m × 2^e; `st` says that the true value lies
strictly between m and m + 1 units, which only values of many bits carry. -/
namespace Sys2Proof.Machine

/-- An exact value (R210). -/
inductive Val where
  | nan (cause : Nat)
  | inf (neg : Bool)
  | fin (neg : Bool) (m : Nat) (e : Int) (st : Bool)
  deriving DecidableEq, Repr

/-- A floating format (R201): fraction bits, exponent of the smallest normal, the largest finite code, the infinity's
code, the code of a NaN of cause 0, whether NaNs carry a payload, width in bits. -/
structure Fmt where
  m : Nat
  emin : Int
  max : Nat
  inf : Option Nat
  nan : Nat
  payload : Bool
  width : Nat
  deriving DecidableEq, Repr

def fp64 : Fmt := ⟨52, -1022, 0x7FEFFFFFFFFFFFFF, some 0x7FF0000000000000, 0x7FF8000000000000, true, 64⟩
def fp32 : Fmt := ⟨23, -126, 0x7F7FFFFF, some 0x7F800000, 0x7FC00000, true, 32⟩
def fp16 : Fmt := ⟨10, -14, 0x7BFF, some 0x7C00, 0x7E00, true, 16⟩
def bf16 : Fmt := ⟨7, -126, 0x7F7F, some 0x7F80, 0x7FC0, true, 16⟩
def e5m2 : Fmt := ⟨2, -14, 0x7B, some 0x7C, 0x7E, false, 8⟩
def e4m3 : Fmt := ⟨3, -6, 0x7E, none, 0x7F, false, 8⟩
/-- E2M1 without its spare code (R205). -/
def e2m1 : Fmt := ⟨1, 0, 7, none, 0, false, 4⟩

/-- Rounding modes (R209). -/
inductive RMode where
  | rne | rz | ru | rd | sr
  deriving DecidableEq, Repr

/-- The mode of an RM code (R209). -/
def rmode (n : Nat) : RMode :=
  match n with
  | 0 => .rne
  | 1 => .rz
  | 2 => .ru
  | 3 => .rd
  | _ => .sr

/-- The zero of a sign. -/
def Val.zero (neg : Bool) : Val := .fin neg 0 0 false

def Val.isNaN (v : Val) : Bool := match v with
  | .nan _ => true
  | _ => false

def Val.isInf (v : Val) : Bool := match v with
  | .inf _ => true
  | _ => false

def Val.isZero (v : Val) : Bool := match v with
  | .fin _ m _ st => m == 0 && !st
  | _ => false

def Val.neg (v : Val) : Bool := match v with
  | .nan _ => false
  | .inf n => n
  | .fin n _ _ _ => n

/-- A value with its sign replaced; a NaN stays. -/
def Val.withSign (v : Val) (n : Bool) : Val := match v with
  | .nan c => .nan c
  | .inf _ => .inf n
  | .fin _ m e st => .fin n m e st

/-- An integer as a value. -/
def Val.ofInt (i : Int) : Val := .fin (i < 0) i.natAbs 0 false

/-- A value times a power of two, exactly. -/
def Val.scale (v : Val) (k : Int) : Val := match v with
  | .fin n m e st => .fin n m (e + k) st
  | v => v

/-! ## Codes -/

/-- The cause that the NaN code c of a format carries (R214); `sign`: its sign bit. -/
def Fmt.carried (f : Fmt) (sign : Bool) (c : Nat) : Nat :=
  if f.payload && !sign && f.nan < c && c ≤ f.nan + 6 then c - f.nan else 1

/-- Whether the code c without its sign is a NaN. -/
def Fmt.isNaNCode (f : Fmt) (c : Nat) : Bool := match f.inf with
  | some i => i < c
  | none => f.nan != 0 && c == f.nan

/-- The value of a code (R201). -/
def Fmt.val (f : Fmt) (code : Nat) : Val :=
  let sign := nbit code (f.width - 1)
  let c := code % 2 ^ (f.width - 1)
  if f.isNaNCode c then .nan (f.carried sign c)
  else if f.inf == some c then .inf sign
  else if c < 2 ^ f.m then .fin sign c (f.emin - f.m) false
  else .fin sign (c % 2 ^ f.m + 2 ^ f.m) ((c / 2 ^ f.m : Nat) - 1 + f.emin - f.m) false

/-- A code with its sign. -/
def Fmt.signed (f : Fmt) (neg : Bool) (c : Nat) : Nat := c + b2n neg * 2 ^ (f.width - 1)

/-- The NaN of a cause (R213). -/
def Fmt.nanCode (f : Fmt) (cause : Nat) : Nat := if f.payload then f.nan + cause else f.nan

/-- Whether a mode rounds a magnitude up: n its whole part, rem / 2^k the rest, st more than that (R210, R211). -/
def roundsUp (mode : RMode) (neg : Bool) (n rem k : Nat) (st : Bool) (draw : Nat) : Bool :=
  let inexact := rem != 0 || st
  match mode with
  | .rne => 2 ^ k < 2 * rem || (2 * rem == 2 ^ k && (st || n % 2 == 1))
  | .rz => false
  | .ru => inexact && !neg
  | .rd => inexact && neg
  | .sr => draw * 2 ^ k < rem * 2 ^ 32 || (draw * 2 ^ k == rem * 2 ^ 32 && st)

/-- m × 2^e rounded to a whole number of units 2^u. -/
def roundUnits (mode : RMode) (neg : Bool) (m : Nat) (e u : Int) (st : Bool) (draw : Nat) : Nat :=
  if u ≤ e then m * 2 ^ (e - u).toNat
  else
    let k := (u - e).toNat
    let n := m / 2 ^ k
    n + b2n (roundsUp mode neg n (m % 2 ^ k) k st draw)

/-- R210: a value rounded to a format; `ftz`: results below the smallest normal become zeros (R212); `draw`: what
sr_draw gave where the mode is SR. -/
def Fmt.round (f : Fmt) (mode : RMode) (ftz : Bool) (draw : Nat) (v : Val) : Nat :=
  match v with
  | .nan c => f.nanCode c
  | .inf neg =>
    match f.inf with
    | some i => f.signed neg i
    | none => if f.nan = 0 then f.signed neg f.max else f.nan
  | .fin neg m e st =>
    if m = 0 ∧ !st then f.signed neg 0
    else
      let ee : Int := Max.max ((Nat.log2 m : Int) + e) f.emin
      let n := roundUnits mode neg m e (ee - f.m) st draw
      let c := (ee - f.emin).toNat * 2 ^ f.m + n
      let c :=
        if f.max < c then
          match f.inf with
          | none => f.max
          | some i =>
            if mode = .rne || (mode = .ru && !neg) || (mode = .rd && neg) then i else f.max
        else if ftz && c < 2 ^ f.m then 0
        else c
      f.signed neg c

/-- A value rounded to a format and read again. -/
def Fmt.toVal (f : Fmt) (mode : RMode) (ftz : Bool) (draw : Nat) (v : Val) : Val :=
  match v with
  | .nan c => .nan c
  | v => f.val (f.round mode ftz draw v)

/-- A value with a subnormal of the format flushed to a zero of its sign (R212). -/
def Fmt.flush (f : Fmt) (v : Val) : Val :=
  match v with
  | .fin neg m e _ => if m != 0 && (Nat.log2 m : Int) + e < f.emin then .zero neg else v
  | v => v

/-! ## Exact arithmetic -/

/-- The signed whole number of m × 2^e in units of 2^u, u ≤ e. -/
def unitsOf (neg : Bool) (m : Nat) (e u : Int) : Int :=
  let k : Int := (m * 2 ^ (e - u).toNat : Nat)
  if neg then -k else k

/-- The sum of two finite values; a zero sum is −0 if both are negative, or, unless both zeros are positive, in RD. -/
def addFin (mode : RMode) (n1 : Bool) (m1 : Nat) (e1 : Int) (s1 : Bool) (n2 : Bool) (m2 : Nat) (e2 : Int) (s2 : Bool) : Val :=
  let u := min e1 e2
  let a := unitsOf n1 m1 e1 u
  let b := unitsOf n2 m2 e2 u
  let c := a + b
  if c = 0 ∧ !s1 ∧ !s2 then .zero (if n1 == n2 then n1 else mode == .rd)
  else .fin (c < 0) c.natAbs u (s1 || s2)

/-- The first cause carried by a list of values (R214 rule 3). -/
def firstNaN : List Val → Option Nat
  | [] => none
  | .nan c :: _ => some c
  | _ :: l => firstNaN l

/-- a + b, exactly, with R214's causes; `mode` decides the sign of an exact zero. -/
def Val.add (mode : RMode) (a b : Val) : Val :=
  match a, b with
  | .nan c, _ => .nan c
  | _, .nan c => .nan c
  | .inf p, .inf q => if p = q then .inf p else .nan 3
  | .inf p, _ => .inf p
  | _, .inf q => .inf q
  | .fin n1 m1 e1 s1, .fin n2 m2 e2 s2 => addFin mode n1 m1 e1 s1 n2 m2 e2 s2

/-- −a; a NaN stays. -/
def Val.negate (a : Val) : Val := match a with
  | .nan c => .nan c
  | .inf n => .inf !n
  | .fin n m e st => .fin (!n) m e st

/-- a × b, exactly. -/
def Val.mul (a b : Val) : Val :=
  match a, b with
  | .nan c, _ => .nan c
  | _, .nan c => .nan c
  | .inf p, b => if b.isZero then .nan 4 else .inf (p != b.neg)
  | a, .inf q => if a.isZero then .nan 4 else .inf (a.neg != q)
  | .fin n1 m1 e1 s1, .fin n2 m2 e2 s2 => .fin (n1 != n2) (m1 * m2) (e1 + e2) (s1 || s2)

/-- a × b + c with the addend's NaN first (R214 rule 1). -/
def Val.fma (mode : RMode) (a b c : Val) : Val :=
  match c with
  | .nan k => .nan k
  | c => (a.mul b).add mode c

/-- a ÷ b (R303). -/
def Val.div (a b : Val) : Val :=
  match a, b with
  | .nan c, _ => .nan c
  | _, .nan c => .nan c
  | .inf _, .inf _ => .nan 6
  | .inf p, b => .inf (p != b.neg)
  | a, .inf q => .zero (a.neg != q)
  | .fin n1 m1 e1 _, .fin n2 m2 e2 _ =>
    if m2 = 0 then (if m1 = 0 then .nan 6 else .inf (n1 != n2))
    else if m1 = 0 then .zero (n1 != n2)
    else
      let k := 128 + Nat.log2 m2
      let x := m1 * 2 ^ k
      .fin (n1 != n2) (x / m2) (e1 - e2 - k) (x % m2 != 0)

/-- The whole square root, bit by bit from bit k down. -/
def isqrtFrom (x : Nat) : Nat → Nat → Nat
  | 0, r => if (r + 1) * (r + 1) ≤ x then r + 1 else r
  | k + 1, r =>
    let t := r + 2 ^ (k + 1)
    isqrtFrom x k (if t * t ≤ x then t else r)

/-- ⌊√x⌋. -/
def isqrt (x : Nat) : Nat := isqrtFrom x (Nat.log2 x / 2) 0

/-- √a (R303): −0 gives −0, a value below zero a NaN of cause 110. -/
def Val.sqrt (a : Val) : Val :=
  match a with
  | .nan c => .nan c
  | .inf neg => if neg then .nan 6 else .inf false
  | .fin neg m e _ =>
    if m = 0 then .zero neg
    else if neg then .nan 6
    else
      let odd := e % 2 != 0
      let x := m * 2 ^ (256 + b2n odd)
      let r := isqrt x
      .fin false r ((e - b2n odd) / 2 - 128) (r * r != x)

/-- 1 ÷ a (R305). -/
def Val.rcp (a : Val) : Val :=
  match a with
  | .inf neg => .zero neg
  | a => Val.div (.fin false 1 0 false) a

/-- 1 ÷ √a (R305). -/
def Val.rsqrt (a : Val) : Val :=
  match a with
  | .nan c => .nan c
  | .inf neg => if neg then .nan 6 else .zero false
  | .fin neg m e _ =>
    if m = 0 then .inf neg
    else if neg then .nan 6
    else
      let odd := e % 2 != 0
      let mm := m * 2 ^ b2n odd
      let k := 128 + Nat.log2 mm
      let r := isqrt (2 ^ (2 * k) / mm)
      .fin false r (-((e - b2n odd) / 2) - k) (r * r * mm != 2 ^ (2 * k))

/-- ln 2 × 2^320. -/
def ln2Fix : Nat := 0xb17217f7d1cf79abc9e3b39803f2f6af40f343267298b62d8a0d175b8baafa2be7b876206debac98

/-- The sum of the terms of exp of z ÷ 2^320 from term k with the term t on. -/
def expTerms (z : Nat) : Nat → Nat → Nat → Nat
  | 0, _, _ => 0
  | f + 1, k, t => t + expTerms z f (k + 1) (t * z / 2 ^ 320 / k)

/-- 2^a (R305). -/
def Val.exp2 (a : Val) : Val :=
  match a with
  | .nan c => .nan c
  | .inf neg => if neg then .zero false else .inf false
  | .fin neg m e _ =>
    if m = 0 then .fin false 1 0 false
    else if 13 ≤ (Nat.log2 m : Int) + e then .fin false 1 (if neg then -9000 else 9000) neg
    else if (Nat.log2 m : Int) + e < -200 then
      (if neg then .fin false (2 ^ 320 - 1) (-320) true else .fin false (2 ^ 320) (-320) true)
    else
      -- |a| × 2^320, exact for every format of R201
      let xm : Nat := if 0 ≤ e + 320 then m * 2 ^ (e + 320).toNat else m / 2 ^ (-(e + 320)).toNat
      let x : Int := xm
      let x := if neg then -x else x
      let i := x / 2 ^ 320
      let f := (x % 2 ^ 320).toNat
      if f = 0 then .fin false 1 i false
      else .fin false (expTerms (f * ln2Fix / 2 ^ 320) 90 1 (2 ^ 320)) (i - 320) true

/-- The sum of y^(2j + 1) ÷ (2j + 1) in units of 2^−320 from power p on. -/
def atanhTerms (y2 : Nat) : Nat → Nat → Nat → Nat
  | 0, _, _ => 0
  | f + 1, k, p => p / k + atanhTerms y2 f (k + 2) (p * y2 / 2 ^ 320)

/-- log2 a (R305). -/
def Val.log2 (a : Val) : Val :=
  match a with
  | .nan c => .nan c
  | .inf neg => if neg then .nan 6 else .inf false
  | .fin neg m e _ =>
    if m = 0 then .inf true
    else if neg then .nan 6
    else
      let l := Nat.log2 m
      let i : Int := l + e
      if m = 2 ^ l then .ofInt i
      else
        let y : Nat := (m - 2 ^ l) * 2 ^ 320 / (m + 2 ^ l)
        let ln : Nat := 2 * atanhTerms (y * y / 2 ^ 320) 110 1 y
        let g : Nat := ln * 2 ^ 320 / ln2Fix
        let v : Int := i * 2 ^ 320 + g
        -- the units are truncated: below zero the true value lies nearer to zero by less than one unit
        if 0 ≤ v then .fin false v.toNat (-320) true else .fin true ((-v).toNat - 1) (-320) true

/-! ## Comparison -/

/-- The order of two values, −0 = +0; none: one is a NaN (R214, R304). -/
def Val.cmp (a b : Val) : Option Ordering :=
  match a, b with
  | .nan _, _ => none
  | _, .nan _ => none
  | .inf p, .inf q => some (if p = q then .eq else if p then .lt else .gt)
  | .inf p, _ => some (if p then .lt else .gt)
  | _, .inf q => some (if q then .gt else .lt)
  | .fin n1 m1 e1 _, .fin n2 m2 e2 _ =>
    let u := min e1 e2
    some (compare (unitsOf n1 m1 e1 u) (unitsOf n2 m2 e2 u))

/-- The order with −0 below +0 (R214, R304). -/
def Val.cmpZ (a b : Val) : Option Ordering :=
  match a.cmp b with
  | some .eq => some (if a.neg == b.neg then .eq else if a.neg then .lt else .gt)
  | o => o

/-- The lesser, or the greater, of two values; a NaN under R214. -/
def Val.minmax (greater : Bool) (a b : Val) : Val :=
  match a, b with
  | .nan c, _ => .nan c
  | _, .nan c => .nan c
  | a, b => if (a.cmpZ b == some .gt) == greater then a else b

/-! ## Integers (R203) -/

/-- A finite value rounded to a whole number. -/
def roundInt (mode : RMode) (neg : Bool) (m : Nat) (e : Int) (st : Bool) (draw : Nat) : Int :=
  let k : Int := (roundUnits mode neg m e 0 st draw : Nat)
  if neg then -k else k

/-- R203: a value rounded and saturated to the range lo to hi. -/
def Val.toInt (v : Val) (mode : RMode) (lo hi : Int) (draw : Nat) : Int :=
  match v with
  | .nan _ => 0
  | .inf neg => if neg then lo else hi
  | .fin neg m e st => max lo (min hi (roundInt mode neg m e st draw))

/-- An integral value near a value (R341: FLOOR, CEIL, RINT), the sign of a zero result that of the operand. -/
def Val.integral (v : Val) (mode : RMode) : Val :=
  match v with
  | .fin neg m e st => .fin neg (roundUnits mode neg m e 0 st 0) 0 false
  | v => v

/-- R211: one draw of the generator: the next state, which is the draw. -/
def srNext (s : BitVec 32) : BitVec 32 :=
  let s := s ^^^ (s <<< 13)
  let s := s ^^^ (s >>> 17)
  s ^^^ (s <<< 5)

/-- R221: the block hash of a list of tokens. -/
def hashb (prev : Word) (tok : List Nat) : Word :=
  let h := tok.foldl (fun h t => (h ^^^ w64 t) * 0x000001_00000001B3) prev
  h ^^^ (h >>> 29)

end Sys2Proof.Machine
end

