-- ==== Sys2Proof/Machine/Integer.lean ====
section
/-! DEFINITION. The integer and address instructions, opcodes 0x10 to 0x2B (R296 to R301). -/
namespace Sys2Proof.Machine

/-! ## What they compute -/

/-- The high 64 bits of a product (R297). -/
def mulHigh (uns : Bool) (a b : Word) : Word :=
  if uns then w64 (a.toNat * b.toNat / 2 ^ 64) else i64 (a.toInt * b.toInt / 2 ^ 64)

/-- A shift amount: B[5:0] (R297). -/
def shAmt (b : Word) : Nat := b.toNat % 64

def minS (a b : Word) : Word := if a.slt b then a else b
def maxS (a b : Word) : Word := if a.slt b then b else a
def minU (a b : Word) : Word := if a.ult b then a else b
def maxU (a b : Word) : Word := if a.ult b then b else a

/-- The number of 1 bits (R297). -/
def popCount (a : Word) : Nat := ((List.range 64).filter fun k => a.getLsbD k).length

/-- The number of leading zero bits, 64 for 0 (R297). -/
def leadingZeros (a : Word) : Nat := if a = 0 then 64 else 63 - Nat.log2 a.toNat

/-- LSB, W and SX of a field word (R299). -/
def fieldLsb (f : Word) : Nat := f.toNat % 64
def fieldW (f : Word) : Nat := f.toNat / 64 % 64 + 1
def fieldSX (f : Word) : Bool := f.getLsbD 12

/-- The low W bits set. -/
def lowMask (n : Nat) : Word := w64 (2 ^ n - 1)

/-- EXT (R299). -/
def extField (a f : Word) : Word :=
  let m := lowMask (fieldW f)
  let v := (a >>> fieldLsb f) &&& m
  if fieldSX f && fieldLsb f + fieldW f ≤ 64 && v.getLsbD (fieldW f - 1) then v ||| ~~~m else v

/-- INS (R299). -/
def insField (d a f : Word) : Word :=
  let m := lowMask (fieldW f) <<< fieldLsb f
  (d &&& ~~~m) ||| ((a <<< fieldLsb f) &&& m)

/-! ## The instructions -/

/-- ADD (R297). -/
def execAdd (q : BitVec 2) (d a b : BitVec 7) (s : State) : Out :=
  s.syl q fun s => s.writeX d (s.readX a + s.readX b) 1

/-- ADD, long form (R296). -/
def execAddLong (q : BitVec 2) (d a : BitVec 7) (imm : BitVec 32) (s : State) : Out :=
  s.syl q fun s => s.writeX d (s.readX a + immOf imm) 1

/-- SUB (R297). -/
def execSub (q : BitVec 2) (d a b : BitVec 7) (s : State) : Out :=
  s.syl q fun s => s.writeX d (s.readX a - s.readX b) 1

/-- SUB, long form (R296). -/
def execSubLong (q : BitVec 2) (d a : BitVec 7) (imm : BitVec 32) (s : State) : Out :=
  s.syl q fun s => s.writeX d (s.readX a - immOf imm) 1

/-- MUL (R297). -/
def execMul (q : BitVec 2) (d a b : BitVec 7) (s : State) : Out :=
  s.syl q fun s => s.writeX d (s.readX a * s.readX b) 3

/-- MUL, long form (R296). -/
def execMulLong (q : BitVec 2) (d a : BitVec 7) (imm : BitVec 32) (s : State) : Out :=
  s.syl q fun s => s.writeX d (s.readX a * immOf imm) 3

/-- AND (R297). -/
def execAnd (q : BitVec 2) (d a b : BitVec 7) (s : State) : Out :=
  s.syl q fun s => s.writeX d (s.readX a &&& s.readX b) 1

/-- AND, long form (R296). -/
def execAndLong (q : BitVec 2) (d a : BitVec 7) (imm : BitVec 32) (s : State) : Out :=
  s.syl q fun s => s.writeX d (s.readX a &&& immOf imm) 1

/-- OR (R297). -/
def execOr (q : BitVec 2) (d a b : BitVec 7) (s : State) : Out :=
  s.syl q fun s => s.writeX d (s.readX a ||| s.readX b) 1

/-- OR, long form (R296). -/
def execOrLong (q : BitVec 2) (d a : BitVec 7) (imm : BitVec 32) (s : State) : Out :=
  s.syl q fun s => s.writeX d (s.readX a ||| immOf imm) 1

/-- XOR (R297). -/
def execXor (q : BitVec 2) (d a b : BitVec 7) (s : State) : Out :=
  s.syl q fun s => s.writeX d (s.readX a ^^^ s.readX b) 1

/-- XOR, long form (R296). -/
def execXorLong (q : BitVec 2) (d a : BitVec 7) (imm : BitVec 32) (s : State) : Out :=
  s.syl q fun s => s.writeX d (s.readX a ^^^ immOf imm) 1

/-- ANDN (R297). -/
def execAndn (q : BitVec 2) (d a b : BitVec 7) (s : State) : Out :=
  s.syl q fun s => s.writeX d (s.readX a &&& ~~~(s.readX b)) 1

/-- ANDN, long form (R296). -/
def execAndnLong (q : BitVec 2) (d a : BitVec 7) (imm : BitVec 32) (s : State) : Out :=
  s.syl q fun s => s.writeX d (s.readX a &&& ~~~(immOf imm)) 1

/-- SHL (R297). -/
def execShl (q : BitVec 2) (d a b : BitVec 7) (s : State) : Out :=
  s.syl q fun s => s.writeX d (s.readX a <<< shAmt (s.readX b)) 1

/-- SHL, long form (R296). -/
def execShlLong (q : BitVec 2) (d a : BitVec 7) (imm : BitVec 32) (s : State) : Out :=
  s.syl q fun s => s.writeX d (s.readX a <<< shAmt (immOf imm)) 1

/-- SHR (R297). -/
def execShr (q : BitVec 2) (d a b : BitVec 7) (s : State) : Out :=
  s.syl q fun s => s.writeX d (s.readX a >>> shAmt (s.readX b)) 1

/-- SHR, long form (R296). -/
def execShrLong (q : BitVec 2) (d a : BitVec 7) (imm : BitVec 32) (s : State) : Out :=
  s.syl q fun s => s.writeX d (s.readX a >>> shAmt (immOf imm)) 1

/-- SRA (R297). -/
def execSra (q : BitVec 2) (d a b : BitVec 7) (s : State) : Out :=
  s.syl q fun s => s.writeX d ((s.readX a).sshiftRight (shAmt (s.readX b))) 1

/-- SRA, long form (R296). -/
def execSraLong (q : BitVec 2) (d a : BitVec 7) (imm : BitVec 32) (s : State) : Out :=
  s.syl q fun s => s.writeX d ((s.readX a).sshiftRight (shAmt (immOf imm))) 1

/-- ROTR (R297). -/
def execRotr (q : BitVec 2) (d a b : BitVec 7) (s : State) : Out :=
  s.syl q fun s => s.writeX d ((s.readX a).rotateRight (shAmt (s.readX b))) 1

/-- ROTR, long form (R296). -/
def execRotrLong (q : BitVec 2) (d a : BitVec 7) (imm : BitVec 32) (s : State) : Out :=
  s.syl q fun s => s.writeX d ((s.readX a).rotateRight (shAmt (immOf imm))) 1

/-- MIN (R297). -/
def execMin (q : BitVec 2) (d a b : BitVec 7) (s : State) : Out :=
  s.syl q fun s => s.writeX d (minS (s.readX a) (s.readX b)) 1

/-- MIN, long form (R296). -/
def execMinLong (q : BitVec 2) (d a : BitVec 7) (imm : BitVec 32) (s : State) : Out :=
  s.syl q fun s => s.writeX d (minS (s.readX a) (immOf imm)) 1

/-- MAX (R297). -/
def execMax (q : BitVec 2) (d a b : BitVec 7) (s : State) : Out :=
  s.syl q fun s => s.writeX d (maxS (s.readX a) (s.readX b)) 1

/-- MAX, long form (R296). -/
def execMaxLong (q : BitVec 2) (d a : BitVec 7) (imm : BitVec 32) (s : State) : Out :=
  s.syl q fun s => s.writeX d (maxS (s.readX a) (immOf imm)) 1

/-- MINU (R297). -/
def execMinu (q : BitVec 2) (d a b : BitVec 7) (s : State) : Out :=
  s.syl q fun s => s.writeX d (minU (s.readX a) (s.readX b)) 1

/-- MINU, long form (R296). -/
def execMinuLong (q : BitVec 2) (d a : BitVec 7) (imm : BitVec 32) (s : State) : Out :=
  s.syl q fun s => s.writeX d (minU (s.readX a) (immOf imm)) 1

/-- MAXU (R297). -/
def execMaxu (q : BitVec 2) (d a b : BitVec 7) (s : State) : Out :=
  s.syl q fun s => s.writeX d (maxU (s.readX a) (s.readX b)) 1

/-- MAXU, long form (R296). -/
def execMaxuLong (q : BitVec 2) (d a : BitVec 7) (imm : BitVec 32) (s : State) : Out :=
  s.syl q fun s => s.writeX d (maxU (s.readX a) (immOf imm)) 1

/-- MULH (R297). -/
def execMulh (q : BitVec 2) (d a b : BitVec 7) (uns : Bool) (s : State) : Out :=
  s.syl q fun s => s.writeX d (mulHigh uns (s.readX a) (s.readX b)) 3

/-- MADD (R297). -/
def execMadd (q : BitVec 2) (d a b : BitVec 7) (s : State) : Out :=
  s.syl q fun s => s.writeX d (s.readX d + s.readX a * s.readX b) 3

/-- CMP (R298). -/
def execCmp (q : BitVec 2) (c : BitVec 5) (a b : BitVec 7) (p : BitVec 3) (s : State) : Out :=
  s.syl q fun s => s.writeC c (cmpHolds p (s.readX a) (s.readX b)) 1

/-- CMP, long form (R296, R298). -/
def execCmpLong (q : BitVec 2) (c : BitVec 5) (a : BitVec 7) (p : BitVec 3) (imm : BitVec 32) (s : State) : Out :=
  s.syl q fun s => s.writeC c (cmpHolds p (s.readX a) (immOf imm)) 1

/-- SEL (R298). -/
def execSel (q : BitVec 2) (d a : BitVec 7) (c : BitVec 5) (neg : Bool) (s : State) : Out :=
  s.syl q fun s => s.writeX d (if condHolds (s.readC c) neg then s.readX a else s.readX d) 1

/-- LI (R297). -/
def execLi (q : BitVec 2) (d : BitVec 7) (imm : BitVec 15) (s : State) : Out :=
  s.syl q fun s => s.writeX d (imm.signExtend 64) 1

/-- LI, long form with HI = 0 (R297). -/
def execLiLong (q : BitVec 2) (d : BitVec 7) (imm : BitVec 32) (s : State) : Out :=
  s.syl q fun s => s.writeX d (immOf imm) 1

/-- LI, long form with HI = 1 (R297). -/
def execLiHi (q : BitVec 2) (d : BitVec 7) (imm : BitVec 32) (s : State) : Out :=
  s.syl q fun s => s.writeX d ((imm.zeroExtend 64 <<< 32) + (s.readX d &&& 0xFFFFFFFF)) 1

/-- ADDI (R297). -/
def execAddi (q : BitVec 2) (d a : BitVec 7) (imm : BitVec 8) (s : State) : Out :=
  s.syl q fun s => s.writeX d (s.readX a + imm.signExtend 64) 1

/-- ADDI, long form (R297). -/
def execAddiLong (q : BitVec 2) (d a : BitVec 7) (imm : BitVec 32) (s : State) : Out :=
  s.syl q fun s => s.writeX d (s.readX a + immOf imm) 1

/-- EXT (R299). -/
def execExt (q : BitVec 2) (d a b : BitVec 7) (s : State) : Out :=
  s.syl q fun s => s.writeX d (extField (s.readX a) (s.readX b)) 1

/-- INS (R299). -/
def execIns (q : BitVec 2) (d a b : BitVec 7) (s : State) : Out :=
  s.syl q fun s => s.writeX d (insField (s.readX d) (s.readX a) (s.readX b)) 1

/-- POPC (R297). -/
def execPopc (q : BitVec 2) (d a : BitVec 7) (s : State) : Out :=
  s.syl q fun s => s.writeX d (w64 (popCount (s.readX a))) 1

/-- CLZ (R297). -/
def execClz (q : BitVec 2) (d a : BitVec 7) (s : State) : Out :=
  s.syl q fun s => s.writeX d (w64 (leadingZeros (s.readX a))) 1

/-- A consumption of poison by tile t (R109): a record of KIND 4. -/
def State.consumed (s : State) (l : Loc) (a asid : Nat) : State := s.logErr 4 (s.unitOf l a) asid (s.locAddr l a)

/-- HASHB (R300). -/
def execHashb (q : BitVec 2) (d a b : BitVec 7) (s : State) : Out :=
  s.syl q fun s =>
    s.within [.x d] fun s =>
      let off := spadAddr (s.readX b)
      if off % 64 ≠ 0 then s.raiseAt .align off
      else
        let s := s.touchBanks off 64
        let l : Loc := .spad s.cur.tile
        if s.poisoned l off 64 then (s.consumed l off s.here.ctx).raiseAt .poison off
        else s.result (.x d) (hashb (s.readX a) ((leWords (s.bytes l off 64)).map BitVec.toNat)) 12

/-- STG (R301). -/
def execStg (q e : BitVec 2) (n : BitVec 4) (a : BitVec 7) (s : State) : Out :=
  s.syl q fun s =>
    let d : Dest := .stg (stgKey e.toNat n.toNat)
    s.within [d] fun s => s.result d (s.readX a) 1

/-- STGI (R301). -/
def execStgi (q e : BitVec 2) (n : BitVec 4) (imm : BitVec 32) (s : State) : Out :=
  s.syl q fun s =>
    let d : Dest := .stg (stgKey e.toNat n.toNat)
    s.within [d] fun s => s.result d (immOf imm) 1

/-- STGL (R301). -/
def execStgl (q e : BitVec 2) (n : BitVec 4) (imm : BitVec 32) (s : State) : Out :=
  s.syl q fun s =>
    let d : Dest := .stg (stgKey e.toNat n.toNat)
    s.within [d] fun s =>
      s.result d ((imm.zeroExtend 64 <<< 32) + (s.readStg e.toNat n.toNat &&& 0xFFFFFFFF)) 1

/-- STGR (R301). -/
def execStgr (q e : BitVec 2) (n : BitVec 4) (d : BitVec 7) (s : State) : Out :=
  s.syl q fun s => s.writeX d (s.readStg e.toNat n.toNat) 1

end Sys2Proof.Machine
end

