-- ==== Sys2Proof/Machine/Control.lean ====
section
/-! DEFINITION. Sequencer and control, opcodes 0x00 to 0x0F (R283 to R295), the move to the next bundle (R285), FORK and
JOIN (R166 to R169), CSR reads and writes (R290 to R293), and the end of an instance's program (R170). -/
namespace Sys2Proof.Machine

/-! ## Where a bundle sends its group -/

/-- The group of this step goes to an address after its bundle (R283). -/
def State.goTo (s : State) (a : Word) : State := s.updGrp fun g => { g with goto := some a }

/-- The bundle that follows this step's bundle. -/
def State.nextBundle (s : State) : Word := s.cur.addr + w64 s.cur.len

/-- A target in a register (R283): one that is not 4-byte aligned raises ALIGN and is not taken. -/
def State.goToReg (s : State) (a : Word) : State :=
  if a.toNat % 4 ≠ 0 then s.raiseAt .align a.toNat else s.goTo a

/-- NOP (R268). -/
def execNop (q : BitVec 2) (s : State) : Out := s.syl q fun s => s

/-- BR (R283). -/
def execBr (q : BitVec 2) (off : BitVec 22) (s : State) : Out := s.syl q fun s => s.goTo (pcRel s.cur.addr off)

/-- BRC (R283). -/
def execBrc (q : BitVec 2) (c : BitVec 5) (neg : Bool) (off : BitVec 16) (s : State) : Out :=
  s.syl q fun s => if condHolds (s.readC c) neg then s.goTo (pcRel s.cur.addr off) else s

/-- BRX (R283). -/
def execBrx (q : BitVec 2) (a : BitVec 7) (s : State) : Out := s.syl q fun s => s.goToReg (s.readX a)

/-- RET (R283). -/
def execRet (q : BitVec 2) (s : State) : Out := s.syl q fun s => s.goToReg (s.readX 127)

/-- CALL (R283). -/
def execCall (q : BitVec 2) (off : BitVec 22) (s : State) : Out :=
  s.syl q fun s =>
    s.within [.x 127] fun s => (s.result (.x 127) s.nextBundle 1).goTo (pcRel s.cur.addr off)

/-! ## Code reads -/

/-- The VA of a code-space offset for a tile (R12). -/
def State.codeVA (s : State) (t : Nat) (a : Word) : VA := ⟨(s.tile t).csp, a⟩

/-- A line in a tile's instruction cache, of 2,048 lines (R3); of a full one a line gives way, number `pick`
(notes/assumptions/71.md). One with poison is not kept. -/
def Tile.icFill (x : Tile) (va pick : Nat) (bs : List (Byte × Bool)) : Tile :=
  let old := x.icache.filter fun l => !(l.asid == x.ctx && l.va == va)
  if bs.any Prod.snd then { x with icache := old }
  else { x with icache := evictFor 2048 (fun _ => true) (fun _ => true) pick old ++ [⟨x.ctx, va, x.clk, bs.map Prod.fst⟩] }

/-- One 64-byte line of code by its offset (R54): it must translate; a line in the instruction cache that has been written since
is taken as its old or its new contents, whole (R153). -/
def State.icLine (s : State) (t : Nat) (a : Word) : State × Except (Tr × Nat) (List (Byte × Bool)) :=
  let x := s.tile t
  let va := (s.codeVA t a).toNat
  match s.translateAll x.ctx (some t) (tileDie t) .x false [⟨va, 64⟩] with
  | (s, .error e) => (s, .error e)
  | (s, .ok gs) =>
    let cur := s.segBytes gs
    let fill (s : State) : State := s.updTile t fun x => x.icFill va (s.free (740 + t)).toNat cur
    match x.icache.find? fun l => l.asid == x.ctx && l.va == va with
    | none => (fill (s.countSegs x.ctx gs), .ok cur)
    | some l =>
      let old := l.bytes.map fun b => (b, false)
      if old == cur then (s, .ok cur)
      else if (s.free 739).getLsbD 0 then (s, .ok old)
      else (fill (s.countSegs x.ctx gs), .ok cur)

/-- The lines of code from an offset on. -/
def State.icLines (t : Nat) : Nat → Word → State → State × Except (Tr × Nat) (List (Byte × Bool))
  | 0, _, s => (s, .ok [])
  | k + 1, a, s =>
    match s.icLine t a with
    | (s, .error e) => (s, .error e)
    | (s, .ok b) =>
      match State.icLines t k (a + 64) s with
      | (s, .error e) => (s, .error e)
      | (s, .ok r) => (s, .ok (b ++ r))

/-- A read through the instruction path (R54, R257): the bytes, or the outcome and the failing VA. -/
def State.codeRead (s : State) (t : Nat) (a : Word) (n : Nat) : State × Except (Tr × Nat) (List (Byte × Bool)) :=
  let o := a.toNat % 64
  match State.icLines t ((o + n + 63) / 64) (a - w64 o) s with
  | (s, .error e) => (s, .error e)
  | (s, .ok b) => (s, .ok ((b.drop o).take n))

/-- The cause of a failing instruction read (R12, R50): FETCH, or ACCESS outside the device-private space and for a
malformed entry. -/
def fetchCause (o : Tr) (va : Nat) : Cause :=
  if va < 2 ^ 64 then .access
  else
    match o with
    | .malformed | .notOwned => .access
    | _ => .fetch

/-- Why a probe or a fetch that did not find a page resident failed (R377). -/
def Tr.why (o : Tr) : ProbeWhy :=
  match o with
  | .far _ => .far
  | _ => .unmapped

/-- The number of bits set in a byte-wide field. -/
def popcount8 (n : Nat) : Nat := ((List.range 8).filter (nbit n)).length

/-- The length of a bundle by its header (R252). -/
def bundleLen (h : Nat) : Nat := 4 * (1 + popcount8 (bits h 23 8) + popcount8 (bits h 15 8))

/-- The line of a VA (R54). -/
def lineOf (va : Nat) : Nat := va / 64 * 64

/-- R316: a LOOP, BRKL or FORK that raised FETCH is pending and is performed again. -/
def State.fetchPending (s : State) (i : Instr) (o : Tr) (va : Nat) : State :=
  (s.wait .again i).raiseWhy (fetchCause o va) (lineOf va) 0 none o.why

/-- after_body of a body's last bundle (R284): the address past it by its header, read through the instruction path. -/
def State.afterBody (s : State) (last : Word) (i : Instr) (k : State → Word → State) : State :=
  match s.codeRead s.cur.tile last 4 with
  | (s, .error (o, va)) => s.fetchPending i o va
  | (s, .ok b) => k s (last + w64 (bundleLen (leNat (b.map Prod.fst))))

/-! ## Loops -/

/-- The shape record's fields (R171). -/
def shapeCnt (r : List Byte) (n : Nat) : Nat := leNat (r.drop (8 * n) |>.take 4)
def shapeStr (r : List Byte) (n : Nat) : Nat := leNat (r.drop (8 * n + 4) |>.take 4)
def shapePre (r : List Byte) (n : Nat) : Bool := nbit (leNat (r.drop 48 |>.take 8)) n
def shapeReserved (r : List Byte) : Bool :=
  leNat (r.drop 48 |>.take 8) / 64 != 0 || leNat (r.drop 56 |>.take 8) != 0

/-- The group of this step issues its next bundle no earlier than n cycles from now. -/
def State.holdFor (s : State) (n : Nat) : State :=
  let c := s.here.clk + n
  s.updGrp fun g => { g with nextIssue := max g.nextIssue c }

/-- R172 once the record is read: the short path, the bundle after the body, or the body with a level entered. -/
def State.loopEnter (s : State) (i : Instr) (lev : Nat) (r : List Byte) (mn : Nat) (last : Word) (short : Word) : State :=
  let cnt := shapeCnt r lev
  if cnt < mn then s.goTo short
  else if cnt = 0 then s.afterBody last i State.goTo
  else
    let l : LoopLv := ⟨0, cnt, cnt, BitVec.ofNat 32 (shapeStr r lev), s.nextBundle, last, shapePre r lev⟩
    let g := s.grp
    (s.updHere fun x => x.updSeqs g fun q => { q with loops := q.loops ++ [l] }).goTo s.nextBundle

/-- LOOP from its read of the shape record at offset `off` on (R172, R284). -/
def State.loopRead (s : State) (i : Instr) (lev : BitVec 3) (off : Nat) (mn : BitVec 8) (endOff short : BitVec 16) : State :=
  let s := (s.touchBanks off 64).holdFor 6
  if s.poisoned (.spad s.cur.tile) off 64 then (s.consumed (.spad s.cur.tile) off s.here.ctx).raiseAt .poison off
  else
    let r := s.bytes (.spad s.cur.tile) off 64
    if shapeReserved r then s.raise .illegal
    else s.loopEnter i lev.toNat r mn.toNat (s.cur.addr + w64 (endOff.toNat * 4)) (pcRel s.cur.addr short)

/-- Whether a scratchpad store of the step's group has yet to be made (R142). -/
def State.storeHeld (s : State) : Bool := s.here.mems.any fun w => sameGrp w.grp s.cur.group && (match w.op with
  | .st _ _ _ => true
  | _ => false)

/-- The effect of LOOP (R172, R284): its operands and its checks of them, in the bundle's cycle (R262); its read of the record
comes after a store of its bundle that waits (R133). -/
def State.loopDo (s : State) (i : Instr) (lev : BitVec 3) (a : BitVec 7) (mn : BitVec 8) (endOff short : BitVec 16) : State :=
  let off := spadAddr (s.readX a)
  if endOff.toNat * 4 < s.cur.len then s.raise .bundle
  else if (s.here.groupSeq s.grp).loops.length ≠ lev.toNat then s.raise .bundle
  else if off % 64 ≠ 0 then s.raiseAt .align off
  else if s.storeHeld then s.wait (.loopAt off) i
  else s.loopRead i lev off mn endOff short

/-- LOOP (R172, R284). -/
def execLoop (q : BitVec 2) (lev : BitVec 3) (a : BitVec 7) (mn : BitVec 8) (endOff short : BitVec 16) (s : State) : Out :=
  s.syl q fun s => s.loopDo (.loop q lev a mn endOff short) lev a mn endOff short

/-- The effect of BRKL (R286). -/
def State.brklDo (s : State) (i : Instr) (lev : BitVec 3) (cond : Bool) (c : BitVec 5) (neg : Bool) : State :=
  let stack := (s.here.groupSeq s.grp).loops
  let n := if lev = 7 then stack.length - 1 else lev.toNat
  match stack[n]? with
  | none => s.raise .bundle
  | some l =>
    if n < s.grp.forkDepth then s.raise .bundle
    else if cond && !condHolds (s.readC c) neg then s
    else
      let g := s.grp
      s.afterBody l.last i fun s a => (s.updHere fun x => x.updSeqs g fun q => { q with loops := q.loops.take n }).goTo a

/-- BRKL (R286). -/
def execBrkl (q : BitVec 2) (lev : BitVec 3) (cond : Bool) (c : BitVec 5) (neg : Bool) (s : State) : Out :=
  s.syl q fun s => s.brklDo (.brkl q lev cond c neg) lev cond c neg

/-! ## The end of an instance's program -/

/-- R170: when every group has halted, the instance ends as by EXIT. -/
def Tile.endIfHalted (x : Tile) : Tile := if x.groups.all (·.halted) then { x with stat := .ending } else x

/-- R287: the other syllables of a bundle take effect before its FORK, HALT or EXIT: one that waits (R265) makes the
instruction wait with it. -/
def State.afterWaits (s : State) (i : Instr) (k : State → State) : State :=
  if s.grp.waits.isEmpty then k s else s.wait .again i

/-- The effect of HALT (R170). -/
def State.haltDo (s : State) : State :=
  let g := s.grp
  (s.updGrp fun g => { g with halted := true }).updHere fun x =>
    (x.updSeqs g fun q => { q with halted := true }).endIfHalted

/-- HALT (R170, R287). -/
def execHalt (q : BitVec 2) (s : State) : Out := s.syl q fun s => s.afterWaits (.halt q) State.haltDo

/-- The effect of EXIT (R129, R170); legal only in lockstep. -/
def State.exitDo (s : State) : State :=
  if s.here.lockstep then s.updHere fun x => { x with stat := .ending } else s.raise .bundle

/-- EXIT (R129, R170, R287). -/
def execExit (q : BitVec 2) (s : State) : Out := s.syl q fun s => s.afterWaits (.exit q) State.exitDo

/-! ## Fork and join -/

/-- A word of a FORK descriptor (R166). -/
structure ForkWord where
  part : Part
  slots : BitVec 8
  entry : Int
  reserved : Bool
  deriving DecidableEq, Repr

/-- The fields of a descriptor word. -/
def forkWord (w : Nat) : ForkWord :=
  ⟨⟨bits w 0 7, bits w 8 7, bits w 16 5, bits w 24 5⟩, BitVec.ofNat 8 (bits w 32 8), sgn 24 (bits w 40 24),
    nbit w 7 || nbit w 15 || bits w 21 3 != 0 || bits w 29 3 != 0⟩

/-- Whether two ranges share a number. -/
def overlap (a b c d : Nat) : Bool := a ≤ d && c ≤ b

/-- Whether a partition names `x0` alone (R166). -/
def Part.x0Only (p : Part) : Bool := p.xFirst == 0 && p.xLast == 0

/-- R166's condition on two groups: disjoint slots and partitions. -/
def ForkWord.disjoint (a b : ForkWord) : Bool :=
  a.slots &&& b.slots == 0 &&
    (a.part.x0Only || b.part.x0Only || !overlap a.part.xFirst a.part.xLast b.part.xFirst b.part.xLast) &&
    !overlap a.part.cFirst a.part.cLast b.part.cFirst b.part.cLast

/-- R166: whether the words of a descriptor are valid. -/
def forkOk (ws : List Nat) : Bool :=
  let fs := (ws.takeWhile (· != 0)).map forkWord
  fs != [] && (ws.drop fs.length).all (· == 0) &&
    fs.all (fun f => !f.reserved && f.slots != 0 && f.part.xFirst ≤ f.part.xLast && f.part.cFirst ≤ f.part.cLast) &&
    fs.Pairwise (fun a b => a.disjoint b = true) && fs.foldl (fun m f => m ||| f.slots) 0 == 0xFF

/-- R167: the groups of a valid descriptor, each at its entry in the cycle after the FORK bundle and its GAP. -/
def State.forkInto (s : State) (ws : List Nat) : State :=
  let fs := (ws.takeWhile (· != 0)).map forkWord
  let g := s.grp
  let depth := (s.here.groupSeq g).loops.length
  let mk (p : ForkWord × Nat) : Group :=
    { num := p.2, slots := p.1.slots, part := some p.1.part, nextIssue := g.nextIssue, pushSeq := g.pushSeq, waits := [],
      halted := false, ppStop := g.ppStop, forkDepth := depth, brkPass := false, baddr := s.cur.addr, blen := s.cur.len,
      goto := some (s.cur.addr + i64 (p.1.entry * 4)), opened := true }
  s.updHere fun x =>
    { x with groups := fs.zipIdx.map mk, lockstep := false, pend := x.pend.map fun p => { p with grp := 255 } }

/-- The effect of FORK (R166, R167, R287). -/
def State.forkDo (s : State) (i : Instr) (off : BitVec 22) : State :=
  if !s.here.lockstep then s.raise .bundle
  else
    match s.codeRead s.cur.tile (s.cur.addr / 64 * 64 + off.signExtend 64 * 64) 64 with
    | (s, .error (o, va)) => s.fetchPending i o va
    | (s, .ok b) =>
      let ws := leDwords (b.map Prod.fst)
      if forkOk ws then s.forkInto ws else s.raise .bundle

/-- Whether a write or a fence of the step's group has yet to be performed (R142, R143, R151). -/
def State.memsOut (s : State) : Bool := s.here.mems.any fun w => sameGrp w.grp s.cur.group

/-- FORK (R151, R167, R287): it waits for the other syllables of its bundle, the write or fence of its slot L among them. -/
def execFork (q : BitVec 2) (off : BitVec 22) (s : State) : Out :=
  s.syl q fun s =>
    if s.memsOut then s.wait .again (.fork q off) else s.afterWaits (.fork q off) fun s => s.forkDo (.fork q off) off

/-- The JOIN at which a group waits: its mask and id. -/
def Group.joinOf (g : Group) : Option (BitVec 8 × BitVec 8) :=
  g.waits.findSome? fun w => match w.w with
    | .join m i => some (m, i)
    | _ => none

/-- The set of a JOIN of group g (R169). -/
def joinSet (g : Nat) (mask : BitVec 8) : BitVec 8 := mask ||| (1 <<< g)

/-- R169: whether another group's JOIN contradicts this one: one lies in the other's set, and the sets or ids differ. -/
def joinClash (me : Nat) (mask id : BitVec 8) (g : Group) : Bool :=
  match g.joinOf with
  | none => false
  | some (m, i) =>
    ((joinSet me mask).getLsbD g.num || (joinSet g.num m).getLsbD me) &&
      !(joinSet me mask == joinSet g.num m && id == i)

/-- The effect of JOIN on arrival (R169, R287). -/
def State.joinDo (s : State) (i : Instr) (mask id : BitVec 8) : State :=
  let x := s.here
  let g := s.cur.group
  if x.lockstep || mask == 0 || mask.getLsbD g || !((List.range 8).all fun k => !mask.getLsbD k || x.groups.any (·.num == k)) then
    s.raise .bundle
  else if x.groups.any fun h => h.num != g && joinClash g mask id h then s.raise .bundle
  else s.wait (.join mask id) i

/-- Whether a JOIN is complete (R169): each group of its set waits at the same JOIN, for nothing else, and has not stopped for
a pre-emption (R383), or has halted, and no result of theirs is in flight, and no write of theirs waits. -/
def Tile.joinReady (x : Tile) (set id : BitVec 8) : Bool :=
  (x.groups.all fun h =>
    !set.getLsbD h.num || h.halted ||
      (match h.joinOf with
       | some (m, i) => joinSet h.num m == set && i == id && h.waits.length == 1 && !h.ppStop
       | none => false)) &&
  !(x.pend.any fun p => set.getLsbD p.grp) && !(x.mems.any fun w => set.getLsbD w.grp)

/-- A range of numbers made of ranges that leave no gap, if there is one. -/
def unionRange : List (Nat × Nat) → Option (Nat × Nat)
  | [] => none
  | [r] => some r
  | (a, b) :: rs =>
    let all := (a, b) :: rs
    let lo := all.foldl (fun m r => min m r.1) a
    let hi := all.foldl (fun m r => max m r.2) b
    if (all.map fun r => r.2 + 1 - r.1).sum = hi + 1 - lo then some (lo, hi) else none

/-- The union of the partitions of groups (R169), if it is one `x` range and one `c` range. -/
def unionPart (ps : List Part) : Option Part :=
  let xs := (ps.filter fun p => !p.x0Only).map fun p => (p.xFirst, p.xLast)
  match unionRange (if xs.isEmpty then [(0, 0)] else xs), unionRange (ps.map fun p => (p.cFirst, p.cLast)) with
  | some (a, b), some (c, d) => some ⟨a, b, c, d⟩
  | _, _ => none

/-- The groups of a set merged into one (R169), which owns none of their streams yet (R70): it issues next after the JOIN of
the member that holds slot C, else of the lowest-numbered member, in the cycle after the last JOIN and its GAP. Its push
sequence restarts at the value of the group that holds slot C, a member or not (R176). -/
def Tile.joinMerge (x : Tile) (ms : List Group) (lead : Group) (part : Option Part) : Tile :=
  let slots := ms.foldl (fun m h => m ||| h.slots) 0
  let num := (ms.map (·.num)).foldl min 7
  let whole := slots == 0xFF
  let q := x.groupSeq lead
  let m : Group :=
    { lead with
      pushSeq := ((x.groups.find? fun h => h.hasSlot 0).getD lead).pushSeq
      num := if whole then 0 else num
      slots := slots
      part := if whole then none else part
      nextIssue := max (x.clk + 1) ((ms.map (·.nextIssue)).foldl max 0)
      waits := []
      halted := false
      forkDepth := if whole then 0 else lead.forkDepth
      goto := none
      opened := true }
  let x := { x with groups := (m :: x.groups.filter fun h => !(ms.any (·.num == h.num))).mergeSort fun a b => a.num ≤ b.num }
  let x := x.updSeqs m fun _ => { q with halted := false }
  let free (q : Stream) : Stream := match q.owner with
    | some o => if ms.any (·.num == o) then { q with owner := none } else q
    | none => q
  { x with lockstep := whole, qs := x.qs.map fun p => (p.1, free p.2) }

/-- The step of a JOIN_COMPLETE for group g of tile t (R169). Where the member with slot C has halted, the merged group goes on at
the JOIN of its lowest member that has not (DESIGN CHOICE, notes/assumptions/92.md). -/
def State.joinCompleteDo (s : State) (t g : Nat) : State :=
  let x := s.tile t
  match (x.group g).joinOf with
  | none => s
  | some (mask, id) =>
    let set := joinSet g mask
    if x.stat ≠ .running || !x.joinReady set id then s
    else
      let ms := x.groups.filter fun h => set.getLsbD h.num
      let lead := ((ms.find? fun h => h.hasSlot 0 && !h.halted) <|> ms.find? fun h => !h.halted).getD Group.lockstep
      let whole := x.groups.all fun h => set.getLsbD h.num
      match unionPart (ms.filterMap (·.part)), whole with
      | none, false =>
        s.raiseIn t ⟨.bundle, x.clk, none, false, g, 0, 0, 0, (x.group g).baddr, 0, none, none, .none⟩
      | p, _ => s.setTile t (x.joinMerge ms lead p)

/-- JOIN (R169, R287); the last of its set completes it in its own cycle if every result of the set has landed. -/
def execJoin (q : BitVec 2) (mask id : BitVec 8) (s : State) : Out :=
  s.syl q fun s => (s.joinDo (.join q mask id) mask id).joinCompleteDo s.cur.tile s.cur.group

/-! ## The move to the next bundle -/

/-- R285 at the end of a bundle: the loop stack after the steps that apply at its address, the next bundle, whether a
level entered before the FORK would end, and whether an iteration boundary with PRE was met. -/
def bodyEnd (forkDepth : Nat) (a next : Word) (pre : Bool) : List LoopLv → Nat → List LoopLv × Word × Bool × Bool
  | st, 0 => (st, next, false, pre)
  | st, f + 1 =>
    match st.getLast? with
    | none => (st, next, false, pre)
    | some l =>
      if l.last ≠ a then (st, next, false, pre)
      else if st.length ≤ forkDepth then (st, next, true, pre)
      else if 1 < l.rem then
        (st.dropLast ++ [{ l with rem := l.rem - 1, i := l.i + l.stride }], l.start, false, pre || l.pre)
      else bodyEnd forkDepth a next (pre || l.pre) st.dropLast f

/-- The move of group g of tile t past the bundle that it has issued and whose waiting instructions are complete: to the
target that the bundle set, or by R285. A LOOP that stands at an enclosing body's end sets a target too, and skips that body's step as a
branch does (DEDUCED, notes/assumptions/110.md). -/
def State.finishGroup (s : State) (t : Nat) (q : Group) : State :=
  let x := s.tile t
  match q.goto with
  | some a =>
    s.setTile t ((x.updSeqs q fun r => { r with addr := a }).updGroup q.num fun g => { g with goto := none, opened := false })
  | none =>
    let fd := if x.lockstep then 0 else q.forkDepth
    let r := bodyEnd fd q.baddr (q.baddr + w64 q.blen) false (x.groupSeq q).loops 6
    if r.2.2.1 then
      (s.triedAt t q.num).raiseIn t ⟨.bundle, x.clk, none, false, q.num, (q.slotList.headD 0), 0, 0, q.baddr, 0, none, none, .none⟩
    else
      let n := (x.groupSeq q).loops.length
      -- every sequencer of the group takes the same steps on its own indices
      let upd (r : Seqr) : Seqr :=
        let e := bodyEnd fd q.baddr (q.baddr + w64 q.blen) false (r.loops.take n) 6
        { r with loops := e.1, addr := e.2.1 }
      s.setTile t
        ((x.updSeqs q upd).updGroup q.num fun g =>
          { g with opened := false, ppStop := g.ppStop || (r.2.2.2 && x.preSig.isSome) })

/-- Whether a group has stopped for a pre-emption (R383). -/
def Group.stopped (g : Group) : Bool := g.ppStop || g.halted

/-- R383: from the signal on, group n, if it still waits at an instruction when its next bundle could have issued, has stopped
there: the instruction does not complete before the freeze. -/
def Tile.stopWaiting (x : Tile) (n : Nat) : Tile :=
  if x.preSig.isSome && x.stat == .running then
    x.updGroup n fun g => if g.waits.isEmpty || x.clk < g.nextIssue then g else { g with ppStop := true }
  else x

/-- R384: the tile freezes when every group has stopped after the signal. -/
def Tile.preFreeze (x : Tile) : Tile :=
  if x.preSig.isSome && x.stat == .running && x.groups.all Group.stopped then x.freeze else x

/-- Whether group g raised, in this cycle, a cause after which its position is the raising bundle (R370). -/
def Tile.stuck (x : Tile) (g : Nat) : Bool := x.tried.contains g

/-- Every group of tile t that has issued a bundle, waits for nothing and raised nothing moves on; a cause of this cycle
freezes the tile over the result. -/
def State.finish (s : State) (t : Nat) : State :=
  let s := ((s.tile t).groups.filter fun g => g.opened && g.waits.isEmpty && !(s.tile t).stuck g.num).foldl
    (fun s q => s.finishGroup t q) s
  s.updTile t fun x => if x.raised.isSome && x.stat == .frozen then x.freeze else x.preFreeze

/-! ## Condition bits -/

/-- R150: the record of a SETC of bit c by group g. A bit that an earlier SETC has set, and that other groups do not see yet,
is seen from when that one is. -/
def Tile.setcNote (x : Tile) (c : BitVec 5) (g : Nat) : Tile :=
  if x.cs.getLsbD c.toNat && x.setcs.any (fun r => r.c == c && !((r.vis.getD (x.clk + 1)) ≤ x.clk)) then x
  else
    { x with
      setcs := x.setcs.filter (fun r => r.c != c) ++
        [⟨c, g, x.pseq, x.cs.getLsbD c.toNat, if x.setcWaits g x.pseq then none else some (x.clk + 1)⟩] }

/-- SETC (R150, R288). -/
def execSetc (q : BitVec 2) (c : BitVec 5) (s : State) : Out :=
  s.syl q fun s =>
    s.within [.c c] fun s =>
      let g := s.cur.group
      (s.updHere fun x => x.setcNote c g).result (.c c) 1 1

/-- CLRC (R288). -/
def execClrc (q : BitVec 2) (c : BitVec 5) (s : State) : Out := s.syl q fun s => s.writeC c false 1

/-- WAITC (R288). -/
def execWaitc (q : BitVec 2) (c : BitVec 5) (neg : Bool) (s : State) : Out :=
  s.syl q fun s => s.wait (.waitc c neg) (.waitc q c neg)

/-! ## Traps and pre-emption points -/

/-- TRAP (R289): the tile freezes with the restartable cause TRAP and CODE. -/
def execTrap (q : BitVec 2) (code : BitVec 16) (s : State) : Out :=
  s.syl q fun s => s.raiseSyl .trap 0 code.toNat none

/-- The handler's return (R375): the interrupted groups, sequencers and latches are restored, and every group issues in
cycle b = e + 1 + GAP, the cycle in which the handler's next bundle could have issued. An instruction of ERET's own bundle that still
waits is dropped with the handler's groups (DESIGN CHOICE, notes/assumptions/111.md). -/
def Tile.eret (x : Tile) (o : Outer) (b : Nat) : Tile :=
  let hret := mget 0 x.frame 0x106
  let fg := bits (mget 0 o.frame 0x100).toNat 10 3
  let x := { x with groups := o.groups, seqs := o.seqs, lockstep := o.lockstep, frame := o.frame, outer := none, inHandler := false }
  let x := x.redeliver b o.latches
  x.resumeAt b hret fg

/-- The effect of ERET (R289, R375). -/
def State.eretDo (s : State) : State :=
  let x := s.here
  match x.outer with
  | none => s.raise .illegal
  | some o =>
    if !x.lockstep then s.raise .bundle
    else s.setTile s.cur.tile (x.eret o (x.clk + 1 + s.cur.gap))

/-- ERET (R289, R375). -/
def execEret (q : BitVec 2) (s : State) : Out := s.syl q State.eretDo

/-- PREEMPTPT (R289, R383). -/
def execPreemptpt (q : BitVec 2) (s : State) : Out :=
  s.syl q fun s => if s.here.preSig.isSome then s.updGrp fun g => { g with ppStop := true } else s

/-! ## CSRs -/

/-- LVIDk as group g reads it (R164). -/
def Tile.lvidOf (x : Tile) (k g : Nat) : Word :=
  if x.lvGroup = some k then (if x.lockstep then 0 else w64 g) else mget 0 x.lvid k

/-- The value that CSR n holds, as group g reads it (R291, R372). -/
def Tile.csr (x : Tile) (n g : Nat) : Word :=
  if n = 0 then x.csp.zeroExtend 64
  else if 1 ≤ n ∧ n ≤ 4 then (mget 0 x.asp (n - 1)).zeroExtend 64
  else if n = 0x08 then x.featmask
  else if 0x10 ≤ n ∧ n ≤ 0x17 then x.lvidOf (n - 0x10) g
  else if n = 0x18 then x.grank
  else if n = 0x20 then x.tags
  else if n = 0x28 then x.cycle
  else if n = 0x30 then x.spretNow.zeroExtend 64
  else if n = 0x31 then x.srstate.zeroExtend 64
  else if n = 0x32 then w64 (b2n x.vmode)
  else if n = 0x33 then x.fmode.zeroExtend 64
  else if 0x100 ≤ n ∧ n ≤ 0x17F then mget 0 x.frame n
  else 0

/-- CSRR (R290): the value that the CSR holds at the end of this cycle. -/
def execCsrr (q : BitVec 2) (x : BitVec 7) (csr : BitVec 12) (s : State) : Out :=
  s.syl q fun s =>
    s.within [.x x] fun s => s.resultAs (.x x) (s.here.csr csr.toNat s.cur.group) 2 false (some csr.toNat)

/-- R290 at the end of cycle: a CSRR issued in it takes the value that its CSR now holds. -/
def Tile.readCsrs (x : Tile) : Tile :=
  let rd (p : Pend) : Pend := match p.csr with
    | some n => { p with val := x.csr n (if p.grp = 255 then 0 else p.grp), csr := none }
    | none => p
  { x with pend := x.pend.map rd, latches := x.latches.map fun l => { l with p := rd l.p } }

/-- CSRW (R290): HRET outside a handler raises ILLEGAL. -/
def execCsrw (q : BitVec 2) (x : BitVec 7) (csr : BitVec 12) (s : State) : Out :=
  s.syl q fun s =>
    s.within [.csr csr.toNat] fun s =>
      if csr = 0x106 ∧ !s.here.inHandler then s.raise .illegal else s.result (.csr csr.toNat) (s.readX x) 2

/-- The first write of CSR n in flight whose cycle has come. -/
def Tile.duePend (x : Tile) (n : Nat) : Option Pend :=
  firstPend (x.pend.filter fun p => p.dest == .csr n && p.due ≤ x.clk)

/-- SRSTATE_WRITE (R293): a written 0 stores 1. -/
def execSrstateWrite (t : Nat) (s : State) : Out :=
  match (s.tile t).duePend 0x31 with
  | none => .next s
  | some p =>
    .next (s.updTile t fun x =>
      let v : BitVec 32 := p.val.truncate 32
      { x with srstate := if v = 0 then 1 else v, pend := x.pend.erase p })

/-- One bank of a write to SPRET (R111, R112, R293). -/
def Tile.setRet (x : Tile) (v : BitVec 32) (b : Nat) : Tile :=
  let old := x.spretNow.getLsbD b
  let new := v.getLsbD b
  if old == new then x
  else if new then
    { x with
      spret := x.spret ||| ((1 : BitVec 32) <<< b)
      ret := mput x.ret b
        (match mget .active x.ret b with
         | .leaving till => .entering (till + 1024)
         | _ => .entering (x.clk + 1024)) }
  else x.leaveBank b

/-- SPRET_WRITE (R293). -/
def execSpretWrite (t : Nat) (s : State) : Out :=
  match (s.tile t).duePend 0x30 with
  | none => .next s
  | some p =>
    .next (s.updTile t fun x => (List.range 32).foldl (fun x b => x.setRet (p.val.truncate 32) b) { x with pend := x.pend.erase p })

/-! ## Identity and range requests -/

/-- R294: the value that SEL selects. -/
def State.getid (s : State) (sel : Nat) : Word :=
  let x := s.here
  let t := s.cur.tile
  if sel ≤ 7 then x.lvidOf sel s.cur.group
  else if sel = 8 then x.grank
  else if sel = 9 then w64 (tileDie t)
  else if sel = 10 then w64 (t / 4 % 32)
  else if sel = 11 then w64 (t % 4)
  else if sel = 12 then w64 s.cur.group
  else if sel = 13 then w64 x.groups.length
  else if 16 ≤ sel ∧ sel ≤ 21 then ((x.seq s.cur.slot).index (sel - 16)).zeroExtend 64
  else w64 (x.seq s.cur.slot).loops.length

/-- GETID (R294). -/
def execGetid (q : BitVec 2) (d : BitVec 7) (sel : BitVec 6) (s : State) : Out :=
  s.syl q fun s => s.writeX d (s.getid sel.toNat) 1

/-- One request of a range unit (R177): the start, the size, and the unit after it. -/
def RangeUnit.request (u : RangeUnit) : Word × Word × RangeUnit :=
  let rem := (u.fin - u.next).toNat
  let size := w64 (min rem (max u.minChunk (ceilDiv rem (2 * u.parties))))
  (u.next, size, { u with next := u.next + size })

/-- RGET (R295): the hub applies the request; the two results are readable by the group's next bundle. -/
def execRget (q : BitVec 2) (d a : BitVec 7) (s : State) : Out :=
  s.syl q fun s =>
    s.within [.x d, .x (d + 1)] fun s =>
      let n := (s.readX a).toNat % 1024
      let u := mget RangeUnit.reset s.units n
      if u.ctx = some s.here.ctx then
        let r := u.request
        let s := (({ s with units := mput s.units n r.2.2 } : State).acquireAt s.cur.tile 3 (.unit n)).releaseTo (.tile s.cur.tile) s.cur.tile 3
          (.unit n)
        (s.result (.x d) r.1 1).result (.x (d + 1)) r.2.1 1
      else s.raise .engine

end Sys2Proof.Machine
end

