-- ==== Sys2Proof/Machine/ScalarFloat.lean ====
section
/-! DEFINITION. Scalar float, opcodes 0x30 to 0x3F (R302 to R307). -/
namespace Sys2Proof.Machine

/-- The format that P selects (R302). -/
def fmtOf (p : Bool) : Fmt := if p then fp64 else fp32

/-- The value of an operand register in the format of P; higher bits are ignored (R281). -/
def State.readF (s : State) (r : BitVec 7) (p : Bool) : Val := (fmtOf p).val ((s.readX r).toNat % 2 ^ (fmtOf p).width)

/-- FMODE.RM (R292). -/
def State.fmodeRM (s : State) : RMode := rmode s.here.fmode.toNat

/-- A result rounded to the format of P and written zero-extended (R281, R303). -/
def State.writeF (s : State) (d : BitVec 7) (p : Bool) (rm : RMode) (v : Val) (lat : Nat) : State :=
  s.writeX d (w64 ((fmtOf p).round rm false 0 v)) lat

/-- FADD (R303). -/
def execFadd (q : BitVec 2) (d a b : BitVec 7) (p : Bool) (s : State) : Out :=
  s.syl q fun s => s.writeF d p s.fmodeRM ((s.readF a p).add s.fmodeRM (s.readF b p)) 3

/-- FSUB (R303). -/
def execFsub (q : BitVec 2) (d a b : BitVec 7) (p : Bool) (s : State) : Out :=
  s.syl q fun s => s.writeF d p s.fmodeRM ((s.readF a p).add s.fmodeRM (s.readF b p).negate) 3

/-- FMUL (R303). -/
def execFmul (q : BitVec 2) (d a b : BitVec 7) (p : Bool) (s : State) : Out :=
  s.syl q fun s => s.writeF d p s.fmodeRM ((s.readF a p).mul (s.readF b p)) (if p then 6 else 5)

/-- FMA (R303). -/
def execFma (q : BitVec 2) (d a b : BitVec 7) (p : Bool) (s : State) : Out :=
  s.syl q fun s =>
    s.writeF d p s.fmodeRM (Val.fma s.fmodeRM (s.readF a p) (s.readF b p) (s.readF d p)) (if p then 6 else 5)

/-- FDIV (R303). -/
def execFdiv (q : BitVec 2) (d a b : BitVec 7) (p : Bool) (s : State) : Out :=
  s.syl q fun s => s.writeF d p s.fmodeRM ((s.readF a p).div (s.readF b p)) (if p then 30 else 18)

/-- FSQRT (R303). -/
def execFsqrt (q : BitVec 2) (d a : BitVec 7) (rm : BitVec 3) (p : Bool) (s : State) : Out :=
  s.syl q fun s => s.writeF d p (rmode rm.toNat) (s.readF a p).sqrt (if p then 30 else 18)

/-- FMIN (R304). -/
def execFmin (q : BitVec 2) (d a b : BitVec 7) (p : Bool) (s : State) : Out :=
  s.syl q fun s => s.writeF d p .rne (Val.minmax false (s.readF a p) (s.readF b p)) 2

/-- FMAX (R304). -/
def execFmax (q : BitVec 2) (d a b : BitVec 7) (p : Bool) (s : State) : Out :=
  s.syl q fun s => s.writeF d p .rne (Val.minmax true (s.readF a p) (s.readF b p)) 2

/-- FCMP (R304). -/
def execFcmp (q : BitVec 2) (c : BitVec 5) (a b : BitVec 7) (r : BitVec 2) (p : Bool) (s : State) : Out :=
  s.syl q fun s => s.writeC c (fcmpHolds r ((s.readF a p).cmp (s.readF b p))) 2

/-- The bits of an operand of the width of P. -/
def State.readBits (s : State) (r : BitVec 7) (p : Bool) : Nat := (s.readX r).toNat % 2 ^ (fmtOf p).width

/-- FABS (R304): every bit but the sign is copied, NaNs included. -/
def execFabs (q : BitVec 2) (d a : BitVec 7) (p : Bool) (s : State) : Out :=
  s.syl q fun s => s.writeX d (w64 (s.readBits a p % 2 ^ ((fmtOf p).width - 1))) 2

/-- FNEG (R304). -/
def execFneg (q : BitVec 2) (d a : BitVec 7) (p : Bool) (s : State) : Out :=
  s.syl q fun s => s.writeX d (w64 (Nat.xor (s.readBits a p) (2 ^ ((fmtOf p).width - 1)))) 2

/-- FRCP (R305). -/
def execFrcp (q : BitVec 2) (d a : BitVec 7) (p : Bool) (s : State) : Out :=
  s.syl q fun s => s.writeF d p .rne (s.readF a p).rcp 8

/-- FRSQ (R305). -/
def execFrsq (q : BitVec 2) (d a : BitVec 7) (p : Bool) (s : State) : Out :=
  s.syl q fun s => s.writeF d p .rne (s.readF a p).rsqrt 8

/-- FEXP2 (R305). -/
def execFexp2 (q : BitVec 2) (d a : BitVec 7) (p : Bool) (s : State) : Out :=
  s.syl q fun s => s.writeF d p .rne (s.readF a p).exp2 8

/-- FLOG2 (R305). -/
def execFlog2 (q : BitVec 2) (d a : BitVec 7) (p : Bool) (s : State) : Out :=
  s.syl q fun s => s.writeF d p .rne (s.readF a p).log2 8

/-- The class of a code and, for a NaN, the cause that R214 assigns (R306). -/
def fclass (f : Fmt) (code : Nat) : Nat :=
  let sign := nbit code (f.width - 1)
  let c := code % 2 ^ (f.width - 1)
  if f.isNaNCode c then
    (if !sign && f.nan < c && c ≤ f.nan + 6 then 2 ^ 8 else 2 ^ 9) + f.carried sign c * 2 ^ 16
  else if f.inf == some c then (if sign then 2 ^ 0 else 2 ^ 7)
  else if c = 0 then (if sign then 2 ^ 3 else 2 ^ 4)
  else if c < 2 ^ f.m then (if sign then 2 ^ 2 else 2 ^ 5)
  else (if sign then 2 ^ 1 else 2 ^ 6)

/-- FCLASS (R306). -/
def execFclass (q : BitVec 2) (d a : BitVec 7) (p : Bool) (s : State) : Out :=
  s.syl q fun s => s.writeX d (w64 (fclass (fmtOf p) (s.readBits a p))) 2

/-- R307: what FCVT writes for an operand x, and whether it takes a draw. -/
def fcvt (conv rm : Nat) (p : Bool) (x : Word) (draw : Nat) : Word :=
  let f := fmtOf p
  let v := f.val (x.toNat % 2 ^ f.width)
  let m := rmode rm
  let low (g : Fmt) : Val := g.val (x.toNat % 2 ^ g.width)
  let conv1 (g : Fmt) (v : Val) : Word := w64 (g.round m false draw v)
  match conv with
  | 0 => i64 (v.toInt m (-2 ^ 31) (2 ^ 31 - 1) 0)
  | 1 => i64 (v.toInt m 0 (2 ^ 32 - 1) 0)
  | 2 => i64 (v.toInt m (-2 ^ 63) (2 ^ 63 - 1) 0)
  | 3 => i64 (v.toInt m 0 (2 ^ 64 - 1) 0)
  | 4 => conv1 f (Val.ofInt x.toInt)
  | 5 => conv1 f (Val.ofInt x.toNat)
  | 6 => conv1 fp16 v
  | 7 => conv1 bf16 v
  | 8 => conv1 f (low fp16)
  | 9 => conv1 f (low bf16)
  | 10 => conv1 e4m3 v
  | 11 => conv1 e5m2 v
  | 12 => conv1 f (low e4m3)
  | 13 => conv1 f (low e5m2)
  | _ => if p then conv1 fp32 v else conv1 fp64 v

/-- One draw of tile t's generator (R211). -/
def State.draw (s : State) (t : Nat) : State × Nat :=
  let n := srNext (s.tile t).srstate
  (s.updTile t fun x => { x with srstate := n }, n.toNat)

/-- FCVT (R307); RM 4 takes one draw. -/
def execFcvt (q : BitVec 2) (d a : BitVec 7) (conv : BitVec 4) (rm : BitVec 3) (p : Bool) (s : State) : Out :=
  s.syl q fun s =>
    s.within [.x d] fun s =>
      let r := if rm = 4 then s.draw s.cur.tile else (s, 0)
      r.1.result (.x d) (fcvt conv.toNat rm.toNat p (s.readX a) r.2) 3

end Sys2Proof.Machine
end

