-- ==== Sys2Proof/Machine/Memory.lean ====
section
/-! DEFINITION. Slot L: memory, atomics, flags, probe, fence, opcodes 0x40 to 0x4F (R309 to R315). An access of a slot-L
syllable is performed in its step, in program order, which is one of the executions that R133 to R147 allow
(notes/assumptions/4.md), but for a write that R142 or R143 makes wait; the results take their latencies. -/
namespace Sys2Proof.Machine

/-- The read of a syllable at w: with its AQ bit an acquire at the bundle's SCOPE (R139), else one that an acquire fence may
follow (R143). -/
def State.acquire (s : State) (aq : Bool) (w : WordAt) : State :=
  if aq then s.acquireAt s.cur.tile s.cur.scope w else s.readBefore s.cur.tile w

/-- R142: after a syllable with its AQ bit, no later memory syllable of the group issues before its value has returned. -/
def State.acqGate (s : State) (aq : Bool) : State := if aq then s.memGate .gate else s

/-- A loaded number extended to 64 bits (R310). -/
def extend (sx : Bool) (n v : Nat) : Word := if sx then i64 (sgn (8 * n) v) else w64 v

/-- The low n bytes of a word, unpoisoned. -/
def storeBytes (v : Word) (n : Nat) : List (Byte × Bool) := (leBytes n v.toNat).map fun b => (b, false)

/-- LD.B to LD.D at a scratchpad address (R310). -/
def State.load (s : State) (d : BitVec 7) (a n : Nat) (sx aq : Bool) : State :=
  s.within [.x d] fun s =>
    let s := s.touchBanks a n
    let bs := s.spadRead s.cur.tile a n
    if bs.any Prod.snd then (s.consumed (.spad s.cur.tile) a s.here.ctx).raiseAt .poison a
    else ((s.acquire aq (.spad s.cur.tile a (a + n))).loadResult (.x d) (extend sx n (leNat (bs.map Prod.fst))) 6).acqGate aq

/-- The size of an SZ code (R311). -/
def szBytes (sz : BitVec 2) : Nat := 2 ^ sz.toNat

/-- The bytes that a write of slot L of tile t writes. -/
def MemOp.word (op : MemOp) (t : Nat) : Option WordAt :=
  match op with
  | .st a n _ => some (.spad t a (a + n))
  | .stc va sz _ => some (.va va.toNat (va.toNat + szBytes sz))
  | .amo _ va _ n _ _ _ => some (.va va.toNat (va.toNat + n / 8))
  | _ => none

/-- What a write of slot L of tile t that has been performed orders: as a release at a scope, or after release fences (R139,
R143). -/
def State.ordered (s : State) (t : Nat) (rl : Bool) (scope : Nat) (op : MemOp) : State :=
  match op.word t with
  | none => s
  | some w => if rl then s.releaseTo (.tile t) t scope w else s.writeAfter t w

/-- ST.B to ST.D at a scratchpad address (R310). -/
def State.storeSpad (s : State) (v : Word) (a n : Nat) : State :=
  (s.touchBanks a n).spadWrite s.cur.tile a (storeBytes v n)

/-- LD.B (R310). -/
def execLdB (q : BitVec 2) (d a : BitVec 7) (sx aq : Bool) (off : BitVec 6) (s : State) : Out :=
  s.syl q fun s => s.load d (shortAddr (s.readX a) off 1) 1 sx aq

/-- LD.B, long form (R310). -/
def execLdBLong (q : BitVec 2) (d a : BitVec 7) (sx aq : Bool) (imm : BitVec 32) (s : State) : Out :=
  s.syl q fun s => s.load d (spadAddr (s.readX a + immOf imm)) 1 sx aq

/-- LD.H (R310). -/
def execLdH (q : BitVec 2) (d a : BitVec 7) (sx aq : Bool) (off : BitVec 6) (s : State) : Out :=
  s.syl q fun s => s.load d (shortAddr (s.readX a) off 2) 2 sx aq

/-- LD.H, long form (R310). -/
def execLdHLong (q : BitVec 2) (d a : BitVec 7) (sx aq : Bool) (imm : BitVec 32) (s : State) : Out :=
  s.syl q fun s => s.load d (spadAddr (s.readX a + immOf imm)) 2 sx aq

/-- LD.W (R310). -/
def execLdW (q : BitVec 2) (d a : BitVec 7) (sx aq : Bool) (off : BitVec 6) (s : State) : Out :=
  s.syl q fun s => s.load d (shortAddr (s.readX a) off 4) 4 sx aq

/-- LD.W, long form (R310). -/
def execLdWLong (q : BitVec 2) (d a : BitVec 7) (sx aq : Bool) (imm : BitVec 32) (s : State) : Out :=
  s.syl q fun s => s.load d (spadAddr (s.readX a + immOf imm)) 4 sx aq

/-- LD.D (R310). -/
def execLdD (q : BitVec 2) (d a : BitVec 7) (aq : Bool) (off : BitVec 6) (s : State) : Out :=
  s.syl q fun s => s.load d (shortAddr (s.readX a) off 8) 8 false aq

/-- LD.D, long form (R310). -/
def execLdDLong (q : BitVec 2) (d a : BitVec 7) (aq : Bool) (imm : BitVec 32) (s : State) : Out :=
  s.syl q fun s => s.load d (spadAddr (s.readX a + immOf imm)) 8 false aq

/-! ## Cached loads and stores -/

/-- Whether a tile's kernel was launched by a task with an EXT operand (R45). -/
def State.tileExt (s : State) (t : Nat) : Bool :=
  let x := s.tile t
  (s.ctx x.ctx).entries.any fun e => e.sn == x.task && e.ranges.any fun r => r.mode == .EXT

/-- The failing translation of a slot-L access as a cause (R50). -/
def State.raiseTr (s : State) (o : Tr) (va : Nat) : State := s.raiseAt ((o.fatal true).getD .access) va

/-- The pieces of a range by 64-byte line. -/
def linePieces : Nat → Nat → Nat → Nat → List Piece
  | 0, _, _, _ => []
  | f + 1, sp, off, n =>
    if n = 0 then []
    else
      let k := min n (64 - off % 64)
      ⟨sp * 2 ^ 64 + off, k⟩ :: linePieces f sp ((off + k) % 2 ^ 64) (n - k)

/-- The set of the L1 in which a line stands, of 256 (R115): no rule gives the index (notes/assumptions/71.md). -/
def l1Set (asid line : Nat) : Nat := Config.cacheSet 4 asid line % 256

/-- A line filled in a tile's L1 (R115): of the 4 ways of a full set one gives up its line, number `pick`. -/
def Tile.l1Fill (x : Tile) (asid line pick : Nat) (bs : List Byte) : Tile :=
  { x with
    l1 := evictFor 4 (fun _ => true) (fun l : L1Line => l1Set l.asid l.va == l1Set asid line) pick x.l1 ++ [⟨asid, line, x.clk, bs⟩] }

/-- The PA of an L1 line of tile t, while its page is resident. -/
def State.linePA (s : State) (t : Nat) (l : L1Line) : Option Nat :=
  match s.leaf l.asid l.va with
  | some e => if pteTier e = 0 then some (copyBase e (tileDie t) + l.va % pageBytes (pteSize e)) else none
  | none => none

/-- R135: an L1 line of tile t that holds bytes of written segments under another address (R31) goes. -/
def State.l1Alias (s : State) (t : Nat) (gs : List Seg) : State :=
  if (s.tile t).l1.isEmpty then s
  else
    let stale (l : L1Line) : Bool := match s.linePA t l with
      | some pa => gs.any fun g => g.l == .phys && g.va / 64 * 64 != l.va && pa < g.a + g.len && g.a < pa + 64
      | none => false
    s.updTile t fun x => { x with l1 := x.l1.filter fun l => !stale l }

/-- One translated piece of an LDC through the L1 (R115): a present line serves it; else it is read at its home, with its
line, unless the page is UNCACHED. What comes from the home leaves no older copy of its bytes under another address (R135). -/
def State.l1Read (s : State) (t : Nat) (g : Seg) : State × List (Byte × Bool) :=
  let x := s.tile t
  let line := g.va / 64 * 64
  if pteMtype g.e = 2 then ((s.countSeg x.ctx g).l1Alias t [g], s.bytesP g.l g.a g.len)
  else
    match x.l1.find? fun l => l.asid == x.ctx && l.va == line with
    | some l => (s, ((l.bytes.drop (g.va - line)).take g.len).map fun b => (b, false))
    | none =>
      let bs := s.bytesP g.l (g.a - (g.va - line)) 64
      let s := (s.countSeg x.ctx g).l1Alias t [⟨g.l, g.a - (g.va - line), 64, g.e, line⟩]
      (if bs.any Prod.snd then s
        else s.updTile t fun x => x.l1Fill x.ctx line (s.free (720 + t)).toNat (bs.map Prod.fst),
        (bs.drop (g.va - line)).take g.len)

/-- The pieces of an LDC in order. -/
def State.l1ReadAll (s : State) (t : Nat) : List Seg → State × List (Byte × Bool)
  | [] => (s, [])
  | g :: gs =>
    let r := s.l1Read t g
    let q := r.1.l1ReadAll t gs
    (q.1, r.2 ++ q.2)

/-- LDC at a VA (R311): interlocked; poison is raised when it lands. -/
def State.loadCached (s : State) (d : BitVec 7) (v : VA) (sz : BitVec 2) (sx aq : Bool) : State :=
  s.within [.x d] fun s =>
    let t := s.cur.tile
    let n := szBytes sz
    let s := if aq then s.l1Clear t s.cur.scope else s
    match s.translateAll s.here.ctx (some t) (tileDie t) .r false (linePieces 3 v.space.toNat v.off.toNat n) with
    | (s, .error (o, va)) => s.raiseTr o va
    | (s, .ok gs) =>
      let r := s.l1ReadAll t gs
      -- poison is consumed here, and raised as the result lands (R109)
      let u := (gs.filter fun g => r.1.poisoned g.l g.a g.len).foldl (fun u g => u.consumed g.l g.a u.here.ctx) r.1
      ((u.acquire aq (.va v.toNat (v.toNat + n))).ilkResult (.x d) (extend sx n (leNat (r.2.map Prod.fst))) (r.2.any Prod.snd) v.toNat).acqGate aq

/-- LDC (R311). -/
def execLdc (q : BitVec 2) (d a : BitVec 7) (sz : BitVec 2) (sx aq : Bool) (spc : BitVec 2) (s : State) : Out :=
  s.syl q fun s => s.loadCached d (s.aspVA spc (s.readX a)) sz sx aq

/-- LDC, long form (R311). -/
def execLdcLong (q : BitVec 2) (d a : BitVec 7) (sz : BitVec 2) (sx aq : Bool) (spc : BitVec 2) (imm : BitVec 32) (s : State) : Out :=
  s.syl q fun s => s.loadCached d (s.aspVA spc (s.readX a + immOf imm)) sz sx aq

/-- A list of bytes with those of a piece at an offset replaced. -/
def patch (old : List Byte) (off : Nat) (bs : List Byte) : List Byte :=
  old.take off ++ bs.take (old.length - off) ++ old.drop (off + bs.length)

/-- R115: an STC updates a line that is present. -/
def Tile.l1Patch (x : Tile) (p : Piece) (bs : List Byte) : Tile :=
  { x with
    l1 := x.l1.map fun l =>
      if l.asid = x.ctx ∧ l.va = p.va / 64 * 64 then { l with bytes := patch l.bytes (p.va - l.va) (bs.take p.len) } else l }

/-- The L1 lines of pieces updated in order. -/
def Tile.l1PatchAll (x : Tile) : List Piece → List Byte → Tile
  | [], _ => x
  | p :: ps, bs => (x.l1Patch p bs).l1PatchAll ps (bs.drop p.len)

/-- STC at a VA (R311): written through to the home. The step does not issue one whose page is read-duplicated before the
page's collapse is over (R56): here it attaches its request. -/
def State.storeCached (s : State) (v : Word) (va : VA) (sz : BitVec 2) (rl : Bool) (scope : Nat) : State :=
  let t := s.cur.tile
  let n := szBytes sz
  let c := s.here.ctx
  let ps := linePieces 3 va.space.toNat va.off.toNat n
  match s.translateAll c (some t) (tileDie t) .w (s.tileExt t) ps with
  | (s, .error (o, va)) => s.raiseTr o va
  | (s, .ok gs) =>
    match s.collapsing c gs with
    | some g => s.stallWrite c g.va g.e ⟨t, s.cur.group, va.toNat, leBytes n v.toNat⟩
    | none =>
      (((s.writeSegs c (s.byTile t) gs (storeBytes v n)).l1Alias t gs).updTile t fun x => x.l1PatchAll ps (leBytes n v.toNat)).ordered t rl
        scope (.stc va sz v)

/-! ## Atomics -/

/-- R312: the new contents of n bits, or none where nothing is written. -/
def amoNew (op n old v e : Nat) : Option Nat :=
  let lt : Bool := decide (sgn n old < sgn n v)
  let f := if n = 32 then fp32 else fp64
  match op with
  | 0 => some ((old + v) % 2 ^ n)
  | 1 => some (Nat.land old v)
  | 2 => some (Nat.lor old v)
  | 3 => some (Nat.xor old v)
  | 4 => some (if lt then old else v)
  | 5 => some (if lt then v else old)
  | 6 => some v
  | 7 => if old = e then some v else none
  | _ => some (f.round .rne false 0 ((f.val old).add .rne (f.val v)))

/-- R115: an AMO discards the L1 lines that it touches. -/
def Tile.l1Drop (x : Tile) (va n : Nat) : Tile :=
  { x with l1 := x.l1.filter fun l => !(l.asid == x.ctx && l.va < va + n && va < l.va + 64) }

/-- AMO at its home (R146, R312); a compare-and-swap that fails releases nothing, since nothing reads what it wrote. -/
def State.amoAt (s : State) (xd : BitVec 7) (va : VA) (op n : Nat) (v e : Nat) (aq rl : Bool) (scope : Nat) : State :=
  let t := s.cur.tile
  let c := s.here.ctx
  match s.vaWriteSegs c (some t) (tileDie t) [⟨va.toNat, n / 8⟩] .rw (s.tileExt t) with
  | (s, .error (o, va)) => s.raiseTr o va
  | (s, .ok gs) =>
    match gs with
    | [g] =>
      let s := s.countSeg c g
      if g.l = .host ∧ op ≠ 0 ∧ op ≠ 6 ∧ op ≠ 7 then s.raise .engine
      else if s.poisoned g.l g.a (n / 8) then (s.consumed g.l g.a c).raiseAt .poison va.toNat
      else
        let old := s.num g.l g.a (n / 8)
        let word := WordAt.va va.toNat (va.toNat + n / 8)
        let got (s : State) : State := ((s.l1Alias t gs).updTile t fun x => x.l1Drop va.toNat (n / 8)).acquire aq word
        let s :=
          match amoNew op n old v e with
          | some w =>
            (got ((s.write g.l g.a (leBytes (n / 8) w) c).unseenAdd c (s.byTile t) g)).ordered t rl scope (.amo xd va op n v e aq)
          | none => got s
        (s.ilkResult (.x xd) (w64 old) false 0).acqGate aq
    | _ => s

/-! ## Writes that may wait -/

/-- What a write of slot L makes in memory: its VA, pieces, kind of access and bytes; none for the scratchpad. -/
def MemOp.pieces (op : MemOp) : Option (VA × List Piece × Acc × List Byte) :=
  match op with
  | .stc va sz v => some (va, linePieces 3 va.space.toNat va.off.toNat (szBytes sz), .w, leBytes (szBytes sz) v.toNat)
  | .amo _ va _ n _ _ _ => some (va, [⟨va.toNat, n / 8⟩], .rw, [])
  | _ => none

/-- R56: a write that meets a read-duplicated page, or one under collapse: the state in which its request has attached to the
page's collapse, which it waits for. -/
def State.joinsCollapse (s : State) (op : MemOp) : Option State :=
  match op.pieces with
  | none => none
  | some (va, ps, k, bs) =>
    let t := s.cur.tile
    let c := s.here.ctx
    match s.translateAll c (some t) (tileDie t) k (s.tileExt t) ps with
    | (_, .error _) => none
    | (u, .ok gs) => (u.collapsing c gs).map fun g => u.stallWrite c g.va g.e ⟨t, s.cur.group, va.toNat, bs⟩

/-- A write of slot L performed (R310 to R313), as a release at a scope or as none; one that faults orders nothing. -/
def State.performAs (s : State) (rl : Bool) (scope : Nat) (op : MemOp) : State :=
  match op with
  | .st a n v => (s.storeSpad v a n).ordered s.cur.tile rl scope op
  | .stc va sz v => s.storeCached v va sz rl scope
  | .amo xd va op n v e aq => s.amoAt xd va op n v e aq rl scope
  | _ => s

/-- R139: whether a store of n bytes at scratchpad offset a leaves FULL = 1 in a word that it touches, and so is a release. -/
def State.leavesFull (s : State) (a n : Nat) (v : Word) : Bool :=
  let full (top : Nat) : Bool :=
    if top < a + n then nbit v.toNat (8 * (top - a) + 7) else nbit (s.num (.spad s.cur.tile) (top % 2 ^ 20) 1) 7
  full (a / 8 * 8 + 7) || full ((a + n - 1) / 8 * 8 + 7)

/-- Whether a write of slot L releases: its RL bit, or a scratchpad store that leaves FULL = 1 (R139). -/
def State.releases (s : State) (rl : Bool) (op : MemOp) : Bool :=
  rl || (match op with
    | .st a n v => s.leavesFull a n v
    | _ => false)

/-- R142, R143: a write of this step's syllable is performed, or waits while its group goes on. -/
def State.slotWrite (s : State) (rl : Bool) (op : MemOp) : State :=
  let rl := s.releases rl op
  if s.defers rl then s.keepMem (s.memRecord op rl) else s.performAs rl s.cur.scope op

/-- ST.B (R310). -/
def execStB (q : BitVec 2) (xs a : BitVec 7) (rl : Bool) (off : BitVec 6) (s : State) : Out :=
  s.syl q fun s => s.slotWrite rl (.st (shortAddr (s.readX a) off 1) 1 (s.readX xs))

/-- ST.B, long form (R310). -/
def execStBLong (q : BitVec 2) (xs a : BitVec 7) (rl : Bool) (imm : BitVec 32) (s : State) : Out :=
  s.syl q fun s => s.slotWrite rl (.st (spadAddr (s.readX a + immOf imm)) 1 (s.readX xs))

/-- ST.H (R310). -/
def execStH (q : BitVec 2) (xs a : BitVec 7) (rl : Bool) (off : BitVec 6) (s : State) : Out :=
  s.syl q fun s => s.slotWrite rl (.st (shortAddr (s.readX a) off 2) 2 (s.readX xs))

/-- ST.H, long form (R310). -/
def execStHLong (q : BitVec 2) (xs a : BitVec 7) (rl : Bool) (imm : BitVec 32) (s : State) : Out :=
  s.syl q fun s => s.slotWrite rl (.st (spadAddr (s.readX a + immOf imm)) 2 (s.readX xs))

/-- ST.W (R310). -/
def execStW (q : BitVec 2) (xs a : BitVec 7) (rl : Bool) (off : BitVec 6) (s : State) : Out :=
  s.syl q fun s => s.slotWrite rl (.st (shortAddr (s.readX a) off 4) 4 (s.readX xs))

/-- ST.W, long form (R310). -/
def execStWLong (q : BitVec 2) (xs a : BitVec 7) (rl : Bool) (imm : BitVec 32) (s : State) : Out :=
  s.syl q fun s => s.slotWrite rl (.st (spadAddr (s.readX a + immOf imm)) 4 (s.readX xs))

/-- ST.D (R310). -/
def execStD (q : BitVec 2) (xs a : BitVec 7) (rl : Bool) (off : BitVec 6) (s : State) : Out :=
  s.syl q fun s => s.slotWrite rl (.st (shortAddr (s.readX a) off 8) 8 (s.readX xs))

/-- ST.D, long form (R310). -/
def execStDLong (q : BitVec 2) (xs a : BitVec 7) (rl : Bool) (imm : BitVec 32) (s : State) : Out :=
  s.syl q fun s => s.slotWrite rl (.st (spadAddr (s.readX a + immOf imm)) 8 (s.readX xs))

/-- STC (R311). -/
def execStc (q : BitVec 2) (xs a : BitVec 7) (sz : BitVec 2) (rl : Bool) (spc : BitVec 2) (s : State) : Out :=
  s.syl q fun s => s.slotWrite rl (.stc (s.aspVA spc (s.readX a)) sz (s.readX xs))

/-- STC, long form (R311). -/
def execStcLong (q : BitVec 2) (xs a : BitVec 7) (sz : BitVec 2) (rl : Bool) (spc : BitVec 2) (imm : BitVec 32) (s : State) : Out :=
  s.syl q fun s => s.slotWrite rl (.stc (s.aspVA spc (s.readX a + immOf imm)) sz (s.readX xs))


/-- AMO (R312). -/
def execAmo (q : BitVec 2) (xdp : BitVec 6) (a : BitVec 7) (op : BitVec 4) (sz aq rl : Bool) (spc : BitVec 2) (s : State) : Out :=
  s.syl q fun s =>
    let xd : BitVec 7 := BitVec.ofNat 7 (2 * xdp.toNat)
    let n := if sz then 64 else 32
    let va := s.aspVA spc (s.readX a)
    s.within [.x xd] fun s =>
      if va.off.toNat % (n / 8) ≠ 0 then s.raiseAt .align va.toNat
      else s.slotWrite rl (.amo xd va op.toNat n ((s.readX xd).toNat % 2 ^ n) ((s.readX (xd + 1)).toNat % 2 ^ n) aq)

/-! ## Flag words -/

/-- FLAGSET (R313). -/
def execFlagset (q : BitVec 2) (a b : BitVec 7) (s : State) : Out :=
  s.syl q fun s =>
    let off := spadAddr (s.readX a)
    if off % 8 ≠ 0 then s.raiseAt .align off
    else s.slotWrite true (.st off 8 (s.readX b ||| 0x8000000000000000))

/-- WAITF (R125, R313): its test follows every write of its cycle, so it is made as the cycle ends. -/
def execWaitf (q : BitVec 2) (d a : BitVec 7) (s : State) : Out :=
  s.syl q fun s =>
    s.within [.x d] fun s =>
      let off := spadAddr (s.readX a)
      if off % 8 ≠ 0 then s.raiseAt .align off
      else
        (s.touchBanks off 8).wait (.waitf d off false none) (.waitf q d a)

/-- FLAGTEST (R313). -/
def execFlagtest (q : BitVec 2) (d a : BitVec 7) (c : BitVec 5) (aq : Bool) (s : State) : Out :=
  s.syl q fun s =>
    s.within [.x d, .c c] fun s =>
      let off := spadAddr (s.readX a)
      if off % 8 ≠ 0 then s.raiseAt .align off
      else
        let s := s.touchBanks off 8
        if s.poisoned (.spad s.cur.tile) off 8 then (s.consumed (.spad s.cur.tile) off s.here.ctx).raiseAt .poison off
        else
          let v := s.num (.spad s.cur.tile) off 8
          (((s.acquire aq (.spad s.cur.tile off (off + 8))).loadResult (.x d) (w64 v) 6).loadResult (.c c) (w64 (b2n (nbit v 63))) 6).acqGate aq

/-! ## Probe, prefetch, fence -/

/-- PROBE (R314): it waits for the group's earlier results and then probes (R265). -/
def execProbe (q : BitVec 2) (a b : BitVec 7) (wr : Bool) (spc : BitVec 2) (s : State) : Out :=
  s.syl q fun s =>
    let va := s.aspVA spc (s.readX a)
    let len := s.readX b
    if len = 0 then s
    else if 2 ^ 64 < va.off.toNat + len.toNat then s.raiseAt .align va.toNat
    else s.wait (.probe va len wr) (.probe q a b wr spc)

/-- One line of a PREF (R314): dropped unless it is resident and cached. -/
def State.prefLine (s : State) (t : Nat) (l1 : Bool) (p : Piece) : State :=
  match s.translate (s.tile t).ctx (some t) (tileDie t) p.va .r false with
  | (s', .resident l a e) => if l1 && pteMtype e != 2 then (s'.l1Read t ⟨l, a, p.len, e, p.va⟩).1 else s'
  | _ => s

/-- PREF (R14, R314): at most the first 64 KiB; it never faults. -/
def execPref (q : BitVec 2) (a b : BitVec 7) (l1 : Bool) (spc : BitVec 2) (s : State) : Out :=
  s.syl q fun s =>
    let va := s.aspVA spc (s.readX a)
    let n := min (s.readX b).toNat 65536
    (linePieces (n / 64 + 2) va.space.toNat va.off.toNat n).foldl (fun s p => s.prefLine s.cur.tile l1 p) s

/-- The effect of a fence of tile t when what it waits for has come: a release (R21), an acquire (R115, R143), and, of a
fence.tot, the next place in the hub's order (R144). -/
def State.fenceDone (s : State) (t : Nat) (op : MemOp) (scope : Nat) : State :=
  match op with
  | .acq => s.acquireFence t scope
  | .rel => s.tileRelease t scope
  | .full => (s.acquireFence t scope).tileRelease t scope
  | .tot => { ((s.acquireFence t scope).tileRelease t scope).hubOrder t with fenceTot := s.fenceTot + 1 }
  | _ => s

/-- R143 for a fence of a scope: its effect, or what it holds back from now on. -/
def State.fence (s : State) (op : MemOp) (scope : Nat) : State :=
  let w := { s.memRecord op false with scope := scope }
  if s.here.memDone w then s.fenceDone s.cur.tile op scope else s.keepMem w

/-- FENCE (R143, R144, R315): a fence.tot acts at PACKAGE scope or wider. -/
def execFence (q kind : BitVec 2) (s : State) : Out :=
  s.syl q fun s =>
    let scope := s.cur.scope
    match kind.toNat with
    | 0 => s.fence .acq scope
    | 1 => s.fence .rel scope
    | 2 => s.fence .full scope
    | _ => s.fence .tot (max 3 scope)

end Sys2Proof.Machine
end

