-- ==== Sys2Proof/Machine/Stream.lean ====
section
/-! DEFINITION. Tensors and streams: descriptors and the layout unit (R58 to R61), formats and blocks (R62, R63, R206 to
R208), bound streams with their pattern, FIFO and side records (R64 to R70), their fill and drain (R68), and the pops and
pushes of engine commands (R333). A memory stream is filled or drained as far as a command needs it while the command
runs, beside the fills and drains that stand as steps of their own (notes/assumptions/7.md). -/
namespace Sys2Proof.Machine

/-! ## Formats -/

/-- Element bits of a format code (R62); none: reserved. -/
def fmtBits (f : Nat) : Option Nat :=
  match f with
  | 0x01 | 0x10 | 0x11 => some 64
  | 0x02 | 0x0E | 0x0F => some 32
  | 0x03 | 0x04 | 0x0C | 0x0D => some 16
  | 0x05 | 0x06 | 0x07 | 0x0A | 0x0B | 0x19 => some 8
  | 0x08 | 0x09 | 0x18 | 0x1C | 0x1D => some 4
  | _ => none

/-- Element bits of an assigned code. -/
def ebits (f : Nat) : Nat := (fmtBits f).getD 8

/-- A block format (R62): block extents along axes 0 and 1, side record bytes. -/
structure Block where
  e0 : Nat
  e1 : Nat
  recB : Nat
  deriving DecidableEq, Repr

/-- The block of a format code. -/
def fmtBlock (f : Nat) : Option Block :=
  match f with
  | 0x18 => some ⟨32, 1, 2⟩
  | 0x19 => some ⟨32, 1, 1⟩
  | 0x1C | 0x1D => some ⟨64, 64, 192⟩
  | _ => none

/-- The floating format of a code, if it is one (R201). -/
def fmtFloat (f : Nat) : Option Fmt :=
  match f with
  | 0x01 => some fp64
  | 0x02 => some fp32
  | 0x03 => some fp16
  | 0x04 => some bf16
  | 0x05 => some e4m3
  | 0x06 => some e5m2
  | _ => none

/-- The integer format of a code, if it is one (R203): width and whether it is signed. -/
def fmtInt (f : Nat) : Option (Nat × Bool) :=
  match f with
  | 0x08 => some (4, true)
  | 0x09 => some (4, false)
  | 0x0A => some (8, true)
  | 0x0B => some (8, false)
  | 0x0C => some (16, true)
  | 0x0D => some (16, false)
  | 0x0E => some (32, true)
  | 0x0F => some (32, false)
  | 0x10 => some (64, true)
  | 0x11 => some (64, false)
  | _ => none

/-- The range of an integer format. -/
def intLo (w : Nat × Bool) : Int := if w.2 then -2 ^ (w.1 - 1) else 0
def intHi (w : Nat × Bool) : Int := if w.2 then 2 ^ (w.1 - 1) - 1 else 2 ^ w.1 - 1

/-- The integer that a code of an integer format holds. -/
def intOf (w : Nat × Bool) (c : Nat) : Int := if w.2 then sgn w.1 c else (c % 2 ^ w.1 : Nat)

/-- The value of an E8M0 scale byte (R204); none: the NaN scale. -/
def e8m0 (b : Nat) : Option Int := if b = 0xFF then none else some ((b : Int) - 127)

/-! ## Tensor descriptors -/

/-- The fields of a 512-bit tensor descriptor (R58). -/
def tdBase (d : Nat) : Nat := bits d 0 80
def tdSize (d : Nat) : Nat := bits d 128 4
def tdRank (d : Nat) : Nat := bits d 132 4
def tdFmt (d : Nat) : Nat := bits d 136 6
def tdPad (d : Nat) : Bool := nbit d 142
def tdLE (d k : Nat) : Nat := bits d (144 + 5 * k) 5
def tdN (d k : Nat) : Nat := bits d (192 + 32 * k) 32
def tdScBase (d : Nat) : Nat := bits d 384 80

/-- R59, R63: whether a descriptor is valid; one whose BASE is not aligned to the tile size is not (DESIGN CHOICE,
notes/assumptions/91.md). -/
def tdValid (d : Nat) : Bool :=
  let r := tdRank d
  let axes := List.range 6
  1 ≤ r && r ≤ 6 && (fmtBits (tdFmt d)).isSome && tdSize d ≤ 11 && !nbit d 143 && bits d 174 18 == 0 &&
    bits d 80 48 == 0 && bits d 464 48 == 0 &&
    axes.all (fun k => if k < r then tdN d k != 0 else tdLE d k == 0 && tdN d k == 0) &&
    (axes.map (tdLE d)).sum + Nat.log2 (ebits (tdFmt d)) == pageLog (tdSize d) + 3 &&
    tdBase d % pageBytes (tdSize d) == 0 &&
    (match fmtBlock (tdFmt d) with
     | none => tdScBase d == 0
     | some b =>
       tdScBase d != 0 &&
         (if b.e1 = 1 then 5 ≤ tdLE d 0 && tdN d 0 % 32 == 0
          else tdLE d 0 == 6 && 6 ≤ tdLE d 1 && tdN d 0 % 64 == 0 && 2 ≤ r))

/-- R60 over the axes from k on: tile number and element index in the tile. -/
def layoutFrom (d : Nat) (c : List Nat) : Nat → Nat → Nat → Nat → Nat → Nat → Nat × Nat
  | 0, _, n, o, _, _ => (n, o)
  | f + 1, k, n, o, ngrid, ninner =>
    let e := 2 ^ tdLE d k
    let x := nth 0 c k
    layoutFrom d c f (k + 1) (n + x / e * ngrid) (o + x % e * ninner) (ngrid * ceilDiv (tdN d k) e) (ninner * e)

/-- R60: tile number and element index in the tile of an in-bounds coordinate. -/
def layout (d : Nat) (c : List Nat) : Nat × Nat := layoutFrom d c (tdRank d) 0 0 0 1 1

/-- Whether a coordinate lies within the tensor (R61). -/
def inBounds (d : Nat) (c : List Int) : Bool :=
  (List.range (tdRank d)).all fun k => 0 ≤ nth 0 c k && nth 0 c k < tdN d k

/-- The bit address of an element in the virtual space (R49, R60, R62). -/
def elemBit (d : Nat) (c : List Nat) : Nat :=
  let p := layout d c
  (tdBase d + p.1 * pageBytes (tdSize d)) * 8 + p.2 * ebits (tdFmt d)

/-- The VA of the side record of the block that holds a coordinate (R63). -/
def sideVA (d : Nat) (b : Block) (c : List Nat) : Nat :=
  let c := c.zipIdx.map fun p => if p.2 = 0 then p.1 / b.e0 * b.e0 else if p.2 = 1 then p.1 / b.e1 * b.e1 else p.1
  let blkBytes := b.e0 * b.e1 * ebits (tdFmt d) / 8
  tdScBase d + (elemBit d c / 8 - tdBase d) / blkBytes * b.recB

/-! ## Patterns -/

/-- A pattern of R64: the fields of `D.0` to `D.11` that its elements need. -/
structure Pat where
  kind : Nat
  dir : Bool
  fmt : Nat
  ndim : Nat
  idim : Nat
  tid : Nat
  tag : Nat
  tagv : Bool
  rtile : Nat
  base : Nat
  flen : Nat
  scoff : Nat
  ixtab : Nat
  scstr : Nat
  org : List Nat
  dims : List (Nat × Nat × Int)
  deriving DecidableEq, Repr

/-- The pattern of twelve staging words (R64): dimension k has its count, its axis, its step. -/
def patOf (w : List Word) : Pat :=
  let d (k : Nat) : Nat := (nth 0 w k).toNat
  { kind := bits (d 0) 0 2
    dir := nbit (d 0) 2
    fmt := bits (d 0) 3 6
    ndim := bits (d 0) 9 3
    idim := bits (d 0) 12 3
    tid := bits (d 0) 16 16
    tag := bits (d 0) 32 6
    tagv := nbit (d 0) 38
    rtile := bits (d 0) 40 2
    base := bits (d 1) 0 20
    flen := bits (d 1) 24 13
    scoff := bits (d 2) 0 20
    ixtab := bits (d 2) 20 20
    scstr := bits (d 2) 40 8
    org := (List.range 6).map fun a => bits (d (3 + a / 2)) (a % 2 * 32) 32
    dims := (List.range (min (bits (d 0) 9 3 + 1) 6)).map fun k =>
      (bits (d (6 + k)) 0 16, bits (d (6 + k)) 16 3, sgn 32 (bits (d (6 + k)) 32 32)) }

/-- The number of elements of a pattern. -/
def Pat.total (p : Pat) : Nat := (p.dims.map (·.1)).prod

/-- The indices of pattern position n, dimension 0 fastest (R65). -/
def Pat.index (p : Pat) (n : Nat) : List Nat :=
  (p.dims.foldl (fun (r : List Nat × Nat) d => (r.1 ++ [r.2 % d.1], r.2 / d.1)) ([], n)).1

/-- The address of a region's element in bits (R65). -/
def Pat.regionBit (p : Pat) (n : Nat) : Int :=
  let unit : Int := if ebits p.fmt = 4 then 4 else 8
  p.base * 8 + ((p.dims.zip (p.index n)).map fun d => (d.2 : Int) * d.1.2.2 * unit).sum

/-- The coordinate of a memory pattern's element (R65); `tab`: the indirect table's entries. -/
def Pat.coord (p : Pat) (tab : Nat → Nat) (n : Nat) : List Int :=
  ((p.dims.zip (p.index n)).zipIdx).foldl
    (fun c d =>
      let v : Int := if d.2 = p.idim then tab d.1.2 else d.1.2
      let a := d.1.1.2.1
      setNth c a (i64 (nth 0 c a + v * d.1.1.2.2)).toInt)
    (p.org.map fun (o : Nat) => (o : Int))

/-- The dimension that walks an axis (R65): of a memory pattern the first on it, of a region the one of its number. -/
def Pat.dimOn (p : Pat) (a : Nat) : Option Nat :=
  if p.kind = 1 then (List.range p.dims.length).find? fun k => (nth (0, 0, 0) p.dims k).2.1 == a
  else if a < p.dims.length then some a else none

/-- The extent of a pattern's blocks along a dimension (R62, R65). -/
def Pat.blockExt (p : Pat) (b : Block) (k : Nat) : Nat :=
  if p.dimOn 0 = some k then b.e0 else if b.e1 != 1 && p.dimOn 1 == some k then b.e1 else 1

/-- The block's number in pattern order and the place in its block of position n (R67, R208). -/
def Pat.blockAt (p : Pat) (b : Block) (n : Nat) : Nat × Nat :=
  let j := p.index n
  let num := (List.range p.dims.length).foldr
    (fun k r => nth 0 j k / p.blockExt b k + ceilDiv (nth (1, 0, 0) p.dims k).1 (p.blockExt b k) * r) 0
  let at' (a : Nat) : Nat := ((p.dimOn a).map (nth 0 j ·)).getD 0
  (num, (if b.e1 = 1 then 0 else at' 1 % b.e1 * b.e0) + at' 0 % b.e0)

/-- The blocks that a pattern walks side by side (R65): those of the dimensions before the last that a block spans. -/
def Pat.abreast (p : Pat) (b : Block) : Nat :=
  let last := max ((p.dimOn 0).getD 0) (if b.e1 = 1 then 0 else (p.dimOn 1).getD 0)
  ((List.range last).map fun k => ceilDiv (nth (1, 0, 0) p.dims k).1 (p.blockExt b k)).prod

/-- R64: the reserved bits of twelve staging words, and the fields reserved for the stream's kind and format, are 0. -/
def patReservedOk (w : List Word) : Bool :=
  let d (k : Nat) : Nat := (nth 0 w k).toNat
  let p := patOf w
  let mem := p.kind == 1
  let blk := (fmtBlock p.fmt).isSome
  p.kind != 3 && bits (d 0) 15 1 == 0 && bits (d 0) 39 1 == 0 && bits (d 0) 42 22 == 0 && bits (d 1) 20 4 == 0 &&
    bits (d 1) 37 27 == 0 && bits (d 2) 48 16 == 0 && p.ndim ≤ 5 && p.idim != 6 &&
    (List.range 6).all (fun k => if k ≤ p.ndim then bits (d (6 + k)) 19 13 == 0 else d (6 + k) == 0) &&
    (mem || (p.tid == 0 && p.org.all (· == 0) && p.dims.all (fun x => x.2.1 == 0) && p.ixtab == 0 && p.flen == 0)) &&
    (!(mem && p.idim == 7) || p.ixtab == 0) && (p.kind == 2 || p.rtile == 0) && (blk || (p.scoff == 0 && p.scstr == 0)) &&
    (mem || p.idim == 7) && p.tid < 4096

/-- The extreme bit addresses of a region pattern (R66). -/
def Pat.extreme (p : Pat) (hi : Bool) : Int :=
  let unit : Int := if ebits p.fmt = 4 then 4 else 8
  p.base * 8 + (p.dims.map fun d => if (0 < d.2.2) == hi then ((d.1 : Int) - 1) * d.2.2 * unit else 0).sum

/-- R65: the block conditions of a pattern. Along axis 1 of a region, whose STEP is a distance in the scratchpad, only the
COUNT is held to the extent; a further dimension of a memory stream on the same axis steps by whole blocks
(notes/assumptions/77.md). -/
def Pat.blockOk (p : Pat) : Bool :=
  match fmtBlock p.fmt with
  | none => true
  | some b =>
    let walks (a e : Nat) : Bool :=
      match p.dimOn a with
      | none => false
      | some k =>
        let d := nth (0, 0, 0) p.dims k
        d.1 % e == 0 && (d.2.2 == 1 || (p.kind != 1 && a == 1)) && (p.kind != 1 || nth 0 p.org a % e == 0) &&
          (p.kind != 1 || p.dims.zipIdx.all fun q => q.1.2.1 != a || q.2 == k || q.1.2.2 % e == 0)
    walks 0 b.e0 && (b.e1 == 1 || walks 1 b.e1)

/-- The side records that a stream keeps in the scratchpad: one per block of a region, one per block of a FIFO (R67). -/
def Pat.sideCount (p : Pat) (b : Block) : Nat :=
  let blkBytes := b.e0 * b.e1 * ebits p.fmt / 8
  if p.kind = 1 then p.flen * 256 / blkBytes else p.total / (b.e0 * b.e1)

/-- R66's tests but for those of the tensor descriptor and the register. Of a memory pattern whose IDIM names a dimension above
NDIM no table is tested: it has no indirect dimension (DESIGN CHOICE, notes/assumptions/101.md). -/
def Pat.ok (p : Pat) (t : Nat) : Bool :=
  let eb := ebits p.fmt
  (fmtBits p.fmt).isSome && p.dims.all (fun d => d.1 != 0) && p.total < 2 ^ 48 &&
    (p.kind != 2 || (p.rtile != t % 4 && !p.dir)) &&
    (if p.kind = 1 then
      1 ≤ p.flen && p.flen ≤ 4096 && p.base + p.flen * 256 ≤ 2 ^ 20 &&
        (p.ndim < p.idim || (p.ixtab % 4 == 0 && p.ixtab + 4 * (nth (0, 0, 0) p.dims p.idim).1 ≤ 2 ^ 20))
     else 0 ≤ p.extreme false && p.extreme true + eb ≤ 2 ^ 23) &&
    p.blockOk &&
    (match fmtBlock p.fmt with
     | none => true
     | some b => b.recB ≤ p.scstr && p.scoff + (p.sideCount b - 1) * p.scstr + b.recB ≤ 2 ^ 20 && p.sideCount b != 0)

/-! ## Copies: what they name -/

/-- The fields of `D.12` to `D.15` (R318), and whether their reserved bits are 0. -/
structure CopyArgs where
  epa : Nat
  epb : Nat
  len : Nat
  flag : Nat
  arg : Nat
  rsvd : Bool
  deriving DecidableEq, Repr

/-- R318's fields of sixteen staging words; `ops`: EPB is an OPS address. -/
def copyArgs (w : List Word) (ops : Bool) : CopyArgs :=
  let d (k : Nat) : Nat := (nth 0 w k).toNat
  { epa := bits (d 12) 0 40
    epb := d 13
    len := bits (d 14) 0 24
    flag := bits (d 14) 24 20
    arg := d 15
    rsvd := bits (d 12) 40 24 == 0 && bits (d 14) 44 20 == 0 && (!ops || bits (d 13) 40 24 == 0) }

/-- A copy descriptor (R319): the pattern of its memory side, the scratchpad side's base and pitch. -/
structure CopyPat where
  p : Pat
  sbase : Nat
  spitch : Nat
  rsvd : Bool
  deriving DecidableEq, Repr

/-- R319's descriptor in twelve staging words. -/
def copyPat (w : List Word) : CopyPat :=
  let d (k : Nat) : Nat := (nth 0 w k).toNat
  -- the same words as a memory stream's descriptor: KIND 1, and no field of D.0[63:32] or D.1 but FBASE
  let m := w64 (putBits (bits (d 0) 0 32) 0 3 1) :: w64 (bits (d 1) 0 20) :: w.drop 2
  { p := patOf m
    sbase := bits (d 1) 0 20
    spitch := bits (d 1) 24 22
    rsvd := patReservedOk m && bits (d 0) 0 3 == 0 && bits (d 0) 32 32 == 0 && bits (d 1) 20 4 == 0 && bits (d 1) 46 18 == 0 }

/-- Elements of a dimension-0 run. -/
def Pat.run (p : Pat) : Nat := (p.dims.headD (1, 0, 0)).1

/-- The bit address of the scratchpad side of pattern position n (R319). -/
def CopyPat.spadBit (c : CopyPat) (n : Nat) : Nat :=
  let eb := ebits c.p.fmt
  if c.spitch = 0 then c.sbase * 8 + n * eb else (c.sbase + n / c.p.run * c.spitch) * 8 + n % c.p.run * eb

/-- The end of the scratchpad side in bits. -/
def CopyPat.spadEnd (c : CopyPat) : Nat := c.spadBit (c.p.total - 1) + ebits c.p.fmt

/-- The scratchpad offset of the side record of block i (R319). -/
def CopyPat.sideAt (c : CopyPat) (i : Nat) : Nat := c.p.scoff + i * c.p.scstr

/-- The parts of an OPS address (R22). -/
structure OpsAddr where
  die : Nat
  tile : Nat
  win : Nat
  off : Nat
  deriving DecidableEq, Repr

/-- The parts of an OPS address; the tile is the package's number of it. -/
def opsParts (a : Nat) : OpsAddr :=
  ⟨bits a 37 3, bits a 37 3 * 128 + bits a 32 5 * 4 + bits a 30 2, bits a 27 3, bits a 0 27⟩

/-- The eight words of a tensor descriptor as one number. -/
def descOf (w : List Word) : Nat := w.foldr (fun x r => x.toNat + 2 ^ 64 * r) 0

/-- The tiles of an MCAST (R320). -/
def mcastTiles (t : Nat) (mask : BitVec 4) : List Nat :=
  ((List.range 4).filter fun k => mask.getLsbD k).map fun k => t / 4 * 4 + k

/-- A range of the OPS address space (false) or of the virtual space (true). -/
structure Span where
  va : Bool
  lo : Nat
  hi : Nat
  deriving DecidableEq, Repr

/-- Whether two ranges share a byte. -/
def Span.meets (r w : Span) : Bool := r.va == w.va && r.lo < w.hi && w.lo < r.hi

/-- The span of a tensor's tiles, and of its side plane (R49, R60, R63). -/
def tensorSpans (d : Nat) : List Span :=
  let tiles := ((List.range (tdRank d)).map fun k => ceilDiv (tdN d k) (2 ^ tdLE d k)).prod * pageBytes (tdSize d)
  let base : List Span := [⟨true, tdBase d, tdBase d + tiles⟩]
  match fmtBlock (tdFmt d) with
  | none => base
  | some b => base ++ [⟨true, tdScBase d, tdScBase d + tiles * 8 / (b.e0 * b.e1 * ebits (tdFmt d)) * b.recB⟩]

/-- The scratchpad side of a tensor copy for a tile (R319). -/
def CopyPat.spans (c : CopyPat) (t : Nat) : List Span :=
  ⟨false, opsAddr t 0 c.sbase, opsAddr t 0 ((c.spadEnd + 7) / 8)⟩ ::
    (match fmtBlock c.p.fmt with
     | none => []
     | some b => [⟨false, opsAddr t 0 c.p.scoff, opsAddr t 0 (c.sideAt (c.p.total / (b.e0 * b.e1) - 1) + b.recB)⟩])

/-- The indirect table that a tensor copy of tile t reads (R73, R319). -/
def CopyPat.table (c : CopyPat) (t : Nat) : List Span :=
  if c.p.idim ≤ c.p.ndim then
    [⟨false, opsAddr t 0 c.p.ixtab, opsAddr t 0 (c.p.ixtab + 4 * (nth (0, 0, 0) c.p.dims c.p.idim).1)⟩]
  else []

/-- What a started copy of tile t reads, its indirect table among it, and what it writes (R318 to R320, R329). -/
def Copy.spans (t : Nat) (c : Copy) : List Span × List Span :=
  let a := copyArgs c.cmd.stg false
  let o := copyArgs c.cmd.stg true
  let mem : Span := ⟨true, VA.toNat ⟨c.cmd.asp, w64 a.epb⟩, VA.toNat ⟨c.cmd.asp, w64 a.epb⟩ + a.len⟩
  let spad (k : Nat) : Span := ⟨false, opsAddr k 0 a.epa, opsAddr k 0 (a.epa + a.len)⟩
  let p := copyPat c.cmd.stg
  let td := tensorSpans (descOf c.cmd.xv)
  match c.cmd.i with
  | .cpyin _ _ _ _ _ lin _ => if lin then ([mem], [spad t]) else (td ++ p.table t, p.spans t)
  | .mcast _ _ _ _ _ lin _ m =>
    if lin then ([mem], (mcastTiles t m).map spad) else (td ++ p.table t, (mcastTiles t m).flatMap p.spans)
  | .cpyout _ _ _ _ _ lin _ => if lin then ([spad t], [mem]) else (p.spans t ++ p.table t, td)
  | .cpyss _ _ _ _ _ | .cpyr _ _ _ _ =>
    let flag := opsAddr (opsParts o.epb).tile 0 o.flag
    ([⟨false, o.epa, o.epa + o.len⟩],
      ⟨false, o.epb, o.epb + o.len⟩ :: (match c.cmd.i with
        | .cpyr _ _ _ _ => [⟨false, flag, flag + 8⟩]
        | _ => []))
  | .send _ _ _ _ => ([⟨false, opsAddr t 0 a.epa, opsAddr t 0 (a.epa + a.len)⟩], [])
  | _ => ([], [])

/-- R147: whether a copy of the tile's instance that issued before place ord, not yet complete, writes bytes of a range. What a
tensor CPYOUT writes is known from its start on. -/
def Tile.copyWrites (x : Tile) (t ord : Nat) (r : Span) : Bool :=
  x.copyQ.any fun d => d.cmd.ord < ord && d.task == x.task &&
    ((d.spans t).2.any (fun w => r.meets w) || (r.va && d.phase == 0 && (match d.cmd.i with
      | .cpyout _ _ _ _ _ lin _ => !lin
      | _ => false)))

/-- R147: whether a fill of a bound stream, n bytes at a virtual address, waits for copies pushed before the BIND. -/
def fillHeld (s : State) (t : Nat) (q : Stream) (va n : Nat) : Bool := (s.tile t).copyWrites t q.ord ⟨true, va, va + n⟩

/-! ## Engine effects -/

/-- What the access of an engine command may wait for: the collapse of the read-duplicated page at va with leaf e, which its
write joins (R56), the exit of bank b of tile t from retention (R112), or the end of earlier copies that write what it reads
(R147). -/
inductive EngStall where
  | collapse (va e : Nat) (w : StalledWrite)
  | bank (t b : Nat)
  | copies
  deriving DecidableEq, Repr

/-- How an engine command fails: the cause, the failing VA, the stream, whether the tile-walk engine raised it; or, as
`stall`, what it waits for: then nothing is raised, and the command is performed again. -/
structure EngErr where
  cause : Cause
  fva : Nat
  fq : Option (BitVec 5)
  tw : Bool
  stall : Option EngStall
  deriving DecidableEq, Repr

/-- The effect of an engine command: what it has done stands when it fails (R333). -/
abbrev EngM := ExceptT EngErr (StateM State)

/-- An engine command's failure. -/
def eng {α : Type} (c : Cause) (fq : Option (BitVec 5)) : EngM α := throw ⟨c, 0, fq, false, none⟩

/-- R112: an access to n bytes at a location waits while a bank is not out of retention. -/
def bankM (l : Loc) (a n : Nat) : EngM Unit := do
  match l with
  | .spad k =>
    match ((← get).tile k).bankHeld a n with
    | some b => throw ⟨.engine, 0, none, true, some (.bank k b)⟩
    | none => pure ()
  | _ => pure ()

/-- The bytes of an element of eb bits. -/
def elemBytes (eb : Nat) : Nat := if eb = 4 then 1 else eb / 8

/-- R73, R112: the entry of a pattern's indirect table for position k is read. -/
def ixM (t : Nat) (p : Pat) (k : Nat) : EngM Unit :=
  if p.idim < p.dims.length then bankM (.spad t) (p.ixtab + 4 * nth 0 (p.index k) p.idim) 4 else pure ()

/-- The failure of a fill, a drain or a copy at an address (R50). -/
def twFail {α : Type} (o : Tr) (va : Nat) (fq : Option (BitVec 5)) : EngM α := throw ⟨(o.fatal true).getD .access, va, fq, true, none⟩

/-- An element as an engine takes it: its code, for a block format the side record and the place in the block, and
whether it is poisoned. -/
structure Elem where
  code : Nat
  side : List Byte
  place : Nat
  poison : Bool
  deriving DecidableEq, Repr

/-- An element's bits at a bit address of a location, and its poison. -/
def State.elemAt (s : State) (l : Loc) (ba eb : Nat) : Nat × Bool :=
  if eb = 4 then ((s.byte l (ba / 8)).toNat / 2 ^ (ba % 8) % 16, s.poisoned l (ba / 8) 1)
  else (s.num l (ba / 8) (eb / 8), s.poisoned l (ba / 8) (eb / 8))

/-- An element's bits written at a bit address of a location. -/
def State.putElem (s : State) (l : Loc) (ba eb code : Nat) (poison : Bool) (asid : Nat) : State :=
  if eb = 4 then
    let old := (s.byte l (ba / 8)).toNat
    s.storeRaw l (ba / 8) [(BitVec.ofNat 8 (putBits old (ba % 8) 4 code), poison)] asid
  else s.storeRaw l (ba / 8) ((leBytes (eb / 8) code).map fun b => (b, poison)) asid

/-- The tile whose scratchpad holds a stream's data: RTILE's for a cluster-remote stream (R72). -/
def Pat.dataTile (p : Pat) (t : Nat) : Nat := if p.kind = 2 then t / 4 * 4 + p.rtile else t

/-- The bit address in the scratchpad at which position n stands: in the region, or in the FIFO (R68). -/
def Pat.spadBit (p : Pat) (n : Nat) : Nat :=
  if p.kind = 1 then p.base * 8 + n * ebits p.fmt % (p.flen * 2048) else (p.regionBit n).toNat

/-- The scratchpad offset of the side record of block i (R67). -/
def Pat.sideAt (p : Pat) (b : Block) (i : Nat) : Nat :=
  p.scoff + (if p.kind = 1 then i % p.sideCount b else i) * p.scstr

/-- The zero block's side record (R61). -/
def zeroSide (f : Nat) : List Byte :=
  match f with
  | 0x18 => [0x7F, 0]
  | 0x19 => [0x7F]
  | _ => (List.replicate 64 [0x00, 0x3C]).flatten ++ List.replicate 33 0 ++ [64] ++ List.replicate 30 0

/-- The stream register n of a tile, if it is bound. -/
def Tile.stream (x : Tile) (n : BitVec 5) : Option Stream := mget? x.qs n.toNat

/-- A tile with a stream register changed. -/
def Tile.setStream (x : Tile) (n : BitVec 5) (q : Stream) : Tile := { x with qs := mput x.qs n.toNat q }

/-- The indirect table of a pattern in tile t's scratchpad (R73). An entry with poison is used as it stands (DESIGN CHOICE,
notes/assumptions/103.md). -/
def State.ixTable (s : State) (t : Nat) (p : Pat) (j : Nat) : Nat := s.num (.spad t) (p.ixtab + 4 * j) 4

/-- R73: the entry that a bound stream's fetch takes: what the table holds, or, of an entry written after BIND, either that
or a former value. -/
def State.ixLookup (s : State) (t : Nat) (q : Stream) (j : Nat) : Nat :=
  let now := s.ixTable t (patOf q.desc) j
  match q.ixOld.filter fun r => r.1 == j with
  | [] => now
  | os => nth now (os.map Prod.snd) ((s.free (2 ^ 27 + j)).toNat % (os.length + 1))

/-- R69: the tag of a stream whose last element has arrived or been written. -/
def Tile.streamTag (x : Tile) (n : BitVec 5) (q : Stream) : Tile :=
  let p := patOf q.desc
  if p.tagv && !q.tagDone then (x.tagDone p.tag).setStream n { q with tagDone := true } else x

/-- One byte read of n bytes by the tile-walk engine (R68). -/
def twRead (t : Nat) (va n : Nat) (fq : Option (BitVec 5)) : EngM (List (Byte × Bool)) := do
  let s ← get
  match s.vaRead (s.tile t).ctx (some t) (tileDie t) (VA.ofNat va) n .r with
  | (s, .ok b) =>
    set (s.updTile t Tile.wdTouch)
    return b
  | (s, .error (o, a)) =>
    set s
    twFail o a fq

/-- A write of bytes by the tile-walk engine for the command with a place in the issue order (R68); one to a read-duplicated page
stalls on the page's collapse (R56). -/
def twWrite (t ord : Nat) (va : Nat) (bs : List (Byte × Bool)) (fq : Option (BitVec 5)) : EngM Unit := do
  let s ← get
  let c := (s.tile t).ctx
  match s.translateAll c (some t) (tileDie t) .w (s.tileExt t) (vaPieces (VA.ofNat va) bs.length) with
  | (s, .ok gs) =>
    match s.collapsing c gs with
    | some g => throw ⟨.access, va, fq, true, some (.collapse g.va g.e ⟨t, 8, va, bs.map Prod.fst⟩)⟩
    | none => set (((s.writeSegs c (s.byCmd t ord) gs bs).l1Alias t gs).updTile t fun x => (x.l1Drop va bs.length).wdTouch)
  | (s, .error (o, a)) =>
    set s
    twFail o a fq

/-- An element read from memory at its bit address. -/
def twReadElem (t ba eb : Nat) (fq : Option (BitVec 5)) : EngM (Nat × Bool) := do
  let b ← twRead t (ba / 8) (if eb = 4 then 1 else eb / 8) fq
  let v := leNat (b.map Prod.fst)
  return (if eb = 4 then v / 2 ^ (ba % 8) % 16 else v, b.any Prod.snd)

/-- An element written to memory at its bit address. -/
def twWriteElem (t ord ba eb code : Nat) (poison : Bool) (fq : Option (BitVec 5)) : EngM Unit := do
  if eb = 4 then
    let b ← twRead t (ba / 8) 1 fq
    twWrite t ord (ba / 8) [(BitVec.ofNat 8 (putBits (leNat (b.map Prod.fst)) (ba % 8) 4 code), poison)] fq
  else twWrite t ord (ba / 8) ((leBytes (eb / 8) code).map fun b => (b, poison)) fq

/-- Whether an out-of-bounds element of a KQ4 tensor is an absent token of its last block (R63). A write to one is dropped
without ENGINE, which R63 does not say of writes (notes/assumptions/81.md). -/
def absentToken (d : Nat) (c : List Int) : Bool :=
  (tdFmt d == 0x1C || tdFmt d == 0x1D) &&
    inBounds d (c.zipIdx.map fun p => if p.2 = 1 then p.1 / 64 * 64 else p.1)

/-- R68: the next element of a memory input stream fetched into its FIFO, with its block's side record. Outside an E8M0 tensor, whose
format has no zero (R204), PAD = 1 gives code 0 (DESIGN CHOICE, notes/assumptions/102.md). -/
def streamFillOne (t : Nat) (n : BitVec 5) (q : Stream) : EngM Unit := do
  let p := patOf q.desc
  let d := q.tdesc
  let k := q.wpos
  ixM t p k
  let s ← get
  let c := p.coord (s.ixLookup t q) k
  let cn := c.map Int.toNat
  let asid := (s.tile t).ctx
  let ok := inBounds d c
  if !ok && !absentToken d c && !tdPad d then throw ⟨.engine, 0, some n, true, none⟩
  if ok && fillHeld s t q (elemBit d cn / 8) (elemBytes (ebits p.fmt)) then throw ⟨.engine, 0, none, true, some .copies⟩
  let e ← if ok then twReadElem t (elemBit d cn) (ebits p.fmt) (some n) else pure (0, false)
  bankM (.spad t) (p.spadBit k / 8) (elemBytes (ebits p.fmt))
  modify fun s => s.putElem (.spad t) (p.spadBit k) (ebits p.fmt) e.1 e.2 asid
  match fmtBlock p.fmt with
  | some b =>
    let bp := p.blockAt b k
    if bp.2 = 0 then
      if ok && fillHeld s t q (sideVA d b cn) b.recB then throw ⟨.engine, 0, none, true, some .copies⟩
      let r ← if ok then twRead t (sideVA d b cn) b.recB (some n) else pure ((zeroSide p.fmt).map fun x => (x, false))
      bankM (.spad t) (p.sideAt b bp.1) b.recB
      modify fun s => s.storeRaw (.spad t) (p.sideAt b bp.1) r asid
  | none => pure ()
  let fin := k + 1 == p.total
  modify fun s => s.updTile t fun x =>
    let q := { q with wpos := k + 1, wdone := fin }
    let x := x.setStream n q
    if fin then x.streamTag n q else x

/-- R147, R148: what follows the drain of an output stream's last element: its release, if its BIND has REL, and its tag. -/
def State.streamReleases (s : State) (t : Nat) (q : Stream) : State :=
  let p := patOf q.desc
  let s := if q.rel then s.cmdRelease t q.ord q.scope (s.tile t).task else s
  if p.tagv then s.tagSees t q.ord p.tag else s

/-- R68: the next element of a memory output stream drained to memory; REL is applied after the last (R148). -/
def streamDrainOne (t : Nat) (n : BitVec 5) (q : Stream) : EngM Unit := do
  let p := patOf q.desc
  let d := q.tdesc
  let k := q.wpos
  let skip := q.skips.any fun r => r.1 ≤ k && k < r.1 + r.2
  if !skip then ixM t p k
  let s ← get
  let c := p.coord (s.ixLookup t q) k
  let cn := c.map Int.toNat
  if !skip then
    if inBounds d c then
      bankM (.spad t) (p.spadBit k / 8) (elemBytes (ebits p.fmt))
      let e := s.elemAt (.spad t) (p.spadBit k) (ebits p.fmt)
      twWriteElem t q.ord (elemBit d cn) (ebits p.fmt) e.1 e.2 (some n)
      match fmtBlock p.fmt with
      | some b =>
        let bp := p.blockAt b k
        if bp.2 = 0 then
          bankM (.spad t) (p.sideAt b bp.1) b.recB
          let s ← get
          twWrite t q.ord (sideVA d b cn) (s.bytesP (.spad t) (p.sideAt b bp.1) b.recB) (some n)
      | none => pure ()
    else if !absentToken d c && !tdPad d then throw ⟨.engine, 0, some n, true, none⟩
  let fin := k + 1 == p.total
  modify fun s => (if fin then s.streamReleases t q else s).updTile t fun x =>
    let q := { q with wpos := k + 1, wdone := fin }
    let x := x.setStream n q
    if fin then x.streamTag n q else x

/-- The elements that a FIFO holds (R68). -/
def Pat.fifo (p : Pat) : Nat := p.flen * 2048 / ebits p.fmt

/-- The elements of the blocks that a pattern walks side by side; 1 where its format has no blocks. -/
def Pat.blockElems (p : Pat) : Nat := match fmtBlock p.fmt with
  | some b => b.e0 * b.e1 * p.abreast b
  | none => 1

/-- R67, R68: whether a FIFO has permits for position k while the elements from position `done` on are in use: a free place,
and, at the first element of a block, a side record whose block is done with. -/
def Pat.permit (p : Pat) (done k : Nat) : Bool :=
  k < done + p.fifo && (match fmtBlock p.fmt with
    | some b => (p.blockAt b k).1 < done / p.blockElems * p.abreast b + p.sideCount b
    | none => true)

/-- Elements drained until an output stream has the permit for a position (R68), at most f. -/
def drainFor (t : Nat) (n : BitVec 5) (k : Nat) : Nat → EngM Unit
  | 0 => pure ()
  | f + 1 => do
    match ((← get).tile t).stream n with
    | some q =>
      if q.wpos < q.epos ∧ !(patOf q.desc).permit q.wpos k then
        streamDrainOne t n q
        drainFor t n k f
    | none => pure ()

/-- R71: the scratchpad of tile t as a bound region stream finds it where one of its elements is at the n bytes at a: what an
ordinary write has spoilt of them is undefined for the rest of the binding, whatever another stream has written there since. -/
def State.spoiltFor (s : State) (t : Nat) (q : Stream) (a n : Nat) : State :=
  if bits (nth 0 q.desc 0).toNat 0 2 = 0 then
    (q.spoilt.filter fun r => r.1 < a + n && a < r.2).foldl (fun s r => s.undefine (.spad t) r.1 (r.2 - r.1)) s
  else s

/-- FILL of a stream register in bytes (R67). -/
def Stream.fill (q : Stream) : Nat :=
  let p := patOf q.desc
  if p.kind = 1 then (if p.dir then q.epos - q.wpos else q.wpos - q.epos) * ebits p.fmt / 8 else 0

/-- R65, R69: the next element of an input stream popped. The side records of a cluster-remote stream are those of RTILE's
scratchpad (R72, notes/assumptions/81.md). A FIFO that holds fewer blocks than its pattern walks side by side stops no element
(DESIGN CHOICE, notes/assumptions/90.md). -/
def popElem (t : Nat) (n : BitVec 5) : EngM Elem := do
  let s ← get
  match (s.tile t).stream n with
  | none => eng .engine (some n)
  | some q =>
    let p := patOf q.desc
    if p.total ≤ q.epos then eng .engine (some n)
    if p.kind = 1 ∧ q.wpos ≤ q.epos then streamFillOne t n q
    let k := q.epos
    let l : Loc := .spad (p.dataTile t)
    let s := (← get).readFrom (p.dataTile t)
    bankM l (p.spadBit k / 8) (elemBytes (ebits p.fmt))
    match fmtBlock p.fmt with
    | some b => bankM l (p.sideAt b (p.blockAt b k).1) b.recB
    | none => pure ()
    let e := (s.spoiltFor t q (p.spadBit k / 8) (elemBytes (ebits p.fmt))).elemAt l (p.spadBit k) (ebits p.fmt)
    let (side, place, bad) :=
      match fmtBlock p.fmt with
      | none => ([], 0, false)
      | some b =>
        let bp := p.blockAt b k
        ((s.spoiltFor t q (p.sideAt b bp.1) b.recB).bytes l (p.sideAt b bp.1) b.recB, bp.2, s.poisoned l (p.sideAt b bp.1) b.recB)
    modify fun s => s.updTile t fun x =>
      match x.stream n with
      | some q => x.setStream n { q with epos := k + 1 }
      | none => x
    if e.2 || bad then
      modify fun s => s.consumed l (p.spadBit k / 8) (s.tile t).ctx
      throw ⟨.poison, p.spadBit k / 8, some n, false, none⟩
    return ⟨e.1, side, place, false⟩

/-- The next elements of an input stream. -/
def popN (t : Nat) (n : BitVec 5) (k : Nat) : EngM (List Elem) := (List.range k).mapM fun _ => popElem t n

/-- R65, R69: an element pushed to an output stream; `side`: the side record, written with the first element of its
block. A memory stream without a permit drains first. -/
def pushElem (t : Nat) (n : BitVec 5) (code : Nat) (side : List Byte) : EngM Unit := do
  let s ← get
  match (s.tile t).stream n with
  | none => eng .engine (some n)
  | some q =>
    let p := patOf q.desc
    if p.total ≤ q.epos then eng .engine (some n)
    if p.kind = 1 then drainFor t n q.epos (p.blockElems + p.fifo)
    let k := q.epos
    let asid := (s.tile t).ctx
    let w := elemBytes (ebits p.fmt)
    bankM (.spad t) (p.spadBit k / 8) w
    modify fun s => (s.putElem (.spad t) (p.spadBit k) (ebits p.fmt) code false asid).spoiltFor t q (p.spadBit k / 8) w
    match fmtBlock p.fmt with
    | some b =>
      let bp := p.blockAt b k
      let a := p.sideAt b bp.1
      if bp.2 = 0 then
        bankM (.spad t) a b.recB
        modify fun s => (s.storeRaw (.spad t) a (side.map fun x => (x, false)) asid).spoiltFor t q a b.recB
    | none => pure ()
    modify fun s => s.updTile t fun x =>
      match x.stream n with
      | some q =>
        let q := { q with epos := k + 1 }
        let x := x.setStream n q
        if p.kind = 0 ∧ k + 1 = p.total then x.streamTag n q else x
      | none => x

/-- Elements pushed in order. -/
def pushAll (t : Nat) (n : BitVec 5) (cs : List Nat) : EngM Unit := cs.forM fun c => pushElem t n c []

/-! ## Values of elements -/

/-- R206: a BE2 element. -/
def be2Val (code sc sp : Nat) : Val :=
  match e8m0 sc with
  | none => .nan 2
  | some k => (if code % 16 = 8 then e4m3.val sp else e2m1.val code).scale k

/-- R207: a BE8 element. -/
def be8Val (code sc : Nat) : Val :=
  match e8m0 sc with
  | none => .nan 2
  | some k => (e4m3.val code).scale k

/-- Fields of a KQ4 side record (R208). -/
def kqScale (r : List Byte) (i : Nat) : Nat := leNat ((r.drop (2 * i)).take 2)
def kqPos (r : List Byte) (k : Nat) : Nat := leNat ((r.drop (0x80 + 4 * k)).take 2)
def kqOval (r : List Byte) (k : Nat) : Nat := leNat ((r.drop (0x82 + 4 * k)).take 2)
def kqNout (r : List Byte) : Nat := (nth 0 r 0xA0).toNat
def kqNtok (r : List Byte) : Nat := (nth 0 r 0xA1).toNat

/-- R208: whether a KQ4 side record is valid. -/
def kqValid (r : List Byte) : Bool :=
  let n := kqNout r
  let ps := (List.range n).map (kqPos r)
  n ≤ 8 && 1 ≤ kqNtok r && kqNtok r ≤ 64 && leNat (r.drop 0xA2) == 0 &&
    (List.range 8).all (fun k => kqPos r k < 4096) && ps.Pairwise (· < ·) && ps.all fun p => p / 64 < kqNtok r

/-- R208: a KQ4 element at a place of its block; `keys`: the scales are the channels'. -/
def kqVal (keys : Bool) (r : List Byte) (code place : Nat) : Val :=
  let t := place / 64
  let c := place % 64
  if kqNtok r ≤ t then .zero false
  else
    match (List.range (kqNout r)).find? fun k => kqPos r k == place with
    | some k =>
      match fp16.val (kqOval r k) with
      | .nan _ => .nan 1
      | v => v
    | none =>
      match fp16.val (kqScale r (if keys then c else t)) with
      | .nan _ => .nan 2
      | v =>
        let i := sgn 4 code
        -- an infinite scale of a zero code is 0 × ∞ (R214 rule 4)
        (Val.ofInt i).mul v

/-- The value of an element of a float or block format (R201, R206 to R208). -/
def Elem.val (e : Elem) (f : Nat) : Val :=
  match fmtFloat f with
  | some g => g.val e.code
  | none =>
    match f with
    | 0x18 => be2Val e.code (nth 0 e.side 0).toNat (nth 0 e.side 1).toNat
    | 0x19 => be8Val e.code (nth 0 e.side 0).toNat
    | 0x1C => kqVal true e.side e.code e.place
    | 0x1D => kqVal false e.side e.code e.place
    | f =>
      match fmtInt f with
      | some w => .ofInt (intOf w e.code)
      | none => .zero false

/-- R208, R333: an element whose KQ4 side record is invalid raises ENGINE when the engine reaches its block. -/
def popVal (t : Nat) (n : BitVec 5) (f : Nat) : EngM Elem := do
  let e ← popElem t n
  if (f = 0x1C ∨ f = 0x1D) ∧ !kqValid e.side then eng .engine (some n)
  return e

/-! ## What a command's start checks of its streams (R332) -/

/-- The format of a bound stream. -/
def Tile.streamFmt (x : Tile) (n : BitVec 5) : Nat := match x.stream n with
  | some q => (patOf q.desc).fmt
  | none => 0

/-- The group to which a command of engine e counts now, and whether a user handler pushed it: the group that holds the
engine's slot, or held it when the handler was entered (R70, R169, R373). -/
def Tile.cmdGroup (x : Tile) (e : Eng) (ord : Nat) : Nat × Bool :=
  match x.outer with
  | none => (x.groupOf (engSlot e), false)
  | some o =>
    if ord < o.ord then (((o.groups.find? fun g => g.hasSlot (engSlot e)).getD Group.lockstep).num, false)
    else (x.groupOf (engSlot e), true)

/-- Whether a BIND of a stream register waits in the D queue for a command of engine e (R332): of the same group; a bound
register waits only for a BIND that issued before the command. -/
def Tile.bindPending (x : Tile) (e : Eng) (n : BitVec 5) (ord : Nat) : Bool :=
  x.qD.q.any fun c =>
    (match c.i with
     | .bind _ _ _ m => m == n
     | _ => false) && x.cmdGroup .D c.ord == x.cmdGroup e ord && ((x.stream n).isNone || c.ord < ord)

/-- R332, R70: whether a stream register serves a position of a command of engine e: bound, of the right direction, not
another group's. A stream with an owner serves no command of a user handler (R373). -/
def Tile.streamServes (x : Tile) (e : Eng) (ord : Nat) (n : BitVec 5) (out : Bool) : Bool :=
  match x.stream n with
  | none => false
  | some q =>
    (patOf q.desc).dir == out &&
      (match q.owner with
       | none => true
       | some o => x.cmdGroup e ord == (o, false))

/-- A tile with a stream owned by a group (R70). -/
def Tile.own (x : Tile) (g : Nat) (n : BitVec 5) : Tile :=
  match x.stream n with
  | some q => x.setStream n { q with owner := some g }
  | none => x

/-- What a start comes to (R332): it waits, it raises a cause that concerns a stream or none, or it begins. -/
inductive Start where
  | wait
  | bad (c : Cause) (fq : Option (BitVec 5))
  | go
  deriving DecidableEq, Repr

/-- The first register that stands twice in a list of positions. -/
def twice : List (BitVec 5 × Bool) → Option (BitVec 5)
  | [] => none
  | p :: ps => if ps.any fun q => q.1 == p.1 then some p.1 else twice ps

/-- R332's checks of the streams of a command, input positions false, output positions true. -/
def Tile.startStreams (x : Tile) (e : Eng) (ord : Nat) (ps : List (BitVec 5 × Bool)) : Start :=
  if ps.any fun p => x.bindPending e p.1 ord then .wait
  else
    match ps.find? fun p => !x.streamServes e ord p.1 p.2, twice ps with
    | some p, _ => .bad .engine (some p.1)
    | none, some n => .bad .engine (some n)
    | none, none => .go

/-- A check with the start that it leads to. -/
def Start.need (r : Start) (ok : Bool) : Start := if r = .go && !ok then .bad .engine none else r

end Sys2Proof.Machine
end

