-- ==== Sys2Proof/Machine/SlotD.lean ====
section
/-! DEFINITION. Slot D as it issues: copies, streams, tags, pipe queues, Hiphor send and receive, opcodes 0x50 to 0x5C
and 0x5E, 0x5F (R317 to R329), and the queue signals of 0x5D (R328). A queued syllable takes its place in the D queue;
what it does there stands in the files of the engines. -/
namespace Sys2Proof.Machine

/-- The count of a tag (R121). -/
def Tile.tagCount (x : Tile) (tag : Nat) : Nat := mget 0 x.tcnt tag

/-- The tag on which a syllable of this step counts at issue (R317, R322): its own, or, for a BIND, that of `D.0`. -/
def State.issueTag (s : State) (i : Instr) : Option Nat :=
  match i with
  | .bind _ _ _ _ =>
    let d := (s.readStg 2 0).toNat
    if nbit d 38 then some (bits d 32 6) else none
  | i => (tagOf i).map (·.toNat)

/-- The push of a slot-D command, which counts on its tag (R322). A full queue and a count of 255 hold the bundle back:
step does not issue it, and the push has no effect (R121, R266). -/
def State.pushD (s : State) (i : Instr) (xs : List Word) : State :=
  if 16 ≤ (s.here.queue .D).q.length then s
  else
    match s.issueTag i with
    | none => s.push .D i xs (spcOf i)
    | some t => if 255 ≤ s.here.tagCount t then s else (s.push .D i xs (spcOf i)).updHere fun x => x.tagAdd t

/-- CPYIN (R320). -/
def execCpyin (q : BitVec 2) (acq rel tagv : Bool) (tag : BitVec 6) (lin : Bool) (spc : BitVec 2) (s : State) : Out :=
  s.syl q fun s => s.pushD (.cpyin q acq rel tagv tag lin spc) []

/-- CPYOUT (R320). -/
def execCpyout (q : BitVec 2) (acq rel tagv : Bool) (tag : BitVec 6) (lin : Bool) (spc : BitVec 2) (s : State) : Out :=
  s.syl q fun s => s.pushD (.cpyout q acq rel tagv tag lin spc) []

/-- CPYSS (R320). -/
def execCpyss (q : BitVec 2) (acq rel tagv : Bool) (tag : BitVec 6) (s : State) : Out :=
  s.syl q fun s => s.pushD (.cpyss q acq rel tagv tag) []

/-- CPYR (R124, R320). -/
def execCpyr (q : BitVec 2) (acq tagv : Bool) (tag : BitVec 6) (s : State) : Out :=
  s.syl q fun s => s.pushD (.cpyr q acq tagv tag) []

/-- MCAST (R320). -/
def execMcast (q : BitVec 2) (acq rel tagv : Bool) (tag : BitVec 6) (lin : Bool) (spc : BitVec 2) (tmask : BitVec 4) (s : State) : Out :=
  s.syl q fun s => s.pushD (.mcast q acq rel tagv tag lin spc tmask) []

/-- BIND (R323): the tag's bit clears at issue (R69, R322). -/
def execBind (q : BitVec 2) (acq rel : Bool) (qn : BitVec 5) (s : State) : Out :=
  s.syl q fun s => s.pushD (.bind q acq rel qn) []

/-- UNBIND (R323). -/
def execUnbind (q : BitVec 2) (acq rel : Bool) (qn : BitVec 5) (s : State) : Out :=
  s.syl q fun s => s.pushD (.unbind q acq rel qn) []

/-- SADV (R323). -/
def execSadv (q : BitVec 2) (acq rel : Bool) (qn : BitVec 5) (n : BitVec 15) (s : State) : Out :=
  s.syl q fun s => s.pushD (.sadv q acq rel qn n) []

/-- IDXLD (R324). -/
def execIdxld (q : BitVec 2) (acq rel tagv : Bool) (tag : BitVec 6) (spc : BitVec 2) (s : State) : Out :=
  s.syl q fun s => s.pushD (.idxld q acq rel tagv tag spc) []

/-- Whether the tags that WAITTA or WAITTL waits for are set (R325). -/
def tagsHold (tags mask : Word) (all : Bool) : Bool :=
  mask == 0 || (if all then tags &&& mask == mask else tags &&& mask != 0)

/-- WAITTA or WAITTL: the first test is made in the issue cycle (R325). -/
def State.waitTags (s : State) (mask : Word) (all : Bool) (i : Instr) : State :=
  if tagsHold s.here.tags mask all then s.tagsSeen s.cur.tile (s.here.tags &&& mask) else s.wait (.tags mask all) i

/-- WAITTA (R325). -/
def execWaitta (q : BitVec 2) (a : BitVec 7) (s : State) : Out :=
  s.syl q fun s => s.waitTags (s.readX a) false (.waitta q a)

/-- WAITTL (R325). -/
def execWaittl (q : BitVec 2) (a : BitVec 7) (s : State) : Out :=
  s.syl q fun s => s.waitTags (s.readX a) true (.waittl q a)

/-- The index of the lowest set bit, or 64 (R325). -/
def lowestBit (v : Nat) : Nat := ((List.range 64).find? (nbit v)).getD 64

/-- FFRT's clearing of the returned bit (R325): only where the tag's count is 0. -/
def Tile.tagClear (x : Tile) (tag : Nat) : Tile :=
  if x.tagCount tag = 0 then { x with tags := x.tags &&& ~~~((1 : Word) <<< tag) } else x

/-- FFRT (R325). -/
def execFfrt (q : BitVec 2) (d a : BitVec 7) (clr : Bool) (s : State) : Out :=
  s.syl q fun s =>
    s.within [.x d] fun s =>
      let k := lowestBit (s.here.tags &&& s.readX a).toNat
      let s := (s.tagsSeen s.cur.tile ((1 : Word) <<< k)).result (.x d) (w64 k) 2
      if clr && k < 64 then s.updHere fun x => x.tagClear k else s

/-- TAGCLR (R326). -/
def execTagclr (q : BitVec 2) (a : BitVec 7) (s : State) : Out := s.syl q fun s => s.pushD (.tagclr q a) [s.readX a]

/-- QPUSH (R327). -/
def execQpush (q : BitVec 2) (acq : Bool) (xq xs : BitVec 7) (s : State) : Out :=
  s.syl q fun s => s.pushD (.qpush q acq xq xs) [s.readX xq, s.readX xs]

/-- R327: whether a QID and the scratchpad offset of an entry are in order for context c. -/
def State.queueOk (s : State) (c qid off : Nat) : Bool :=
  match s.queue? qid with
  | none => false
  | some q => q.regFor c && off % q.esz == 0 && off + q.esz ≤ 2 ^ 20

/-- QPOP (R327). -/
def execQpop (q : BitVec 2) (xq xs : BitVec 7) (s : State) : Out :=
  s.syl q fun s =>
    let qid := (s.readX xq).toNat % 2 ^ 32
    let off := spadAddr (s.readX xs)
    if s.queueOk s.here.ctx qid off then s.wait (.qpop (BitVec.ofNat 32 qid) off) (.qpop q xq xs) else s.raise .engine

/-- The parameters of SEND and RECV (R318, R329): scratchpad offset, length, port, stream, and whether they are in order
for a tile. -/
structure LinkArgs where
  off : Nat
  len : Nat
  port : Nat
  strm : Nat
  ok : Bool
  deriving DecidableEq, Repr

/-- R329's parameters from `D.12`, `D.14` and `D.15`. -/
def State.linkArgs (s : State) (c : Nat) (d12 d14 d15 : Word) : LinkArgs :=
  let a := d12.toNat
  let b := d14.toNat
  let r := d15.toNat
  let off := bits a 0 20
  let len := bits b 0 24
  let port := bits r 0 5
  { off, len, port
    strm := bits r 5 8
    ok := bits a 20 44 == 0 && bits b 44 20 == 0 && r / 2 ^ 13 == 0 && len != 0 && len ≤ 2 ^ 20 && off + len ≤ 2 ^ 20 &&
      port < 18 && (s.port port).openFor c }

/-- SEND (R329). -/
def execSend (q : BitVec 2) (acq tagv : Bool) (tag : BitVec 6) (s : State) : Out :=
  s.syl q fun s => s.pushD (.send q acq tagv tag) []

/-- RECV (R329). -/
def execRecv (q : BitVec 2) (s : State) : Out :=
  s.syl q fun s =>
    let p := s.linkArgs s.here.ctx (s.readStg 2 12) (s.readStg 2 14) (s.readStg 2 15)
    if p.ok then s.wait (.recv p.port p.strm p.off p.len) (.recv q) else s.raise .engine

/-- DSIG (R328): its own number to `x`[XD]; its place in the queue of the engine whose slot holds it. -/
def execDsig (q : BitVec 2) (d : BitVec 7) (s : State) : Out :=
  s.syl q fun s =>
    let e := slotEng s.cur.slot
    if 16 ≤ (s.here.queue e).q.length then s
    else s.within [.x d] fun s => (s.result (.x d) (s.grp.pushSeq.zeroExtend 64) 1).push e (.dsig q d) [] 0

/-- A DWAIT at its push (R176, R328): for entry number n of the queue of the engine with an ENG code. -/
def State.dwaitPush (s : State) (i : Instr) (eng : Nat) (n : BitVec 16) : State :=
  if !s.grp.hasSlot (eng + 3) then s.raise .bundle
  else
    let dist := (s.grp.pushSeq - n).toNat
    if dist = 0 ∨ 32767 < dist then s.raise .fwdwait else s.push (slotEng s.cur.slot) i [n.zeroExtend 64] 0

/-- DWAIT with a distance (R328). -/
def execDwaitDist (q : BitVec 2) (eng : BitVec 3) (dist : BitVec 15) (s : State) : Out :=
  s.syl q fun s => s.dwaitPush (.dwaitDist q eng dist) eng.toNat (s.grp.pushSeq - dist.zeroExtend 16)

/-- DWAIT with a number in a register (R328). -/
def execDwaitReg (q : BitVec 2) (eng : BitVec 3) (x : BitVec 7) (s : State) : Out :=
  s.syl q fun s => s.dwaitPush (.dwaitReg q eng x) eng.toNat ((s.readX x).truncate 16)

end Sys2Proof.Machine
end

