-- ==== Sys2Proof/Machine/Copy.lean ====
section
/-! DEFINITION. Copies: their parameters (R318, R319), the OPS endpoints with the checks of R24 and the windows of R23,
R25 and R26, the checks at a copy's start (R321), and the transfers (R120, R124, R320). A copy's bytes move in one step
when it completes, which is one of the executions that R120 and R122 allow (notes/assumptions/7.md). -/
namespace Sys2Proof.Machine

/-! ## Parameters -/

/-- R319, R321: the descriptor's own checks, without those of the tensor descriptor. -/
def CopyPat.ok (c : CopyPat) : Bool :=
  let p := c.p
  let eb := ebits p.fmt
  c.rsvd && (fmtBits p.fmt).isSome && p.dims.all (fun d => d.1 != 0) && p.total < 2 ^ 48 &&
    (p.ndim < p.idim || (p.ixtab % 4 == 0 && p.ixtab + 4 * (nth (0, 0, 0) p.dims p.idim).1 ≤ 2 ^ 20)) &&
    (c.spitch == 0 || p.run * eb ≤ c.spitch * 8) && c.spadEnd ≤ 2 ^ 23 && p.blockOk &&
    (match fmtBlock p.fmt with
     | none => true
     | some b => b.recB ≤ p.scstr && c.sideAt (p.total / (b.e0 * b.e1) - 1) + b.recB ≤ 2 ^ 20)

/-- R66, R321: a descriptor against the tensor's. -/
def Pat.fits (p : Pat) (td : Nat) : Bool :=
  tdValid td && p.fmt == tdFmt td && p.dims.all fun d => d.2.1 < tdRank td

/-- R63: whether the side plane of a block-format tensor lies on a page that permits reads, or writes. -/
def State.scPageOk (s : State) (t td : Nat) (wr : Bool) : Bool :=
  (fmtBlock (tdFmt td)).isNone ||
    (match (s.translate (s.tile t).ctx (some t) (tileDie t) (tdScBase td) (if wr then .w else .r) (s.tileExt t)).2 with
     | .resident _ _ _ => true
     | .far e => permits e (if wr then .w else .r) (s.tileExt t)
     | _ => false)

/-- The tensor descriptor TID of a tile's context (R57, R59), read as an acquire at PACKAGE scope. -/
def twDesc (t tid : Nat) (fq : Option (BitVec 5)) : EngM Nat := do
  let v := ((← get).ctx ((← get).tile t).ctx).ttbase
  let a := (VA.plus v (64 * tid)).toNat
  modify fun s => s.acquireAt t 3 (.va a (a + 64))
  let b ← twRead t (VA.plus v (64 * tid)).toNat 64 fq
  if b.any Prod.snd then
    modify fun s => s.hubConsumed (s.tile t).ctx (VA.plus v (64 * tid)) 64
    throw ⟨.poison, (VA.plus v (64 * tid)).toNat, fq, true, none⟩
  return leNat (b.map Prod.fst)

/-! ## OPS endpoints -/

/-- The extent of a window (R23). -/
def winExtent (w : Nat) : Nat :=
  match w with
  | 0 => 2 ^ 20
  | 1 => 2 ^ 18
  | 2 | 3 | 6 => 4096
  | 4 => 32768
  | 5 => 1024
  | _ => 0

/-- The offsets of window 2 that its layout lists (R25). -/
def regListed (o : Nat) : Bool := o < 0x408 || (0x600 ≤ o && o < 0x808)

/-- The cause of each check of R24, for n bytes at address a; c: the issuing context. -/
def State.opsCheck (s : State) (c : Nat) (wr : Bool) (a n : Nat) (k : Nat) : Option Cause :=
  let p := opsParts a
  let q := opsParts (a + n - 1)
  let held (r : OpsAddr) : Bool := r.die < 4 && (s.ctx c).part.contains (r.tile / 4)
  match k with
  | 0 => if 5 ≤ p.die ∨ 5 ≤ q.die ∨ 2 ^ 40 < a + n then some .engine else none
  | 1 => if held p && held q then none else some .access
  | 2 =>
    if p.win = 7 ∨ (wr = true ∧ 3 ≤ p.win) ∨ (p.win = 6 ∧ p.tile % 4 ≠ 0) ∨ winExtent p.win < p.off + n ∨
        (wr = true ∧ p.win = 2 ∧ (List.range n).any fun i => !regListed (p.off + i)) then some .engine
    else none
  | _ => if (p.win = 2 ∨ p.win = 5) ∧ (a % 8 ≠ 0 ∨ n % 8 ≠ 0) then some .align else none

/-- R24 for a copy with two endpoints: each check at the source, then at the destination. -/
def State.opsChecks (s : State) (c : Nat) (a b n : Nat) : Option (Cause × Nat) :=
  (List.range 4).findSome? fun k =>
    match s.opsCheck c false a n k with
    | some x => some (x, a)
    | none => (s.opsCheck c true b n k).map fun x => (x, b)

/-- The latches that a tile occupies (R26). -/
def Tile.latchCount (x : Tile) : Nat := x.latches.length + (match x.outer with
  | some o => o.latches.length
  | none => 0)

/-- Word k of window 2 (R25). -/
def Tile.regWord (x : Tile) (k : Nat) : Word :=
  if k = 0 then 0
  else if k < 128 then mget 0 x.xs k
  else if k = 128 then x.cs.zeroExtend 64
  else if 0xC0 ≤ k ∧ k < 0x100 then mget 0 x.stg (k - 0xC0)
  else if k = 0x100 then x.tags
  else 0

/-- Word k of window 3 (R67). -/
def Tile.streamWord (x : Tile) (k : Nat) : Word :=
  match x.qs.find? fun p => p.1 == k / 16 with
  | none => 0
  | some (_, q) =>
    match k % 16 with
    | 12 =>
      w64 (1 + (match q.owner with
        | some o => o * 2 + 16
        | none => 0) + b2n q.wdone * 32)
    | 13 => w64 q.epos
    | 14 => w64 q.wpos
    | 15 => w64 q.fill
    | j => nth 0 q.desc j

/-- Word k of window 5 (R26). -/
def Tile.seqWord (x : Tile) (k : Nat) : Word :=
  if k < 64 then
    match k % 8 with
    | 0 => x.seqAddr (k / 8)
    | 1 => x.seqStat (k / 8)
    | 2 => x.loopIdx2 (k / 8) 0
    | 3 => x.loopIdx2 (k / 8) 1
    | 4 => x.loopIdx2 (k / 8) 2
    | _ => 0
  else if k < 72 then x.partn (k - 64)
  else if k = 96 then w64 x.latchCount
  else 0

/-- The bits of word k of windows 2 to 5 that their layouts define (R24 to R26, R67, R291, R372): the others read 0. -/
def opsMask (w k : Nat) : Nat :=
  let all := 2 ^ 64 - 1
  match w with
  | 2 => if k = 0 then 0 else if k < 128 then all else if k = 128 then 2 ^ 32 - 1 else if 0xC0 ≤ k ∧ k ≤ 0x100 then all else 0
  | 3 => if k % 16 < 12 then all else if k % 16 = 12 then 0x3F else if k % 16 = 15 then 2 ^ 21 - 1 else 2 ^ 48 - 1
  | 4 =>
    if k ≤ 4 then 0xFFFF
    else if k = 0x08 ∨ 0x10 ≤ k ∧ k ≤ 0x18 ∨ k = 0x20 ∨ k = 0x28 ∨ 0x100 ≤ k ∧ k ≤ 0x140 ∧ k ≠ 0x107 then all
    else if k = 0x30 ∨ k = 0x31 then 2 ^ 32 - 1
    else if k = 0x32 then 1
    else if k = 0x33 then 3 else 0
  | 5 =>
    if k < 64 then (if k % 8 = 0 ∨ 2 ≤ k % 8 ∧ k % 8 ≤ 4 then all else if k % 8 = 1 then 0xF else 0)
    else if k < 72 then 0x9F1F7F7F
    else if k = 96 then 0x7F else 0
  | _ => 0

/-- Word k of window 6 (R127). -/
def Cluster.word (c : Cluster) (k : Nat) : Word :=
  match k with
  | 0 => w64 (c.holder + b2n c.held * 4 + c.req.toNat * 16 + c.cmdLeft * 2 ^ 8 + c.cycLeft * 2 ^ 16)
  | 1 => w64 c.round
  | 2 => w64 c.mchit
  | 3 => w64 c.mcmiss
  | _ => 0

/-- Word k of windows 2 to 6 of a tile (R23); of a tile that has been released, an undefined value (R129). -/
def State.opsWord (s : State) (t w k : Nat) : Word :=
  if w ≠ 6 ∧ s.released t then s.free (2 ^ 28 + (t * 8 + w) * 2 ^ 16 + k) &&& w64 (opsMask w k)
  else
  match w with
  | 2 => (s.tile t).regWord k
  | 3 => (s.tile t).streamWord k
  | 4 => (s.tile t).csr k 0
  | 5 => (s.tile t).seqWord k
  | _ => (s.cluster (t / 4)).word k

/-- An OPS read of n bytes (R23, R24), of a released tile undefined (R129). -/
def State.opsRead (s : State) (a n : Nat) : List (Byte × Bool) :=
  let p := opsParts a
  match p.win with
  | 0 => (s.readFrom p.tile).bytesP (.spad p.tile) p.off n
  | 1 => (s.readFrom p.tile).bytesP (.acc p.tile) p.off n
  | w =>
    let lo := p.off / 8
    let ws := (List.range ((p.off + n + 7) / 8 - lo)).flatMap fun i => leBytes 8 (s.opsWord p.tile w (lo + i)).toNat
    ((ws.drop (p.off % 8)).take n).map fun b => (b, false)

/-- Word k of window 2 written (R25): `x0`, TAGS and the upper half of CBITS ignore writes. -/
def Tile.putRegWord (x : Tile) (k : Nat) (v : Word) : Tile :=
  if k = 0 then x
  else if k < 128 then { x with xs := mput x.xs k v }
  else if k = 128 then { x with cs := v.truncate 32 }
  else if 0xC0 ≤ k ∧ k < 0x100 then { x with stg := mput x.stg (k - 0xC0) v }
  else x

/-- The bytes of window 2 written, 8-byte words in order (R24). -/
def Tile.putRegs (x : Tile) (k : Nat) : List Nat → Tile
  | [] => x
  | w :: ws => (x.putRegWord k (w64 w)).putRegs (k + 1) ws

/-- R124: the fill of a flag word. -/
def State.flagFill (s : State) (t off : Nat) (v : Word) : State :=
  s.store (.spad t) off ((leBytes 8 (v.toNat % 2 ^ 63 + 2 ^ 63)).map fun b => (b, false)) (s.tile t).ctx

/-! ## The start of a copy (R321) -/

/-- A failure raised by the tile-walk engine. -/
def tw {α : Type} (c : Cause) (fva : Nat) : EngM α := throw ⟨c, fva, none, true, none⟩

/-- R321 for a linear copy. -/
def linearOk (a : CopyArgs) : Bool := a.rsvd && a.len != 0 && bits a.epa 20 20 == 0 && a.epa + a.len ≤ 2 ^ 20

/-- R321 for a tensor copy in or out: the tensor descriptor, in eight words. -/
def tensorStart (t : Nat) (w : List Word) (out : Bool) : EngM (List Word) := do
  let c := copyPat w
  if !c.ok then tw .engine 0
  let td ← twDesc t c.p.tid none
  if !c.p.fits td || !(← get).scPageOk t td out then tw .engine 0
  return (List.range 8).map fun k => w64 (bits td (64 * k) 64)

/-- R320, R321, R24 for CPYSS and CPYR. -/
def opsStart (t : Nat) (w : List Word) (fill : Bool) : EngM Unit := do
  let s ← get
  let a := copyArgs w true
  if !a.rsvd || a.len == 0 || (fill && nbit a.arg 63) then tw .engine 0
  match s.opsChecks (s.tile t).ctx a.epa a.epb a.len with
  | some (c, fva) => tw c fva
  | none => pure ()
  let p := opsParts a.epb
  if fill && (p.win != 0 || a.flag % 8 != 0 || (p.off < a.flag + 8 && a.flag < p.off + a.len)) then tw .engine 0

/-- R320: the bytes read by an OPS to OPS copy; those that the copy itself overwrites are undefined. -/
def State.opsSource (s : State) (a : CopyArgs) : List (Byte × Bool) :=
  (s.opsRead a.epa a.len).zipIdx.map fun p =>
    if a.epa < a.epb + a.len ∧ a.epb < a.epa + a.len ∧ a.epa ≤ a.epb + p.2 ∧ a.epb + p.2 < a.epa + a.len then
      (s.freeB (2 ^ 26 + p.2), p.1.2)
    else p.1

/-- The checks of a copy's start; what they read is kept with the copy. -/
def copyStartM (t : Nat) (c : Cmd) : EngM (List Word) := do
  match c.i with
  | .cpyin _ _ _ _ _ lin _ | .mcast _ _ _ _ _ lin _ _ =>
    if lin then
      if linearOk (copyArgs c.stg false) then return [] else tw .engine 0
    else tensorStart t c.stg false
  | .cpyout _ _ _ _ _ lin _ =>
    if lin then
      if linearOk (copyArgs c.stg false) then return [] else tw .engine 0
    else tensorStart t c.stg true
  | .cpyss _ _ _ _ _ => do
    opsStart t c.stg false
    return []
  | .cpyr _ _ _ _ => do
    opsStart t c.stg true
    return []
  | .send _ _ _ _ =>
    let s ← get
    if (s.linkArgs (s.tile t).ctx (nth 0 c.stg 12) (nth 0 c.stg 14) (nth 0 c.stg 15)).ok then return [] else tw .engine 0
  | _ => return []

/-! ## Transfers -/

/-- Copied bytes written to the scratchpads of tiles, an ordinary access of each (R71, R125). -/
def copyPut (ts : List Nat) (a : Nat) (bs : List (Byte × Bool)) : EngM Unit := do
  ts.forM fun t => bankM (.spad t) a bs.length
  modify fun s => ts.foldl (fun s t => s.store (.spad t) a bs (s.tile t).ctx) s

/-- One element written to the scratchpads of tiles, an ordinary access of each. -/
def copyPutElem (ts : List Nat) (ba eb code : Nat) (poison : Bool) : EngM Unit := do
  ts.forM fun t => bankM (.spad t) (ba / 8) (elemBytes eb)
  modify fun s => ts.foldl
    (fun s t =>
      if eb = 4 then
        let old := (s.byte (.spad t) (ba / 8)).toNat
        s.store (.spad t) (ba / 8) [(BitVec.ofNat 8 (putBits old (ba % 8) 4 code), poison)] (s.tile t).ctx
      else s.store (.spad t) (ba / 8) ((leBytes (eb / 8) code).map fun b => (b, poison)) (s.tile t).ctx) s

/-- An element that a copy writes: its bit address, its code, its poison. -/
abbrev ElemPut := Nat × Nat × Bool

/-- What a tensor copy writes (R61, R319): elements, and side records by their first byte. -/
abbrev CopyPuts := List ElemPut × List (Nat × List (Byte × Bool))

/-- Elements of eb bits that lie one after the other, joined: a copy writes what it covers of a granule whole (R107, R320). -/
def elemRuns (eb : Nat) (l : List ElemPut) : List (Nat × List (Nat × Bool)) :=
  l.foldr (fun p rs => match rs with
    | (a, es) :: r => if p.1 + eb = a then (p.1, p.2 :: es) :: r else (p.1, [p.2]) :: rs
    | [] => [(p.1, [p.2])]) []

/-- Byte runs that lie one after the other, joined. -/
def byteRuns (l : List (Nat × List (Byte × Bool))) : List (Nat × List (Byte × Bool)) :=
  l.foldr (fun p rs => match rs with
    | (a, bs) :: r => if p.1 + p.2.length = a then (p.1, p.2 ++ bs) :: r else p :: rs
    | [] => [p]) []

/-- Two 4-bit codes to the byte, the first in the low half (R62). -/
def pairNibs : List (Nat × Bool) → List (Byte × Bool)
  | a :: b :: r => (BitVec.ofNat 8 (a.1 % 16 + 16 * b.1), a.2 || b.2) :: pairNibs r
  | [a] => [(BitVec.ofNat 8 a.1, a.2)]
  | [] => []

/-- The bytes of a run of elements at a bit address; `lo`, `hi`: the bytes in which a run of 4-bit elements begins and ends, whose
other halves stay. -/
def packElems (eb lo hi a : Nat) (es : List (Nat × Bool)) : List (Byte × Bool) :=
  if eb = 4 then
    pairNibs ((if a % 8 = 0 then [] else [(lo % 16, false)]) ++ es ++
      if (a + 4 * es.length) % 8 = 0 then [] else [(hi / 16, false)])
  else es.flatMap fun e => (leBytes (eb / 8) e.1).map fun b => (b, e.2)

/-- A run of copied elements written to the scratchpads of tiles. -/
def copyPutRun (ts : List Nat) (eb a : Nat) (es : List (Nat × Bool)) : EngM Unit :=
  ts.forM fun t => do
    let s ← get
    let at' (b : Nat) : Nat := (s.byte (.spad t) (b / 8)).toNat
    copyPut [t] (a / 8) (packElems eb (at' a) (at' (a + 4 * es.length)) a es)

/-- A run of copied elements written to memory. -/
def copyWriteRun (t ord eb a : Nat) (es : List (Nat × Bool)) : EngM Unit := do
  let e := a + 4 * es.length
  let old (b : Nat) : EngM Nat := do
    if eb = 4 ∧ b % 8 ≠ 0 then return leNat ((← twRead t (b / 8) 1 none).map Prod.fst) else return 0
  let lo ← old a
  let hi ← old e
  twWrite t ord (a / 8) (packElems eb lo hi a es) none

/-- One element of a tensor copy into scratchpads, read (R61, R319). -/
def copyElemIn (t : Nat) (c : CopyPat) (d k : Nat) : EngM CopyPuts := do
  let s ← get
  let p := c.p
  ixM t p k
  let co := p.coord (s.ixTable t p) k
  let cn := co.map Int.toNat
  let ok := inBounds d co
  let e ← if ok then twReadElem t (elemBit d cn) (ebits p.fmt) none else pure (0, false)
  match fmtBlock p.fmt with
  | some b =>
    let bp := p.blockAt b k
    if bp.2 = 0 then
      let r ← if ok then twRead t (sideVA d b cn) b.recB none else pure ((zeroSide p.fmt).map fun x => (x, false))
      return ([(c.spadBit k, e)], [(c.sideAt bp.1, r)])
    else return ([(c.spadBit k, e)], [])
  | none => return ([(c.spadBit k, e)], [])

/-- One element of a tensor copy out of the scratchpad, read (R61, R319). -/
def copyElemOut (t : Nat) (c : CopyPat) (d k : Nat) : EngM CopyPuts := do
  let s ← get
  let p := c.p
  ixM t p k
  let co := p.coord (s.ixTable t p) k
  let cn := co.map Int.toNat
  if inBounds d co then
    bankM (.spad t) (c.spadBit k / 8) (elemBytes (ebits p.fmt))
    let e := s.elemAt (.spad t) (c.spadBit k) (ebits p.fmt)
    match fmtBlock p.fmt with
    | some b =>
      let bp := p.blockAt b k
      if bp.2 = 0 then
        bankM (.spad t) (c.sideAt bp.1) b.recB
        return ([(elemBit d cn, e)], [(sideVA d b cn, s.bytesP (.spad t) (c.sideAt bp.1) b.recB)])
      else return ([(elemBit d cn, e)], [])
    | none => return ([(elemBit d cn, e)], [])
  else return ([], [])

/-- R61: the first element of a tensor copy that is out of bounds under PAD = 0; those before it are transferred, and it raises
ENGINE. -/
def State.copyStop (s : State) (t : Nat) (c : CopyPat) (d : Nat) : Option Nat :=
  if tdPad d then none
  else
    (List.range c.p.total).find? fun k =>
      let co := c.p.coord (s.ixTable t c.p) k
      !inBounds d co && !absentToken d co

/-- The elements that a tensor copy transfers: what it has read of each; `stop`: where it ends early. -/
def copyElems (t : Nat) (c : CopyPat) (stop : Option Nat) (f : Nat → EngM CopyPuts) : EngM (List CopyPuts) := do
  let l ← (List.range (stop.getD c.p.total)).mapM f
  match stop with
  | some k => ixM t c.p k
  | none => pure ()
  return l

/-- A copy into scratchpads: the tensor form or the linear form (R320). -/
def copyIn (t : Nat) (ts : List Nat) (cmd : Cmd) (lin : Bool) : EngM Unit :=
  if lin then do
    let a := copyArgs cmd.stg false
    let b ← twRead t (VA.toNat ⟨cmd.asp, w64 a.epb⟩) a.len none
    copyPut ts a.epa b
  else do
    let c := copyPat cmd.stg
    let eb := ebits c.p.fmt
    let stop := (← get).copyStop t c (descOf cmd.xv)
    let l ← copyElems t c stop fun k => copyElemIn t c (descOf cmd.xv) k
    (elemRuns eb (l.flatMap Prod.fst)).forM fun r => copyPutRun ts eb r.1 r.2
    (byteRuns (l.flatMap Prod.snd)).forM fun r => copyPut ts r.1 r.2
    if stop.isSome then tw .engine 0

/-- A copy out of the scratchpad (R320). -/
def copyOut (t : Nat) (cmd : Cmd) (lin : Bool) : EngM Unit :=
  if lin then do
    let a := copyArgs cmd.stg false
    bankM (.spad t) a.epa a.len
    let s ← get
    twWrite t cmd.ord (VA.toNat ⟨cmd.asp, w64 a.epb⟩) (s.bytesP (.spad t) a.epa a.len) none
  else do
    let c := copyPat cmd.stg
    let eb := ebits c.p.fmt
    let stop := (← get).copyStop t c (descOf cmd.xv)
    let l ← copyElems t c stop fun k => copyElemOut t c (descOf cmd.xv) k
    (elemRuns eb (l.flatMap Prod.fst)).forM fun r => copyWriteRun t cmd.ord eb r.1 r.2
    (byteRuns (l.flatMap Prod.snd)).forM fun r => twWrite t cmd.ord r.1 r.2 none
    if stop.isSome then tw .engine 0

/-- The transfer of a copy between memory and scratchpads. -/
def copyM (t : Nat) (cmd : Cmd) : EngM Unit :=
  match cmd.i with
  | .cpyin _ _ _ _ _ lin _ => copyIn t [t] cmd lin
  | .mcast _ _ _ _ _ lin _ m => copyIn t (mcastTiles t m) cmd lin
  | .cpyout _ _ _ _ _ lin _ => copyOut t cmd lin
  | _ => pure ()

/-! ## The copy queue -/

/-- The state with a stalled access of tile t begun: its write attached to its page's collapse (R56), or its bank on the way
out of retention (R112). -/
def State.endStall (s : State) (t : Nat) (w : EngStall) : State :=
  match w with
  | .collapse va e w => s.stallWrite (s.tile t).ctx va e w
  | .bank k b => s.updTile k fun x => x.leaveBank b
  | .copies => s

/-- The state in which an effect that stalls waits, if it does. -/
def State.engStall {α : Type} (s : State) (t : Nat) (m : EngM α) : Option State :=
  match (m.run).run s with
  | (.error x, _) => x.stall.map (s.endStall t)
  | _ => none

/-- An engine effect run for tile t; a failure is raised for a command of group g with push number num; one that stalls has
no effect yet (R56, R112). -/
def State.runEng {α : Type} (s : State) (t : Nat) (e : Eng) (g num : Nat) (m : EngM α) : State × Option α :=
  match (m.run).run s with
  | (.ok v, s) => (s, some v)
  | (.error x, u) =>
    match x.stall with
    | some w => (s.endStall t w, none)
    | none =>
    let s := u.raiseEng t e x.tw g num x.cause x.fva x.fq
    -- the stream of a gang that has been ended is given up
    let drop (y : Tile) : Tile := match x.fq with
      | some q => { y with qs := mdel y.qs q.toNat }
      | none => y
    (if s.killed t then s.updTile t drop else s, none)

/-- A tile with copy number id replaced. -/
def Tile.setCopy (x : Tile) (id : Nat) (f : Copy → Copy) : Tile :=
  { x with copyQ := x.copyQ.map fun c => if c.id = id then f c else c }

/-- The running copies of a tile in queue order. -/
def Tile.running (x : Tile) : List Copy := x.copyQ.filter fun c => c.phase != 0

/-- Whether a tile's agents go on: it runs, or its program has ended and its copies and streams finish (R129). -/
def Tile.live (x : Tile) : Bool := x.stat == .running || x.stat == .ending

/-- Whether a tile's copies may go on: those that write only elsewhere outlive its instance (R129). -/
def Tile.copyLive (x : Tile) : Bool := x.live || x.stat == .idle || x.stat == .starting || x.stat == .loaded

/-- The OPS write of a CPYSS or CPYR accepted at its target (R27, R124). -/
def State.opsPost (s : State) (t id : Nat) (a : CopyArgs) (fill : Bool) : State :=
  let p := opsParts a.epb
  let w : OpsIn := ⟨p.win, p.off, s.opsSource a, if fill then some (a.flag, w64 (a.arg % 2 ^ 63)) else none, t, id⟩
  (s.updTile p.tile fun x => { x with opsIn := x.opsIn ++ [w] }).updTile t fun x => x.setCopy id fun c => { c with phase := 2 }

/-- A step of a copy of tile t; a copy that fails leaves the queue. One that has outlived its instance (R129) fails its
task, with no tile to freeze. -/
def State.runCopy {α : Type} (s : State) (t : Nat) (c : Copy) (m : EngM α) : State × Option α :=
  let x := s.tile t
  let gone (s : State) : State := s.updTile t fun x => { x with copyQ := x.copyQ.filter fun q => q.id != c.id }
  match s.engStall t m with
  | some s => (s, none)
  | none =>
  if x.live && x.task == c.task then
    match s.runEng t .D c.cmd.grp c.cmd.num.toNat m with
    | (s, some v) => (s, some v)
    | (s, none) => (gone s, none)
  else
    match (m.run).run s with
    | (.ok v, s) => (s, some v)
    | (.error e, s) =>
      let s := gone s
      (if causeClass e.cause = 0 then s.fatalCtx x.ctx e.cause e.fva ((s.ctx x.ctx).named c.task)
        else s.failTask x.ctx c.task (causeCode e.cause) 0x1F 0, none)

/-- R147: whether an earlier copy of the tile, not yet complete, writes bytes that this one reads. -/
def Tile.readsAfter (x : Tile) (t : Nat) (c : Copy) : Bool :=
  x.copyQ.any fun d => d.id < c.id && (c.spans t).1.any fun r => (d.spans t).2.any fun w => r.meets w

/-- R29: whether the OPS endpoint at an address lies in a tile that its partition's pre-emption has frozen, or whose
instance is swapped out: an access to it waits for the resume. -/
def State.opsHeld (s : State) (c a : Nat) : Bool :=
  (s.ctx c).preempting && (s.tile (opsParts a).tile).stat != .running && (s.tile (opsParts a).tile).stat != .ending

/-- R147: whether the tensor descriptor that a copy reads as it starts (R59, R318) waits for an earlier copy of the tile that writes
it. -/
def State.descHeld (s : State) (t : Nat) (c : Copy) : Bool :=
  let x := s.tile t
  let a := (VA.plus (s.ctx x.ctx).ttbase (64 * (copyPat c.cmd.stg).p.tid)).toNat
  (match c.cmd.i with
   | .cpyin _ _ _ _ _ lin _ | .mcast _ _ _ _ _ lin _ _ | .cpyout _ _ _ _ _ lin _ => !lin
   | _ => false) && x.copyWrites t c.cmd.ord ⟨true, a, a + 64⟩

/-- Whether an OPS copy's accesses wait: for the resume of a tile (R29), for an earlier copy (R147), or for a bank at its
source (R112), whose exit then begins. -/
def State.opsWaits (s : State) (t : Nat) (c : Copy) : Bool :=
  let a := copyArgs c.cmd.stg true
  s.opsHeld (s.tile t).ctx a.epa || s.opsHeld (s.tile t).ctx a.epb || (s.tile t).readsAfter t c

/-- The bank of an OPS access to a scratchpad that is not out of retention (R112), with its tile. -/
def State.opsBank (s : State) (a n : Nat) : Option (Nat × Nat) :=
  let p := opsParts a
  if p.win = 0 then ((s.tile p.tile).bankHeld p.off n).map fun b => (p.tile, b) else none

/-- Whether a copy is a SEND to a stream of a port. -/
def Copy.sendTo (c : Copy) (port strm : Nat) : Bool :=
  match c.cmd.i with
  | .send _ _ _ _ => bits (nth 0 c.cmd.stg 15).toNat 0 5 == port && bits (nth 0 c.cmd.stg 15).toNat 5 8 == strm
  | _ => false

/-- The tiles of the package with those that are swapped out, each with its number; a swapped one has none. -/
def State.allTiles (s : State) : List (Option Nat × Tile) :=
  s.tiles.map (fun p => (some p.1, p.2)) ++
    s.ctxs.flatMap fun p => p.2.gangs.flatMap fun g => g.saved.map fun x => (none, x)

/-- The bytes of running SENDs to a stream that its receive queue has yet to take, those of tiles that are swapped out among
them. -/
def State.sendsDue (s : State) (port strm : Nat) : Nat :=
  (s.allTiles.flatMap fun y => y.2.running.map fun q =>
    if q.sendTo port strm then bits (nth 0 q.cmd.stg 14).toNat 0 24 - q.pos else 0).sum

/-- R396: whether a SEND waits in the copy queue because its bytes would not fit in the stream's receive queue; one of more than
64 KiB waits for room and is taken in parts (R329). -/
def State.sendHeld (s : State) (t : Nat) (c : Copy) : Bool :=
  match c.cmd.i with
  | .send _ _ _ _ =>
    let p := s.linkArgs (s.tile t).ctx (nth 0 c.cmd.stg 12) (nth 0 c.cmd.stg 14) (nth 0 c.cmd.stg 15)
    let due := s.sendsDue p.port p.strm
    let room := (s.port p.port).room p.strm
    p.ok && !(p.len + due ≤ room || (65536 < p.len && due == 0 && 0 < room))
  | _ => false

/-- COPY_START (R120, R321): the oldest copy not yet started, at most 8 running. -/
def execCopyStart (t : Nat) (s : State) : Out :=
  let x := s.tile t
  match x.copyQ.find? fun c => c.phase == 0 with
  | none => .next s
  | some c =>
    let a := copyArgs c.cmd.stg true
    let ops : Bool := match c.cmd.i with
      | .cpyss _ _ _ _ _ | .cpyr _ _ _ _ => true
      | _ => false
    if !x.copyLive || 8 ≤ x.running.length || (ops && s.opsWaits t c) || s.sendHeld t c || s.descHeld t c then .next s
    else
      match (if ops then s.opsBank a.epa a.len else none) with
      | some (k, b) => .next (s.updTile k fun x => x.leaveBank b)
      | none =>
      match s.runCopy t c (copyStartM t c.cmd) with
      | (s, none) => .next s
      | (s, some d) =>
        let s := s.updTile t fun x => x.setCopy c.id fun c => { c with phase := 1, cmd := { c.cmd with xv := d } }
        match c.cmd.i with
        | .cpyss _ _ _ _ _ => .next (s.opsPost t c.id (copyArgs c.cmd.stg true) false)
        | .cpyr _ _ _ _ => .next (s.opsPost t c.id (copyArgs c.cmd.stg true) true)
        | _ => .next s

/-- A copy's end: it leaves the queue, and the tag of the instance that issued it counts it (R121). -/
def Tile.copyDone (x : Tile) (c : Copy) : Tile :=
  let x := { x with copyQ := x.copyQ.filter fun q => q.id != c.id }
  let x := match tagOf c.cmd.i with
    | some g => if c.task = x.task then x.tagDone g.toNat else x
    | none => x
  x.wdTouch

/-- R147, R148: what follows the last write of a command of a task: its release, where it has REL, and its tag. The release of a
BIND follows its stream's last drain, that of a CPYR is its fill (R124), and that of a QPUSH its entry (R327). -/
def State.cmdReleases (s : State) (t : Nat) (c : Cmd) (task : Nat) : State :=
  let s := match c.i with
    | .bind _ _ _ _ | .cpyr _ _ _ _ | .qpush _ _ _ _ => s
    | i => if relOf i then s.cmdRelease t c.ord c.scope task else s
  match tagOf c.i with
  | some g => s.tagSees t c.ord g.toNat
  | none => s

/-- COPY_COMPLETE (R120, R121) of the k-th running copy: its transfer is made; an OPS write has landed first; a SEND
completes as R329 says. -/
def execCopyComplete (t k : Nat) (s : State) : Out :=
  let x := s.tile t
  match x.running[k]? with
  | none => .next s
  | some c =>
    if !x.copyLive then .next s
    else
      match c.cmd.i with
      | .send _ _ _ _ => .next s
      | .cpyss _ _ _ _ _ | .cpyr _ _ _ _ =>
        .next (if c.phase = 3 then (s.cmdReleases t c.cmd c.task).updTile t fun x => x.copyDone c else s)
      | _ =>
        if x.readsAfter t c then .next s
        else
        match s.runCopy t c (copyM t c.cmd) with
        | (s, none) => .next s
        | (s, some _) => .next ((s.cmdReleases t c.cmd c.task).updTile t fun x => x.copyDone c)

/-- SEND_COMPLETE (R329): the k-th running copy, a SEND, gives the peer's receive queue what it accepts; it completes
when all has been accepted. SENDs of one tile to a stream go in push order, those of other tiles whole. The stream carries bytes and no
poison (DESIGN CHOICE, notes/assumptions/103.md). -/
def execSendComplete (t k : Nat) (s : State) : Out :=
  let x := s.tile t
  match x.running[k]? with
  | none => .next s
  | some c =>
    let p := s.linkArgs x.ctx (nth 0 c.cmd.stg 12) (nth 0 c.cmd.stg 14) (nth 0 c.cmd.stg 15)
    let first := ((x.running.find? fun q => q.sendTo p.port p.strm).map (·.id)) == some c.id
    let other := s.allTiles.any fun y => y.1 != some t && y.2.copyQ.any fun q => q.sendTo p.port p.strm && q.pos != 0
    if !x.copyLive || !c.sendTo p.port p.strm || !first || other then .next s
    else if x.readsAfter t c then .next s
    else if !p.ok then .next (s.runCopy t c (tw (α := Unit) .engine 0)).1
    else
      let port := s.port p.port
      let n := min (port.room p.strm) (p.len - c.pos)
      .next (s.bankWait t (p.off + c.pos) n fun s =>
        let bs := s.bytes (.spad t) (p.off + c.pos) n
        let s := s.setPort p.port { port with tx := mput port.tx p.strm (mget [] port.tx p.strm ++ bs) }
        if p.len ≤ c.pos + n then s.updTile t fun x => x.copyDone c
        else if n = 0 then s
        else s.updTile t fun x => (x.setCopy c.id fun c => { c with pos := c.pos + n }).wdTouch)

end Sys2Proof.Machine
end

