-- ==== Sys2Proof/Machine/Chain.lean ====
section
/-! DEFINITION. The chain engine, opcodes 0x60 to 0x67 (R336 to R350): its commands as they issue, the checks at their
start (R332, R337 to R339), and what they compute. -/
namespace Sys2Proof.Machine

/-! ## Issue -/

/-- CHAIN (R340). -/
def execChain (q : BitVec 2) (acq rel : Bool) (qo qa qb : BitVec 5) (p sr : Bool) (s : State) : Out :=
  s.syl q fun s => s.push .V (.chain q acq rel qo qa qb p sr) [] 0

/-- VRED (R344). -/
def execVred (q : BitVec 2) (acq rel : Bool) (qo qa : BitVec 5) (p : Bool) (f : BitVec 3) (s : State) : Out :=
  s.syl q fun s => s.push .V (.vred q acq rel qo qa p f) [] 0

/-- VGATH (R345). -/
def execVgath (q : BitVec 2) (acq rel : Bool) (qo qb : BitVec 5) (p : Bool) (s : State) : Out :=
  s.syl q fun s => s.push .V (.vgath q acq rel qo qb p) [] 0

/-- VSCAT (R346). -/
def execVscat (q : BitVec 2) (acq rel : Bool) (qa qb : BitVec 5) (p : Bool) (f : BitVec 3) (s : State) : Out :=
  s.syl q fun s => s.push .V (.vscat q acq rel qa qb p f) [] 0

/-- VCVT (R347). -/
def execVcvt (q : BitVec 2) (acq rel : Bool) (qo qa : BitVec 5) (p sr : Bool) (s : State) : Out :=
  s.syl q fun s => s.push .V (.vcvt q acq rel qo qa p sr) [] 0

/-- VQNT (R348). -/
def execVqnt (q : BitVec 2) (acq rel : Bool) (qo qa : BitVec 5) (sr : Bool) (s : State) : Out :=
  s.syl q fun s => s.push .V (.vqnt q acq rel qo qa sr) [] 0

/-- VFILL (R349). -/
def execVfill (q : BitVec 2) (acq rel : Bool) (qo : BitVec 5) (p : Bool) (f : BitVec 3) (s : State) : Out :=
  s.syl q fun s => s.push .V (.vfill q acq rel qo p f) [] 0

/-- VTRN (R350). -/
def execVtrn (q : BitVec 2) (acq rel : Bool) (qo qa : BitVec 5) (p : Bool) (s : State) : Out :=
  s.syl q fun s => s.push .V (.vtrn q acq rel qo qa p) [] 0

/-! ## Parameters -/

/-- The fields of R338. -/
structure ChainArgs where
  ops : Nat
  n : Nat
  nopm : Nat
  rm : Nat
  ct : Nat
  qc : BitVec 5
  qcv : Bool
  s0 : Nat
  s1 : Nat
  nrun : Nat
  trows : Nat
  tcols : Nat
  tbase : Nat
  tlen : Nat
  rsv1 : Bool
  rsv4 : Bool
  rsv5 : Bool
  ftz : Bool
  deriving DecidableEq, Repr

/-- R338's fields of the staging words, and FTZ as it stood at issue (R212, R290). -/
def chainArgs (w : List Word) (ftz : Bool) : ChainArgs :=
  let v (k : Nat) : Nat := (nth 0 w k).toNat
  { ftz, ops := v 0, n := bits (v 1) 0 32, nopm := bits (v 1) 32 3, rm := bits (v 1) 35 2, ct := bits (v 1) 37 3
    qc := BitVec.ofNat 5 (bits (v 1) 40 5), qcv := nbit (v 1) 45, s0 := v 2, s1 := v 3, nrun := bits (v 4) 0 32
    trows := bits (v 4) 32 7, tcols := bits (v 4) 40 7, tbase := bits (v 5) 0 20, tlen := bits (v 5) 20 22
    rsv1 := bits (v 1) 46 18 == 0, rsv4 := !nbit (v 4) 39 && bits (v 4) 47 17 == 0, rsv5 := bits (v 5) 42 22 == 0 }

/-- Op byte k. -/
def ChainArgs.op (a : ChainArgs) (k : Nat) : Nat := bits a.ops (8 * k) 8

/-- The op bytes of a CHAIN. -/
def ChainArgs.opList (a : ChainArgs) : List Nat := (List.range (a.nopm + 1)).map a.op

/-- Whether an operation code is unary (R341). -/
def opUnary (c : Nat) : Bool := 0x20 ≤ c

/-- Whether an op byte names the operand with selector k (R340). -/
def opNames (b k : Nat) : Bool := !opUnary (b % 64) && b % 64 != 0 && b / 64 == k

/-- Whether R341 assigns an operation code for float types, or for INT32. -/
def opFits (isFloat : Bool) (c : Nat) : Bool :=
  let only (f : Bool) : Bool := isFloat == f
  if c = 5 ∨ (0x28 ≤ c ∧ c ≤ 0x35) then only true
  else if (9 ≤ c ∧ c ≤ 0x0E) ∨ c = 0x13 ∨ c = 0x14 ∨ c = 0x36 then only false
  else c ≤ 0x15 || (0x20 ≤ c && c ≤ 0x27)

/-- R340's check of an op byte. -/
def opOk (isFloat : Bool) (b : Nat) : Bool := opFits isFloat (b % 64) && (!opUnary (b % 64) || b / 64 == 0)

/-- The float format of CT (R338, R339). -/
def ctFmt (ct : Nat) : Fmt :=
  match ct with
  | 1 => fp64
  | 3 => fp16
  | 4 => bf16
  | _ => fp32

/-- Whether a format may feed a command whose CT is of a class (R339). -/
def inOk (isFloat : Bool) (f : Nat) : Bool :=
  if isFloat then (fmtFloat f).isSome || f == 0x18 || f == 0x19 else 0x0A ≤ f && f ≤ 0x0F

/-- Whether a format may take the results of a command whose CT is of a class (R339). -/
def outOk (isFloat : Bool) (f : Nat) : Bool := if isFloat then (fmtFloat f).isSome else (fmtInt f).isSome

/-- R337: P against CT and the formats of the command's streams. -/
def pOk (p ct64 : Bool) (fs : List Nat) : Bool := p == (ct64 || fs.contains 1)

/-- R337: the destinations that SR allows. -/
def srOk (sr : Bool) (f : Nat) : Bool := !sr || f == 5 || f == 6

/-! ## The checks at the start -/

/-- The stream registers that a chain command names, outputs marked (R336). -/
def chainPos (c : Cmd) : List (BitVec 5 × Bool) :=
  let a := chainArgs c.stg c.vmode
  match c.i with
  | .chain _ _ _ qo qa qb _ _ =>
    [(qo, true), (qa, false)] ++ (if a.opList.any (opNames · 0) then [(qb, false)] else []) ++
      (if a.opList.any (opNames · 1) && a.qcv then [(a.qc, false)] else [])
  | .vred _ _ _ qo qa _ _ | .vcvt _ _ _ qo qa _ _ | .vqnt _ _ _ qo qa _ | .vtrn _ _ _ qo qa _ => [(qo, true), (qa, false)]
  | .vgath _ _ _ qo qb _ => [(qo, true), (qb, false)]
  | .vscat _ _ _ qa qb _ _ => [(qa, false), (qb, false)]
  | .vfill _ _ _ qo _ _ => [(qo, true)]
  | _ => []

/-- R345: the table's own checks. -/
def tableOk (a : ChainArgs) (eb : Nat) : Bool :=
  a.rsv5 && a.tlen != 0 && a.tlen ≤ 2 ^ 21 && a.tbase * 8 + a.tlen * eb ≤ 2 ^ 23

/-- The rest of R332's checks of a chain command: fields, formats and counts (R337 to R350). A nonzero reserved bit of
`V.1`, `V.4` or `V.5` fails it whichever fields of the word the command uses (R7, R332). -/
def chainFieldsOk (x : Tile) (c : Cmd) : Bool :=
  let a := chainArgs c.stg c.vmode
  let f := x.streamFmt
  let fl := a.ct != 2
  let base := a.rsv1 && a.rsv4 && a.rsv5 && a.n != 0
  match c.i with
  | .chain _ _ _ qo qa qb p sr =>
    base && a.ct ≤ 4 && a.opList.all (opOk fl) && (a.qcv || !a.opList.any (opNames · 1)) &&
      (chainPos c).all (fun q => if q.2 then outOk fl (f q.1) else inOk fl (f q.1)) &&
      pOk p (a.ct == 1) ([qo, qa].map f ++ (if a.opList.any (opNames · 0) then [f qb] else []) ++
        (if a.opList.any (opNames · 1) then [f a.qc] else [])) && srOk sr (f qo)
  | .vred _ _ _ qo qa p k =>
    base && a.nrun != 0 && a.ct ≤ 2 && inOk fl (f qa) && pOk p (a.ct == 1) [f qo, f qa] &&
      (if fl then outOk true (f qo) else f qo == 0x0E || (f qo == 0x10 && (k == 0 || k == 3)))
  | .vgath _ _ _ qo qb p =>
    base && (f qb == 0x0E || f qb == 0x0F) && (fmtBlock (f qo)).isNone && tableOk a (ebits (f qo)) &&
      pOk p false [f qo, f qb]
  | .vscat _ _ _ qa qb p k =>
    base && (f qb == 0x0E || f qb == 0x0F) && (fmtBlock (f qa)).isNone && tableOk a (ebits (f qa)) &&
      (k == 0 || (a.ct ≤ 4 && (if fl then (fmtFloat (f qa)).isSome else inOk false (f qa)))) &&
      pOk p (k != 0 && a.ct == 1) [f qa, f qb]
  | .vcvt _ _ _ qo qa p sr =>
    base && f qa != 0x10 && f qa != 0x11 && f qa != 7 && f qo != 7 && (fmtBlock (f qo)).isNone &&
      pOk p false [f qo, f qa] && srOk sr (f qo)
  | .vqnt _ _ _ qo qa _ =>
    base && 2 ≤ f qa && f qa ≤ 4 &&
      (match fmtBlock (f qo) with
       | none => false
       | some b => a.n % (b.e0 * b.e1) == 0)
  | .vfill _ _ _ qo p k =>
    base && (fmtBlock (f qo)).isNone && (k == 0 || f qo == 0x0E || f qo == 0x0F) && pOk p false [f qo]
  | .vtrn _ _ _ qo qa p =>
    base && a.trows != 0 && a.trows ≤ 64 && a.tcols != 0 && a.tcols ≤ 64 && f qo == f qa &&
      ebits (f qa) != 4 && (fmtBlock (f qa)).isNone && pOk p false [f qo]
  | _ => true

/-! ## Element operations (R341, R342) -/

/-- A constant of R342 in units of 2^−200, rounded to a format. -/
def chainConst (f : Fmt) (n : Nat) : Val := f.toVal .rne false 0 (.fin false n (-200) true)

def constL2E : Nat := 0x171547652b82fe1777d0ffda0d23a7d11d6aef551bad2b4b116
def constLN2 : Nat := 0xb17217f7d1cf79abc9e3b39803f2f6af40f343267298b62d8a
def constG1 : Nat := 0xcc42299ea1b284687e59e2805d5c717fa7053e60a24e0db180
def constG2 : Nat := 0xb727136a400fba8826aa8eb463497b7414a4d2b2bfdb4cc25

/-- The composites of R342; r: rounding to CT with RNE. -/
def chainExp (f : Fmt) (r : Val → Val) (w : Val) : Val := r (r (w.mul (chainConst f constL2E))).exp2
def chainLn (f : Fmt) (r : Val → Val) (w : Val) : Val := r ((r w.log2).mul (chainConst f constLN2))
def chainSigmoid (f : Fmt) (r : Val → Val) (w : Val) : Val := r (r ((Val.ofInt 1).add .rne (chainExp f r w.negate))).rcp
def chainTanh (f : Fmt) (r : Val → Val) (w : Val) : Val :=
  r (((Val.ofInt 2).mul (chainSigmoid f r (r ((Val.ofInt 2).mul w)))).add .rne (Val.ofInt (-1)))
def chainSilu (f : Fmt) (r : Val → Val) (w : Val) : Val := r (w.mul (chainSigmoid f r w))
def chainGelu (f : Fmt) (r : Val → Val) (w : Val) : Val :=
  let u := r (w.mul w)
  let u := r (u.mul w)
  let u := r ((chainConst f constG2).mul u)
  let u := r (w.add .rne u)
  let u := r ((chainConst f constG1).mul u)
  let u := chainTanh f r u
  r ((r ((Val.fin false 1 (-1) false).mul w)).mul (r ((Val.ofInt 1).add .rne u)))

/-- The code of 1.0 or +0 (R341). -/
def fbool (f : Fmt) (b : Bool) : Nat := if b then f.round .rne false 0 (Val.ofInt 1) else 0

/-- R341 on codes of a float type: w and T after an operation. A NaN of T ranks first in MADT (DESIGN CHOICE,
notes/assumptions/108.md). -/
def fop (f : Fmt) (rm : RMode) (ftz : Bool) (c w y t : Nat) : Nat × Nat :=
  let sb := 2 ^ (f.width - 1)
  let a := f.val w
  let b := f.val y
  let d := f.val t
  let r (v : Val) : Nat × Nat := (f.round rm ftz 0 v, t)
  let e (v : Val) : Nat × Nat := (f.round .rne ftz 0 v, t)
  let rr (v : Val) : Val := f.toVal .rne ftz 0 v
  match c with
  | 0x01 => r (a.add rm b)
  | 0x02 => r (a.add rm b.negate)
  | 0x03 => r (match a with
    | .nan k => .nan k
    | a => b.add rm a.negate)
  | 0x04 => r (a.mul b)
  | 0x05 => r (a.div b)
  | 0x06 => r (a.minmax false b)
  | 0x07 => r (a.minmax true b)
  | 0x08 => r (a.fma rm b d)
  | 0x0F => (fbool f (a.cmp b == some .eq), t)
  | 0x10 => (fbool f (a.cmp b == some .lt), t)
  | 0x11 => (fbool f (a.cmp b == some .lt || a.cmp b == some .eq), t)
  | 0x12 => (if w % sb = 0 then t else y, t)
  | 0x15 => (y, t)
  | 0x20 => (w, w)
  | 0x21 => (t, w)
  | 0x22 => r (a.add rm d)
  | 0x23 => r (a.mul d)
  | 0x24 => (Nat.xor w sb, t)
  | 0x25 => (w % sb, t)
  | 0x26 => r (a.mul a)
  | 0x27 => r (a.minmax true (.zero false))
  | 0x28 => e a.rcp
  | 0x29 => e a.rsqrt
  | 0x2A => r a.sqrt
  | 0x2B => e a.exp2
  | 0x2C => e a.log2
  | 0x2D => e (chainExp f rr a)
  | 0x2E => e (chainLn f rr a)
  | 0x2F => e (chainSigmoid f rr a)
  | 0x30 => e (chainTanh f rr a)
  | 0x31 => e (chainSilu f rr a)
  | 0x32 => e (chainGelu f rr a)
  | 0x33 => r (a.integral .rd)
  | 0x34 => r (a.integral .ru)
  | 0x35 => r (a.integral .rne)
  | _ => (w, t)

/-- R341 on INT32: w and T after an operation. -/
def iop (c w y t : Nat) : Nat × Nat :=
  let m : Nat := 2 ^ 32
  let a := sgn 32 w
  let b := sgn 32 y
  let z (i : Int) : Nat × Nat := ((i % (m : Int)).toNat, t)
  let sat (i : Int) : Int := max (-2 ^ 31) (min (2 ^ 31 - 1) i)
  match c with
  | 0x01 => z (a + b)
  | 0x02 => z (a - b)
  | 0x03 => z (b - a)
  | 0x04 => z (a * b)
  | 0x06 => z (min a b)
  | 0x07 => z (max a b)
  | 0x08 => z (a * b + sgn 32 t)
  | 0x09 => (Nat.land w y, t)
  | 0x0A => (Nat.lor w y, t)
  | 0x0B => (Nat.xor w y, t)
  | 0x0C => (w * 2 ^ (y % 32) % m, t)
  | 0x0D => (w / 2 ^ (y % 32), t)
  | 0x0E => z (a / (2 ^ (y % 32) : Nat))
  | 0x0F => (b2n (a == b), t)
  | 0x10 => (b2n (a < b), t)
  | 0x11 => (b2n (a ≤ b), t)
  | 0x12 => (if w = 0 then t else y, t)
  | 0x13 => z (sat (a + b))
  | 0x14 => z (sat (a - b))
  | 0x15 => (y, t)
  | 0x20 => (w, w)
  | 0x21 => (t, w)
  | 0x22 => z (a + sgn 32 t)
  | 0x23 => z (a * sgn 32 t)
  | 0x24 => z (-a)
  | 0x25 => z (a.natAbs : Int)
  | 0x26 => z (a * a)
  | 0x27 => z (max a 0)
  | 0x36 => (m - 1 - w, t)
  | _ => (w, t)

/-- An operation in CT (R341). -/
def chainOp (ct : Nat) (rm : RMode) (ftz : Bool) (c w y t : Nat) : Nat × Nat :=
  if ct = 2 then iop c w y t else fop (ctFmt ct) rm ftz c w y t

/-! ## Into and out of CT (R339) -/

/-- The value of an element, a subnormal one flushed with FTZ (R212). -/
def flushIn (ftz : Bool) (f : Nat) (v : Val) : Val :=
  if ftz then (match fmtFloat f with
    | some g => g.flush v
    | none => v)
  else v

/-- Whether a code of a float format is subnormal. -/
def Fmt.subCode (g : Fmt) (c : Nat) : Bool := decide (g.flush (g.val c) ≠ g.val c)

/-- A KQ4 side record with the subnormal scales and outliers at zero (R208, R212). -/
def flushKq (r : List Byte) : List Byte :=
  (List.range (r.length / 2)).flatMap fun k =>
    let c := leNat ((r.drop (2 * k)).take 2)
    leBytes 2 (if (k < 64 || (k < 80 && k % 2 == 1)) && fp16.subCode c then c / 2 ^ 15 * 2 ^ 15 else c)

/-- An element's value as a chain command takes it; with FTZ, the subnormal codes of a block format count as zeros
(notes/assumptions/76.md). -/
def Elem.chainVal (e : Elem) (ftz : Bool) (f : Nat) : Val :=
  if !ftz then e.val f
  else
    let sp := (nth 0 e.side 1).toNat
    match f with
    | 0x18 =>
      if (nth 0 e.side 0) = 0xFF then e.val f
      else if e.code % 8 = 1 then .zero (8 ≤ e.code)
      else if e.code = 8 && e4m3.subCode sp then .zero (128 ≤ sp)
      else e.val f
    | 0x19 => if (nth 0 e.side 0) ≠ 0xFF && e4m3.subCode e.code then .zero (128 ≤ e.code) else e.val f
    | 0x1C => kqVal true (flushKq e.side) e.code e.place
    | 0x1D => kqVal false (flushKq e.side) e.code e.place
    | f => flushIn true f (e.val f)

/-- R339: an element into CT. An element of CT's own format keeps its bits. -/
def chainIn (ct : Nat) (rm : RMode) (ftz : Bool) (f : Nat) (e : Elem) : Nat :=
  if ct = 2 then
    match fmtInt f with
    | some w => (intOf w e.code % 2 ^ 32).toNat
    | none => 0
  else
    let g := ctFmt ct
    if fmtFloat f = some g then
      (match g.val e.code with
       | .nan _ => e.code
       | v => g.round .rne false 0 (flushIn ftz f v))
    else g.round rm ftz 0 (e.chainVal ftz f)

/-- A scalar operand in CT (R338). -/
def scalarIn (ct : Nat) (ftz : Bool) (v : Nat) : Nat :=
  if ct = 2 then v % 2 ^ 32
  else
    let g := ctFmt ct
    chainIn ct .rne ftz (match ct with
      | 1 => 1
      | 3 => 3
      | 4 => 4
      | _ => 2) ⟨v % 2 ^ g.width, [], 0, false⟩

/-- An integer saturated to an integer format, as its code. -/
def satInt (f : Nat) (i : Int) : Nat :=
  match fmtInt f with
  | some w => (max (intLo w) (min (intHi w) i) % 2 ^ w.1).toNat
  | none => 0

/-- R339: a working value out of CT. -/
def chainOut (ct : Nat) (mode : RMode) (ftz : Bool) (draw f w : Nat) : Nat :=
  if ct = 2 then satInt f (sgn 32 w)
  else
    match fmtFloat f with
    | some g => g.round mode ftz draw ((ctFmt ct).val w)
    | none => 0

/-- R211: a draw where a conversion is stochastic. -/
def drawM (t : Nat) (sr : Bool) : EngM Nat := do
  if sr then
    let s ← get
    let r := s.draw t
    set r.1
    return r.2
  else return 0

/-- The format of a stream register of tile t. -/
def fmtM (t : Nat) (n : BitVec 5) : EngM Nat := return ((← get).tile t).streamFmt n

/-! ## CHAIN -/

/-- The operands of the op bytes for one element: w and T after them. -/
def chainOps (ct : Nat) (rm : RMode) (ftz : Bool) (ys : List Nat) : List Nat → Nat × Nat → Nat × Nat
  | [], r => r
  | b :: bs, r => chainOps ct rm ftz ys bs (chainOp ct rm ftz (b % 64) r.1 (nth 0 ys (b / 64)) r.2)

/-- R340. -/
def chainM (t : Nat) (a : ChainArgs) (qo qa qb : BitVec 5) (sr : Bool) : EngM Unit := do
  let ftz := a.ftz
  let rm := rmode a.rm
  let fa ← fmtM t qa
  let fb ← fmtM t qb
  let fc ← fmtM t a.qc
  let fo ← fmtM t qo
  let useB := a.opList.any (opNames · 0)
  let useC := a.opList.any (opNames · 1)
  (List.range a.n).forM fun _ => do
    let w := chainIn a.ct rm ftz fa (← popElem t qa)
    let b ← if useB then pure (chainIn a.ct rm ftz fb (← popElem t qb)) else pure 0
    let c ← if useC then pure (chainIn a.ct rm ftz fc (← popElem t a.qc)) else pure 0
    let r := chainOps a.ct rm ftz [b, c, scalarIn a.ct ftz a.s0, scalarIn a.ct ftz a.s1] a.opList (w, 0)
    let d ← drawM t sr
    pushElem t qo (chainOut a.ct (if sr then .sr else rm) ftz d fo r.1) []

/-! ## VRED -/

/-- R218: elements laid over L lanes, each lane folded in element order. -/
def lanesFold (L : Nat) (op : Nat → Nat → Nat) : List Nat → List (Option Nat) → Nat → List (Option Nat)
  | [], p, _ => p
  | x :: xs, p, i =>
    let v := match nth none p (i % L) with
      | none => x
      | some y => op y x
    lanesFold L op xs (setNth p (i % L) (some v)) (i + 1)

/-- Two lanes of the tree. -/
def laneJoin (op : Nat → Nat → Nat) (a b : Option Nat) : Option Nat :=
  match a, b with
  | a, none => a
  | none, some y => some y
  | some x, some y => some (op x y)

/-- R218: the tree over 2^k lanes. -/
def lanesTree (op : Nat → Nat → Nat) : Nat → List (Option Nat) → Option Nat
  | 0, p => nth none p 0
  | k + 1, p => lanesTree op k ((List.range (2 ^ k)).map fun l => laneJoin op (nth none p l) (nth none p (l + 2 ^ k)))

/-- R218: a reduction of elements in CT. -/
def vreduce (ct : Nat) (op : Nat → Nat → Nat) (xs : List Nat) : Nat :=
  let k := if ct = 1 then 4 else 6
  (lanesTree op k (lanesFold (2 ^ k) op xs (List.replicate (2 ^ k) none) 0)).getD 0

/-- R344 for one run of elements in CT: the code of the result. -/
def vredRun (a : ChainArgs) (f : Nat) (ftz : Bool) (fo : Nat) (xs : List Nat) : Nat :=
  let rm := rmode a.rm
  if a.ct = 2 then
    let is := xs.map (sgn 32)
    satInt fo
      (match f with
       | 0 => is.sum
       | 1 => is.foldl max (is.headD 0)
       | 2 => is.foldl min (is.headD 0)
       | 3 => (is.map fun i => i * i).sum
       | _ => (is.map fun i => (i.natAbs : Int)).foldl max 0)
  else
    let op (c w y : Nat) : Nat := (chainOp a.ct rm ftz c w y 0).1
    chainOut a.ct rm ftz 0 fo
      (match f with
       | 0 => vreduce a.ct (op 1) xs
       | 1 => vreduce a.ct (op 7) xs
       | 2 => vreduce a.ct (op 6) xs
       | 3 => vreduce a.ct (op 1) (xs.map fun x => op 0x26 x 0)
       | _ => vreduce a.ct (op 7) (xs.map fun x => if ((ctFmt a.ct).val x).isNaN then x else op 0x25 x 0))

/-- R344. -/
def vredM (t : Nat) (a : ChainArgs) (qo qa : BitVec 5) (f : Nat) : EngM Unit := do
  let ftz := a.ftz
  let fa ← fmtM t qa
  let fo ← fmtM t qo
  (List.range a.nrun).forM fun _ => do
    let xs ← popN t qa a.n
    pushElem t qo (vredRun a f ftz fo (xs.map (chainIn a.ct (rmode a.rm) ftz fa))) []

/-! ## Tables: VGATH and VSCAT -/

/-- The bit address of a table position (R345). -/
def tableBit (a : ChainArgs) (eb idx : Nat) : Nat := a.tbase * 8 + idx * eb

/-- An element of the table; poison raises POISON (R109). -/
def tableRead (t : Nat) (a : ChainArgs) (eb idx : Nat) : EngM Nat := do
  bankM (.spad t) (tableBit a eb idx / 8) (elemBytes eb)
  let s ← get
  let e := s.elemAt (.spad t) (tableBit a eb idx) eb
  if e.2 then
    set (s.consumed (.spad t) (tableBit a eb idx / 8) (s.tile t).ctx)
    throw ⟨.poison, tableBit a eb idx / 8, none, false, none⟩
  return e.1

/-- An index popped; beyond the table it raises ENGINE (R345). -/
def popIndex (t : Nat) (a : ChainArgs) (q : BitVec 5) : EngM Nat := do
  let e ← popElem t q
  if a.tlen ≤ e.code then eng .engine (some q)
  return e.code

/-- R345. -/
def vgathM (t : Nat) (a : ChainArgs) (qo qb : BitVec 5) : EngM Unit := do
  let fo ← fmtM t qo
  (List.range a.n).forM fun _ => do
    let i ← popIndex t a qb
    pushElem t qo (← tableRead t a (ebits fo) i) []

/-- R346: the new contents of a table position. -/
def scatNew (f k : Nat) (rm : RMode) (ftz : Bool) (old v : Nat) : Nat :=
  if k = 0 then v
  else
    match fmtFloat f with
    | some g =>
      let a := flushIn ftz f (g.val old)
      let b := flushIn ftz f (g.val v)
      g.round rm ftz 0 (match k with
        | 1 => a.add rm b
        | 2 => a.minmax true b
        | _ => a.minmax false b)
    | none =>
      let w := (fmtInt f).getD (32, true)
      let a := intOf w old
      let b := intOf w v
      satInt f (match k with
        | 1 => a + b
        | 2 => max a b
        | _ => min a b)

/-- R346. -/
def vscatM (t : Nat) (a : ChainArgs) (qa qb : BitVec 5) (k : Nat) : EngM Unit := do
  let ftz := a.ftz
  let f ← fmtM t qa
  (List.range a.n).forM fun _ => do
    let v ← popElem t qa
    let i ← popIndex t a qb
    let old ← if k = 0 then pure 0 else tableRead t a (ebits f) i
    copyPutElem [t] (tableBit a (ebits f) i) (ebits f) (scatNew f k (rmode a.rm) ftz old v.code) false

/-! ## VCVT, VFILL, VTRN -/

/-- R347: one element converted. -/
def vcvtElem (fa fo : Nat) (mode : RMode) (ftz : Bool) (draw : Nat) (e : Elem) : Nat :=
  if fa = fo then e.code
  else
    match fmtFloat fo with
    | some g => g.round mode ftz draw (e.chainVal ftz fa)
    | none =>
      match fmtInt fa with
      | some w => satInt fo (intOf w e.code)
      | none =>
        let w := (fmtInt fo).getD (32, true)
        ((e.chainVal ftz fa).toInt mode (intLo w) (intHi w) draw % 2 ^ w.1).toNat

/-- R347. -/
def vcvtM (t : Nat) (a : ChainArgs) (qo qa : BitVec 5) (sr : Bool) : EngM Unit := do
  let ftz := a.ftz
  let fa ← fmtM t qa
  let fo ← fmtM t qo
  (List.range a.n).forM fun _ => do
    let e ← popVal t qa fa
    let d ← drawM t sr
    pushElem t qo (vcvtElem fa fo (if sr then .sr else rmode a.rm) ftz d e) []

/-- R349. -/
def vfillM (t : Nat) (a : ChainArgs) (qo : BitVec 5) (iota : Bool) : EngM Unit := do
  let fo ← fmtM t qo
  (List.range a.n).forM fun i =>
    pushElem t qo (if iota then (a.s0 + i * a.s1) % 2 ^ 32 else a.s0 % 2 ^ ebits fo) []

/-- R350. -/
def vtrnM (t : Nat) (a : ChainArgs) (qo qa : BitVec 5) : EngM Unit :=
  (List.range a.n).forM fun _ => do
    let xs := (← popN t qa (a.trows * a.tcols)).map (·.code)
    (List.range a.tcols).forM fun c => (List.range a.trows).forM fun r => pushElem t qo (nth 0 xs (r * a.tcols + c)) []

/-! ## Block quantisation (R217, R348) -/

/-- |v|, a NaN as it is. -/
def Val.abs (v : Val) : Val := v.withSign false

/-- ⌊log2⌋ of a finite nonzero value. -/
def Val.floorLog2 (v : Val) : Int :=
  match v with
  | .fin _ m e _ => (Nat.log2 m : Int) + e
  | _ => 0

/-- Whether a value is NaN or infinite. -/
def Val.wild (v : Val) : Bool := v.isNaN || v.isInf

/-- The index and value of the largest |x| of a list, the lowest on a tie. -/
def argMax : List Val → Nat → Option (Nat × Val) → Option (Nat × Val)
  | [], _, r => r
  | x :: xs, i, r =>
    argMax xs (i + 1)
      (match r with
       | none => some (i, x.abs)
       | some (j, y) => if x.abs.cmp y == some .gt then some (i, x.abs) else some (j, y))

/-- An exponent held to −127 to 127 (R217). -/
def clampExp (e : Int) : Int := max (-127) (min 127 e)

/-- R217: quant_be2: the codes and the side record. -/
def quantBe2 (mode : RMode) (ftz : Bool) (xs : List Val) (ds : List Nat) : List Nat × List Byte :=
  let zero := List.replicate xs.length 0
  if xs.any Val.wild then (zero, [0xFF, 0])
  else
    let m := (argMax xs 0 none).getD (0, .zero false)
    let rest := xs.zipIdx.filterMap fun p => if p.2 = m.1 then none else some p.1
    let r1 := ((argMax rest 0 none).getD (0, .zero false)).2
    let ref := if r1.isZero then m.2 else r1
    if ref.isZero then (zero, [0x7F, 0])
    else
      let e := clampExp (ref.floorLog2 - 2)
      let cs := xs.zipIdx.map fun p =>
        if p.2 = m.1 then 8
        else
          let c := e2m1.round mode ftz (nth 0 ds p.2) (p.1.scale (-e))
          if c % 8 = 0 then 0 else c
      (cs, [BitVec.ofInt 8 (e + 127),
        BitVec.ofNat 8 (e4m3.round mode ftz (nth 0 ds m.1) ((nth (.zero false) xs m.1).scale (-e)))])

/-- R217: quant_be8: the codes and the side record. -/
def quantBe8 (mode : RMode) (ftz : Bool) (xs : List Val) (ds : List Nat) : List Nat × List Byte :=
  let zero := List.replicate xs.length 0
  if xs.any Val.wild then (zero, [0xFF])
  else
    let m := ((argMax xs 0 none).getD (0, .zero false)).2
    if m.isZero then (zero, [0x7F])
    else
      let e := clampExp (m.floorLog2 - 8)
      (xs.zipIdx.map fun p => e4m3.round mode ftz (nth 0 ds p.2) (p.1.scale (-e)), [BitVec.ofInt 8 (e + 127)])

/-- R217: the outliers of a KQ4 block: the element numbers, at most k. An infinity may be one, a NaN is none (DESIGN CHOICE,
notes/assumptions/96.md). -/
def kqOutliers (xs : List Val) : Nat → List Nat → List Nat
  | 0, acc => acc
  | k + 1, acc =>
    let cand := xs.zipIdx.filterMap fun p =>
      if acc.contains p.2 || p.1.isNaN || p.1.isZero then none else some p
    match argMax (cand.map Prod.fst) 0 none with
    | none => acc
    | some (i, _) => kqOutliers xs k (acc ++ [(nth (Val.zero false, 0) cand i).2])

/-- R217: a scale of a KQ4 block from the values that it scales. -/
def kqScaleOf (ftz : Bool) (xs : List Val) : Nat :=
  if xs.any Val.wild then 0x7E02
  else
    let m := ((argMax xs 0 none).getD (0, .zero false)).2
    min 0x7BFF (fp16.round .rne ftz 0 (m.div (Val.ofInt 7)))

/-- R217: quantisation of a KQ4 block: the codes and the side record (R208). The code at an outlier's position, and POS and OVAL of
unused slots, are 0 (DESIGN CHOICE, notes/assumptions/96.md). -/
def quantKq (keys : Bool) (mode : RMode) (ftz : Bool) (xs : List Val) (ds : List Nat) : List Nat × List Byte :=
  let outs := (kqOutliers xs 8 []).mergeSort (· ≤ ·)
  let group (n : Nat) : Nat := if keys then n % 64 else n / 64
  let idx := xs.zipIdx.filter fun p => !outs.contains p.2
  let scales := (List.range 64).map fun k => kqScaleOf ftz ((idx.filter fun p => group p.2 == k).map Prod.fst)
  let code (p : Val × Nat) : Nat :=
    if outs.contains p.2 then 0
    else
      match fp16.val (nth 0 scales (group p.2)) with
      | .nan _ => 0
      | v => if v.isZero then 0 else ((p.1.div v).toInt mode (-8) 7 (nth 0 ds p.2) % 16).toNat
  let out (k : Nat) : List Byte :=
    match outs[k]? with
    | none => [0, 0, 0, 0]
    | some n => leBytes 2 n ++ leBytes 2 (fp16.round .rne ftz 0 (nth (.zero false) xs n))
  (xs.zipIdx.map code,
    (scales.flatMap fun c => leBytes 2 c) ++ ((List.range 8).flatMap out) ++ [BitVec.ofNat 8 outs.length, 64] ++
      List.replicate 30 0)

/-- One block of VQNT popped and quantised (R348). -/
def vqntBlock (t : Nat) (qa : BitVec 5) (fa fo n : Nat) (mode : RMode) (ftz : Bool) : EngM (List Nat × List Byte) := do
  let xs := (← popN t qa n).map (·.chainVal ftz fa)
  let ds ← (List.range n).mapM fun _ => drawM t (mode == .sr)
  return (match fo with
    | 0x18 => quantBe2 mode ftz xs ds
    | 0x19 => quantBe8 mode ftz xs ds
    | f => quantKq (f == 0x1C) mode ftz xs ds)

/-- R348: blocks quantised and pushed in pattern order. -/
def vqntM (t : Nat) (a : ChainArgs) (qo qa : BitVec 5) (sr : Bool) : EngM Unit := do
  let fa ← fmtM t qa
  let fo ← fmtM t qo
  let mode := if sr then .sr else rmode a.rm
  let p := match ((← get).tile t).stream qo with
    | some q => patOf q.desc
    | none => patOf []
  let b := (fmtBlock fo).getD ⟨32, 1, 2⟩
  let n := b.e0 * b.e1
  let g := max 1 (p.abreast b)
  let total := a.n / n
  (List.range (ceilDiv total g)).forM fun k => do
    let bs ← (List.range (min g (total - k * g))).mapM fun _ => vqntBlock t qa fa fo n mode a.ftz
    let start := match ((← get).tile t).stream qo with
      | some q => q.epos
      | none => 0
    (List.range (bs.length * n)).forM fun j => do
      let at' := p.blockAt b (start + j)
      let r := nth ([], []) bs ((at'.1 - (p.blockAt b start).1) % g)
      pushElem t qo (nth 0 r.1 at'.2) r.2

/-! ## The engine -/

/-- What a chain command does (R340 to R350). -/
def chainRun (t : Nat) (c : Cmd) : EngM Unit :=
  let a := chainArgs c.stg c.vmode
  match c.i with
  | .chain _ _ _ qo qa qb _ sr => chainM t a qo qa qb sr
  | .vred _ _ _ qo qa _ f => vredM t a qo qa f.toNat
  | .vgath _ _ _ qo qb _ => vgathM t a qo qb
  | .vscat _ _ _ qa qb _ f => vscatM t a qa qb f.toNat
  | .vcvt _ _ _ qo qa _ sr => vcvtM t a qo qa sr
  | .vqnt _ _ _ qo qa sr => vqntM t a qo qa sr
  | .vfill _ _ _ qo _ f => vfillM t a qo (f == 1)
  | .vtrn _ _ _ qo qa _ => vtrnM t a qo qa
  | _ => pure ()

end Sys2Proof.Machine
end

