-- ==== Sys2Proof/Machine/Matrix.lean ====
section
/-! DEFINITION. The matrix engine, opcodes 0x68 to 0x6B: the lease of a cluster's array (R128, R175, R351), exact K-steps
(R214 to R216), MMA, MMAB and MZ (R352 to R357). -/
namespace Sys2Proof.Machine

/-! ## The lease (R175) -/

/-- R175, R128: a period granted to tile i of the cluster; it ends a round when i is at or below the tile granted
before, and the stationary buffer of another tile becomes invalid (R355). -/
def Cluster.grant (c : Cluster) (i : Nat) : Cluster :=
  let ends := match c.lastGrant with
    | some j => decide (i ≤ j)
    | none => false
  { c with
    held := true
    holder := i
    req := c.req &&& ~~~((1 : BitVec 4) <<< i)
    cmdLeft := 64
    cycLeft := 8192
    round := if ends then c.round + 1 else c.round
    opbuf := if ends then [] else c.opbuf
    lastGrant := some i
    sbOwner := if c.sbOwner = some i then c.sbOwner else none }

/-- The next waiting tile in round-robin order after the holder. -/
def Cluster.nextWaiting (c : Cluster) : Option Nat :=
  ([1, 2, 3].map fun k => (c.holder + k) % 4).find? fun i => c.req.getLsbD i

/-- R175 at the end of a period: the next waiting tile, with the former holder waiting, or a new period of the holder. -/
def Cluster.periodEnd (c : Cluster) : Cluster :=
  match c.nextWaiting with
  | some i => { c with req := c.req ||| ((1 : BitVec 4) <<< c.holder) }.grant i
  | none => c.grant c.holder

/-- R175 at RELS or EXIT of tile i. -/
def Cluster.release (c : Cluster) (i : Nat) : Cluster :=
  let c := { c with sbOwner := if c.sbOwner = some i then none else c.sbOwner }
  if c.held && c.holder == i then
    match c.nextWaiting with
    | some j => c.grant j
    | none => { c with held := false, cmdLeft := 0, cycLeft := 0 }
  else { c with req := c.req &&& ~~~((1 : BitVec 4) <<< i) }

/-- Whether tile i holds the lease, or waits for it. -/
def Cluster.holds (c : Cluster) (i : Nat) : Bool := c.held && c.holder == i
def Cluster.waits (c : Cluster) (i : Nat) : Bool := c.req.getLsbD i

/-- A LEASE of tile i (R175). -/
def Cluster.request (c : Cluster) (i : Nat) : Cluster :=
  if c.holds i then c
  else if !c.held then c.grant i
  else { c with req := c.req ||| ((1 : BitVec 4) <<< i) }

/-- LEASE (R351): it waits in the group until the tile holds the lease. -/
def execLease (q : BitVec 2) (s : State) : Out :=
  s.syl q fun s =>
    let s := s.updCluster (s.cur.tile / 4) fun c => c.request (s.cur.tile % 4)
    if (s.cluster (s.cur.tile / 4)).holds (s.cur.tile % 4) then s else s.wait .lease (.lease q)

/-- RELS (R351): it enters the M queue. -/
def execRels (q : BitVec 2) (s : State) : Out := s.syl q fun s => s.push .M (.rels q) [] 0

/-- LEASE_PERIOD_END (R175) of a cluster whose period is spent. -/
def execLeasePeriodEnd (cl : Nat) (s : State) : Out :=
  let c := s.cluster cl
  .next (if c.held && (c.cmdLeft == 0 || c.cycLeft == 0) then s.updCluster cl Cluster.periodEnd else s)

/-! ## Issue -/

/-- The push of a command of the array: from a tile that neither holds the lease nor waits for it, it raises LEASE as it
issues (R175, R370). -/
def State.pushArray (s : State) (i : Instr) : State :=
  let c := s.cluster (s.cur.tile / 4)
  if c.holds (s.cur.tile % 4) || c.waits (s.cur.tile % 4) then s.push .M i [] 0 else s.raise .lease

/-- MMA (R352). -/
def execMma (q : BitVec 2) (acq rel : Bool) (qa qb : BitVec 5) (bank : BitVec 4) (s : State) : Out :=
  s.syl q fun s => s.pushArray (.mma q acq rel qa qb bank)

/-- MMAB (R352). -/
def execMmab (q : BitVec 2) (acq rel : Bool) (qa qb : BitVec 5) (bank : BitVec 4) (loadb : Bool) (s : State) : Out :=
  s.syl q fun s => s.pushArray (.mmab q acq rel qa qb bank loadb)

/-- MZ (R352). -/
def execMz (q : BitVec 2) (acq rel : Bool) (bank : BitVec 4) (s : State) : Out :=
  s.syl q fun s => s.pushArray (.mz q acq rel bank)

/-! ## Parameters -/

/-- The fields of `M.0` (R352). -/
structure MmaArgs where
  mb : Nat
  nb : Nat
  row0 : Nat
  col0 : Nat
  ks : Nat
  z : Bool
  ok : Bool
  deriving DecidableEq, Repr

/-- R352's fields: block rows and columns, first row and column, K-steps; `ok`: no reserved bit, no region past row or
column 63. -/
def mmaArgs (w : List Word) : MmaArgs :=
  let m := (nth 0 w 0).toNat
  let mb := bits m 0 2 + 1
  let nb := bits m 2 2 + 1
  { mb, nb, row0 := 16 * bits m 4 2, col0 := 16 * bits m 6 2, ks := bits m 8 16, z := nbit m 24
    ok := m / 2 ^ 25 == 0 && bits m 4 2 + mb ≤ 4 && bits m 6 2 + nb ≤ 4 }

/-- R353: the class of an operand format and its elements of K per step. -/
def mmaClass (f : Nat) : Option (Nat × Nat) :=
  match f with
  | 0x02 => some (0, 32)
  | 0x03 | 0x04 => some (1, 64)
  | 0x05 | 0x06 => some (2, 128)
  | 0x19 => some (3, 128)
  | 0x18 => some (4, 256)
  | 0x0A | 0x0B => some (5, 128)
  | _ => none

/-- R353: whether two formats form a pair. -/
def mmaPair (f g : Nat) : Bool := (mmaClass f).isSome && mmaClass f == mmaClass g

/-- The stream registers that a matrix command names. -/
def mmaPos (c : Cmd) : List (BitVec 5 × Bool) :=
  match c.i with
  | .mma _ _ _ qa qb _ => [(qa, false), (qb, false)]
  | .mmab _ _ _ qa qb _ l => (qa, false) :: (if l then [(qb, false)] else [])
  | _ => []

/-- The cycles of the array that a command takes (R357). -/
def mmaCycles (c : Cmd) : Nat :=
  let a := mmaArgs c.stg
  match c.i with
  | .mma _ _ _ _ _ _ | .mmab _ _ _ _ _ _ _ => a.mb * a.nb * a.ks
  | .mz _ _ _ _ => a.mb * a.nb
  | _ => 0

/-- R332, R352 to R357: fields, formats and counts of a matrix command of tile t. -/
def mmaFieldsOk (s : State) (t : Nat) (c : Cmd) : Bool :=
  let a := mmaArgs c.stg
  let f := (s.tile t).streamFmt
  let k := s.cluster (t / 4)
  match c.i with
  | .mma _ _ _ qa qb _ => a.ok && a.ks != 0 && mmaPair (f qa) (f qb) && mmaCycles c ≤ 8192
  | .mmab _ _ _ qa qb _ l =>
    a.ok && a.ks != 0 && mmaCycles c ≤ 8192 &&
      (if l then mmaPair (f qa) (f qb) && a.ks * a.nb ≤ 16
       else k.sbOwner == some (t % 4) && k.sbKS == a.ks && k.sbN == a.nb && mmaPair (f qa) k.sbFmt)
  | .mz _ _ _ _ => a.ok
  | _ => true

/-! ## Exact sums -/

/-- The products of two rows and what R214's rules 4 and 5 ask of them: one of zero and infinity, a positive and a
negative infinity, the exact finite sum. -/
def dotTerms : List Val → List Val → Bool × Bool × Bool × Option Val → Bool × Bool × Bool × Option Val
  | a :: as, b :: bs, (z, p, n, r) =>
    dotTerms as bs
      (match a.mul b with
       | .nan _ => (true, p, n, r)
       | .inf true => (z, p, true, r)
       | .inf false => (z, true, n, r)
       | v =>
         (z, p, n, match r with
           | none => some v
           | some w => some (w.add .rne v)))
  | _, _, r => r

/-- R214 to R216: the exact sum of an accumulator, if there is one, and of the products of a row of A and a column of B;
`sc`: a scale that applies is NaN. A sum whose every product is −0 is −0 in the dot engine too (DESIGN CHOICE,
notes/assumptions/96.md). -/
def exactDot (acc : Option Val) (as bs : List Val) (sc : Bool) : Val :=
  match acc, firstNaN (as ++ bs) with
  | some (.nan c), _ => .nan c
  | _, some c => if sc then .nan 2 else .nan c
  | acc, none =>
    let r := dotTerms as bs (false, match acc with
      | some (.inf false) => true
      | _ => false, match acc with
      | some (.inf true) => true
      | _ => false, match acc with
      | some (.fin n m e st) => some (.fin n m e st)
      | _ => none)
    if r.1 then .nan 4
    else if r.2.1 && r.2.2.1 then .nan 3
    else if r.2.1 then .inf false
    else if r.2.2.1 then .inf true
    else r.2.2.2.getD (.zero false)

/-- Whether an element's block scale is NaN. -/
def Elem.scaleNaN (e : Elem) (f : Nat) : Bool :=
  match f with
  | 0x18 | 0x19 => nth 0 e.side 0 == 0xFF
  | 0x1C | 0x1D => e.val f == .nan 2
  | _ => false

/-- A saturated INT32 as its bit pattern. -/
def sat32 (i : Int) : Nat := (max (-2 ^ 31) (min (2 ^ 31 - 1) i) % 2 ^ 32).toNat

/-- R216 for one output element from the code of its accumulator (none: zero, Z = 1). -/
def kstep (fa fb : Nat) (acc : Nat) (as bs : List Elem) : Nat :=
  match fmtInt fa, fmtInt fb with
  | some wa, some wb =>
    sat32 (sgn 32 acc + ((as.zip bs).map fun p => intOf wa p.1.code * intOf wb p.2.code).sum)
  | _, _ =>
    fp32.round .rne false 0
      (exactDot (some (fp32.val acc)) (as.map (·.val fa)) (bs.map (·.val fb))
        (as.any (·.scaleNaN fa) || bs.any (·.scaleNaN fb)))

/-! ## Banks -/

/-- The offset in window 1 of an element of a bank (R117). -/
def bankOff (bank r c : Nat) : Nat := bank * 0x4000 + (r * 64 + c) * 4

/-- A bank element read by an engine; poison raises POISON (R109). -/
def bankRead (t bank r c : Nat) : EngM Nat := do
  let s ← get
  let a := bankOff bank r c
  if s.poisoned (.acc t) a 4 then
    set (s.consumed (.acc t) a (s.tile t).ctx)
    throw ⟨.poison, a, none, false, none⟩
  return s.num (.acc t) a 4

/-- A bank element written by an engine. -/
def bankWrite (t bank r c v : Nat) : EngM Unit :=
  modify fun s => s.write (.acc t) (bankOff bank r c) (leBytes 4 v) (s.tile t).ctx

/-! ## MMA, MMAB, MZ -/

/-- The 256-byte spans that a run of k elements of a stream touches, from its next element on: those of the elements and
of their side records. -/
def runSpans (p : Pat) (pos k : Nat) : List Nat :=
  let side (i : Nat) : List Nat := match fmtBlock p.fmt with
    | none => []
    | some b =>
      let a := p.sideAt b (p.blockAt b (pos + i)).1
      [a / 256, (a + b.recB - 1) / 256]
  ((List.range k).flatMap fun i => p.spadBit (pos + i) / 2048 :: side i).eraseDups

/-- R128: a span read by the array: served from the operand buffer, or fetched and entered; at 256 entries the oldest
leaves it, which the spec does not say (notes/assumptions/79.md). -/
def Cluster.fetchSpan (c : Cluster) (tile span : Nat) : Cluster :=
  if c.opbuf.contains (tile, span) then { c with mchit := c.mchit + 1 }
  else { c with mcmiss := c.mcmiss + 1, opbuf := (c.opbuf ++ [(tile, span)]).drop (if 256 ≤ c.opbuf.length then 1 else 0) }

/-- A run of k elements popped by the array (R128, R354): each span of the run counts once in MCHIT or MCMISS
(notes/assumptions/79.md). -/
def popRun (t : Nat) (q : BitVec 5) (k : Nat) : EngM (List Elem) := do
  let s ← get
  let spans := match (s.tile t).stream q with
    | some x => (runSpans (patOf x.desc) x.epos k).map fun n => ((patOf x.desc).dataTile t % 4, n)
    | none => []
  modify fun s => s.updCluster (t / 4) fun c => spans.foldl (fun c p => c.fetchSpan p.1 p.2) c
  popN t q k

/-- The output elements of a step (R354). -/
def mmaStep (t bank : Nat) (a : MmaArgs) (fa fb : Nat) (zero : Bool) (rows cols : List (List Elem)) : EngM Unit :=
  rows.zipIdx.forM fun r => cols.zipIdx.forM fun c => do
    let acc ← if zero then pure 0 else bankRead t bank (a.row0 + r.2) (a.col0 + c.2)
    bankWrite t bank (a.row0 + r.2) (a.col0 + c.2) (kstep fa fb acc r.1 c.1)

/-- An element of a stored panel as a number: its code, with the two bytes of its side record above. -/
def panelPack (e : Elem) : Nat := e.code + (nth 0 e.side 0).toNat * 2 ^ 64 + (nth 0 e.side 1).toNat * 2 ^ 72

/-- An element of a stored panel. -/
def panelUnpack (n : Nat) : Elem := ⟨n % 2 ^ 64, [BitVec.ofNat 8 (n / 2 ^ 64), BitVec.ofNat 8 (n / 2 ^ 72)], 0, false⟩

/-- MMA and MMAB (R354, R355): `ld`: B is popped; `keep`: and stored, while the buffer is the tile's. -/
def mmaM (t : Nat) (a : MmaArgs) (bank : Nat) (qa qb : BitVec 5) (ld keep : Bool) : EngM Unit := do
  let fa ← fmtM t qa
  let fb ← if ld then fmtM t qb else pure ((← get).cluster (t / 4)).sbDFmt
  let kb := ((mmaClass fa).getD (0, 0)).2
  if keep then modify fun s => s.updCluster (t / 4) fun c => if c.sbOwner = some (t % 4) then { c with sbDFmt := fb, sbData := [] } else c
  (List.range a.ks).forM fun k => do
    let rows ← (List.range (16 * a.mb)).mapM fun _ => popRun t qa kb
    let cols ←
      if ld then (List.range (16 * a.nb)).mapM fun _ => popRun t qb kb
      else
        let c := (← get).cluster (t / 4)
        pure (((c.sbData.drop (k * 16 * a.nb)).take (16 * a.nb)).map fun l => l.map panelUnpack)
    if keep then
      modify fun s => s.updCluster (t / 4) fun c =>
        if c.sbOwner = some (t % 4) then { c with sbData := c.sbData ++ cols.map fun l => l.map panelPack } else c
    mmaStep t bank a fa fb (a.z && k == 0) rows cols

/-- MZ (R356). -/
def mzM (t : Nat) (a : MmaArgs) (bank : Nat) : EngM Unit :=
  (List.range (16 * a.mb)).forM fun r => (List.range (16 * a.nb)).forM fun c => bankWrite t bank (a.row0 + r) (a.col0 + c) 0

/-- What a matrix command does. -/
def mmaRun (t : Nat) (c : Cmd) : EngM Unit :=
  let a := mmaArgs c.stg
  match c.i with
  | .mma _ _ _ qa qb b => mmaM t a b.toNat qa qb true false
  | .mmab _ _ _ qa qb b l => mmaM t a b.toNat qa qb l l
  | .mz _ _ _ b => mzM t a b.toNat
  | .rels _ => modify fun s => s.updCluster (t / 4) fun c => c.release (t % 4)
  | _ => pure ()

/-- R355, R357: a command that the array accepts: it counts in the period and takes its cycles; the stationary buffer belongs from
now on to the tile whose MMAB loads it. -/
def Cluster.accept (k : Cluster) (t : Nat) (x : Tile) (c : Cmd) : Cluster :=
  let a := mmaArgs c.stg
  let k := { k with cmdLeft := k.cmdLeft - 1, arrLeft := k.arrLeft + mmaCycles c }
  match c.i with
  | .mmab _ _ _ _ qb _ true => { k with sbOwner := some (t % 4), sbFmt := x.streamFmt qb, sbKS := a.ks, sbN := a.nb }
  | _ => k

/-- Whether a command is an MMAB that loads the stationary buffer (R355). -/
def loadsPanel (c : Cmd) : Bool := match c.i with
  | .mmab _ _ _ _ _ _ l => l
  | _ => false

/-- R175, R355: whether a command of another tile of the cluster, accepted before a hand-over, computes with the panel that
stands in the stationary buffer: the next panel is loaded after it. -/
def State.panelInUse (s : State) (t : Nat) : Bool :=
  (List.range 4).any fun k => k != t % 4 && (let q := (s.tile (t / 4 * 4 + k)).qM
    q.run && (match q.q.head? with
      | some c => (match c.i with
        | .mmab _ _ _ _ _ _ l => !l
        | _ => false)
      | none => false))

/-- R357: the start of a command of the array: LEASE where the tile neither holds the lease nor waits for it, a wait
where it does not hold it or the period does not hold its cycles. -/
def leaseGate (s : State) (t : Nat) (c : Cmd) : Start :=
  match c.i with
  | .mma _ _ _ _ _ _ | .mmab _ _ _ _ _ _ _ | .mz _ _ _ _ =>
    let k := s.cluster (t / 4)
    if k.holds (t % 4) then
      (if k.cmdLeft = 0 ∨ k.cycLeft < k.arrLeft + mmaCycles c ∨ (loadsPanel c = true ∧ s.panelInUse t = true) then .wait else .go)
    else if k.waits (t % 4) then .wait
    else .bad .lease none
  | _ => .go

end Sys2Proof.Machine
end

