-- ==== Sys2Proof/Machine/Dot.lean ====
section
/-! DEFINITION. The dot engine, opcodes 0x6C to 0x6F (R219, R358 to R361). -/
namespace Sys2Proof.Machine

/-- DOTK (R358). -/
def execDotk (q : BitVec 2) (acq rel : Bool) (qq qk qo : BitVec 5) (s : State) : Out :=
  s.syl q fun s => s.push .K (.dotk q acq rel qq qk qo) [] 0

/-- DOTV (R358). -/
def execDotv (q : BitVec 2) (acq rel : Bool) (qq qk qo : BitVec 5) (s : State) : Out :=
  s.syl q fun s => s.push .K (.dotv q acq rel qq qk qo) [] 0

/-- DOTS (R358). -/
def execDots (q : BitVec 2) (acq rel : Bool) (qq qk qo : BitVec 5) (s : State) : Out :=
  s.syl q fun s => s.push .K (.dots q acq rel qq qk qo) [] 0

/-- DOTX (R358). -/
def execDotx (q : BitVec 2) (acq rel : Bool) (qq qk qo : BitVec 5) (s : State) : Out :=
  s.syl q fun s => s.push .K (.dotx q acq rel qq qk qo) [] 0

/-- The fields of `K.0` and `K.1` (R358). -/
structure DotArgs where
  nq : Nat
  d : Nat
  nt : Nat
  scl : Nat
  ok0 : Bool
  ok1 : Bool
  deriving DecidableEq, Repr

/-- R358's fields. -/
def dotArgs (w : List Word) : DotArgs :=
  let a := (nth 0 w 0).toNat
  let b := (nth 0 w 1).toNat
  { nq := bits a 0 3 + 1, d := 64 * (bits a 3 3 + 1), nt := bits a 6 32, scl := bits b 0 32, ok0 := a / 2 ^ 38 == 0
    ok1 := b / 2 ^ 32 == 0 }

/-- The stream registers that a dot command names. -/
def dotPos (c : Cmd) : List (BitVec 5 × Bool) :=
  match c.i with
  | .dotk _ _ _ qq qk qo | .dotv _ _ _ qq qk qo | .dots _ _ _ qq qk qo | .dotx _ _ _ qq qk qo =>
    [(qq, false), (qk, false), (qo, true)]
  | _ => []

/-- R359: the key and value formats of DOTS and DOTX. -/
def dotPlain (f : Nat) : Bool := f == 3 || f == 4 || f == 5 || f == 6 || f == 0x19 || f == 0x0A

/-- R332, R358, R359: fields, formats and counts of a dot command. -/
def dotFieldsOk (x : Tile) (c : Cmd) : Bool :=
  let a := dotArgs c.stg
  let f := x.streamFmt
  let io (qq qo : BitVec 5) : Bool :=
    a.ok0 && a.ok1 && a.nt != 0 && 2 ≤ f qq && f qq ≤ 4 && 2 ≤ f qo && f qo ≤ 4
  match c.i with
  | .dotk _ _ _ qq qk qo => io qq qo && f qk == 0x1C
  | .dotv _ _ _ qq qk qo => io qq qo && f qk == 0x1D
  | .dots _ _ _ qq qk qo => io qq qo && dotPlain (f qk)
  | .dotx _ _ _ qq qk qo => io qq qo && dotPlain (f qk)
  | _ => true

/-- A sum of products rounded once to FP32 RNE (R219). -/
def dotRun (fk : Nat) (qs : List Val) (ks : List Elem) : Val :=
  fp32.toVal .rne false 0 (exactDot none qs (ks.map (·.val fk)) (ks.any (·.scaleNaN fk)))

/-- Runs of 64 products added in ascending order, each addition rounded to FP32 RNE (R219, R360). -/
def dotRuns (fk : Nat) : Nat → List Val → List Elem → Option Val → Val
  | 0, _, _, r => r.getD (.zero false)
  | g + 1, qs, ks, r =>
    let run := dotRun fk (qs.take 64) (ks.take 64)
    dotRuns fk g (qs.drop 64) (ks.drop 64)
      (some (match r with
        | none => run
        | some r => fp32.toVal .rne false 0 (r.add .rne run)))

/-- R360: a score; a NaN scale has a cause of its own (R214). -/
def dotScore (fk : Nat) (a : DotArgs) (q : List Val) (k : List Elem) : Val :=
  match dotRuns fk (a.d / 64) q k none with
  | .nan c => .nan c
  | r => if (fp32.val a.scl).isNaN then .nan 2 else fp32.toVal .rne false 0 (r.mul (fp32.val a.scl))

/-- Popped elements with the validity of KQ4 blocks (R208). -/
def popVals (t : Nat) (n : BitVec 5) (f k : Nat) : EngM (List Elem) := (List.range k).mapM fun _ => popVal t n f

/-- A result converted to the output's format with RNE and pushed (R359). -/
def pushDot (t : Nat) (qo : BitVec 5) (fo : Nat) (v : Val) : EngM Unit :=
  pushElem t qo (((fmtFloat fo).getD fp32).round .rne false 0 v) []

/-- A list cut into rows of n. -/
def rowsOf {α : Type} (n : Nat) : Nat → List α → List (List α)
  | 0, _ => []
  | k + 1, l => l.take n :: rowsOf n k (l.drop n)

/-- DOTK and DOTS (R360). -/
def dotScores (t : Nat) (a : DotArgs) (qq qk qo : BitVec 5) : EngM Unit := do
  let fq ← fmtM t qq
  let fk ← fmtM t qk
  let fo ← fmtM t qo
  let qs := rowsOf a.d a.nq ((← popN t qq (a.nq * a.d)).map (·.val fq))
  (List.range a.nt).forM fun _ => do
    let k ← popVals t qk fk a.d
    qs.forM fun q => pushDot t qo fo (dotScore fk a q k)

/-- R361: one run of tokens added to the partial sums, query-major. -/
def dotAccum (fk : Nat) (a : DotArgs) (ws : List (List Val)) (vs : List (List Elem)) (acc : List (Option Val)) :
    List (Option Val) :=
  (List.range (a.nq * a.d)).map fun i =>
    let run := dotRun fk (ws.map fun w => nth (.zero false) w (i / a.d)) (vs.map fun v => nth ⟨0, [], 0, false⟩ v (i % a.d))
    some (match nth none acc i with
      | none => run
      | some r => fp32.toVal .rne false 0 (r.add .rne run))

/-- DOTV and DOTX (R361). -/
def dotSums (t : Nat) (a : DotArgs) (qq qk qo : BitVec 5) : EngM Unit := do
  let fq ← fmtM t qq
  let fk ← fmtM t qk
  let fo ← fmtM t qo
  let acc ← (List.range (ceilDiv a.nt 64)).foldlM
    (fun acc g => do
      let toks ← (List.range (min 64 (a.nt - 64 * g))).mapM fun _ => do
        let w := (← popN t qq a.nq).map (·.val fq)
        let v ← popVals t qk fk a.d
        return (w, v)
      return dotAccum fk a (toks.map Prod.fst) (toks.map Prod.snd) acc)
    (List.replicate (a.nq * a.d) none)
  acc.forM fun r => pushDot t qo fo (r.getD (.zero false))

/-- What a dot command does. -/
def dotRunCmd (t : Nat) (c : Cmd) : EngM Unit :=
  let a := dotArgs c.stg
  match c.i with
  | .dotk _ _ _ qq qk qo | .dots _ _ _ qq qk qo => dotScores t a qq qk qo
  | .dotv _ _ _ qq qk qo | .dotx _ _ _ qq qk qo => dotSums t a qq qk qo
  | _ => pure ()

end Sys2Proof.Machine
end

