-- ==== Sys2Proof/Machine/Accum.lean ====
section
/-! DEFINITION. The accumulator port, opcodes 0x70 to 0x73 (R363 to R366). -/
namespace Sys2Proof.Machine

/-- A slot-A command with its ACCP word, read at issue (R331, R364). -/
def State.pushA (s : State) (i : Instr) (xp : BitVec 7) : State := s.push .A i [s.readX xp] 0

/-- AZERO (R366). -/
def execAzero (q : BitVec 2) (acq rel : Bool) (bank : BitVec 4) (xp : BitVec 7) (s : State) : Out :=
  s.syl q fun s => s.pushA (.azero q acq rel bank xp) xp

/-- ARD (R366). -/
def execArd (q : BitVec 2) (acq rel : Bool) (bank : BitVec 4) (qn : BitVec 5) (xp : BitVec 7) (sr : Bool) (s : State) : Out :=
  s.syl q fun s => s.pushA (.ard q acq rel bank qn xp sr) xp

/-- AWR (R366). -/
def execAwr (q : BitVec 2) (acq rel : Bool) (bank : BitVec 4) (qn : BitVec 5) (xp : BitVec 7) (s : State) : Out :=
  s.syl q fun s => s.pushA (.awr q acq rel bank qn xp) xp

/-- AADD (R366). -/
def execAadd (q : BitVec 2) (acq rel : Bool) (bank : BitVec 4) (qn : BitVec 5) (xp : BitVec 7) (s : State) : Out :=
  s.syl q fun s => s.pushA (.aadd q acq rel bank qn xp) xp

/-- AMAXR (R366). -/
def execAmaxr (q : BitVec 2) (acq rel : Bool) (bank : BitVec 4) (qn : BitVec 5) (xp : BitVec 7) (s : State) : Out :=
  s.syl q fun s => s.pushA (.amaxr q acq rel bank qn xp) xp

/-- ASCL (R366). -/
def execAscl (q : BitVec 2) (acq rel : Bool) (bank : BitVec 4) (qn : BitVec 5) (xp : BitVec 7) (s : State) : Out :=
  s.syl q fun s => s.pushA (.ascl q acq rel bank qn xp) xp

/-- The fields of ACCP (R364). -/
structure AccArgs where
  row0 : Nat
  rows : Nat
  col0 : Nat
  cols : Nat
  fmt : Nat
  rm : Nat
  itype : Bool
  abs : Bool
  percol : Bool
  sexp : Int
  ok : Bool
  deriving DecidableEq, Repr

/-- R364's fields; `ok`: no reserved bit, no region past row or column 63. -/
def accArgs (w : List Word) : AccArgs :=
  let a := (nth 0 w 0).toNat
  let rows := 64 - bits a 6 6
  let cols := 64 - bits a 18 6
  { row0 := bits a 0 6, rows, col0 := bits a 12 6, cols, fmt := bits a 24 6, rm := bits a 30 2, itype := nbit a 32
    abs := nbit a 33, percol := nbit a 34, sexp := sgn 8 (bits a 35 8)
    ok := a / 2 ^ 43 == 0 && bits a 0 6 + rows ≤ 64 && bits a 12 6 + cols ≤ 64 }

/-- The stream format that ACCP asks for (R364). -/
def AccArgs.sfmt (a : AccArgs) : Nat := if a.fmt = 0 then (if a.itype then 0x0E else 2) else a.fmt

/-- The classes of R365's rows. -/
def accFloat (f : Nat) : Bool := 2 ≤ f && f ≤ 6
def accInt (f : Nat) : Bool := 0x0A ≤ f && f ≤ 0x0E
def accBe (f : Nat) : Bool := f == 0x18 || f == 0x19
def accKq (f : Nat) : Bool := f == 0x1C || f == 0x1D

/-- The stream register that an accumulator command names. -/
def accPos (c : Cmd) : List (BitVec 5 × Bool) :=
  match c.i with
  | .ard _ _ _ _ q _ _ | .amaxr _ _ _ _ q _ => [(q, true)]
  | .awr _ _ _ _ q _ | .aadd _ _ _ _ q _ | .ascl _ _ _ _ q _ => [(q, false)]
  | _ => []

/-- R365: whether AWR and AADD take a format into a bank. -/
def accInOk (a : AccArgs) : Bool :=
  if a.fmt = 0 then a.sexp == 0
  else if a.itype then accInt a.fmt && a.sexp == 0
  else accFloat a.fmt || accInt a.fmt || accBe a.fmt || accKq a.fmt

/-- R365: whether ARD gives a format from a bank. -/
def accOutOk (a : AccArgs) (sr : Bool) : Bool :=
  (if a.fmt = 0 then a.sexp == 0
   else if accFloat a.fmt || accInt a.fmt then true
   else if accBe a.fmt then !a.itype && a.cols % 32 == 0
   else accKq a.fmt && !a.itype && a.rows == 64 && a.cols == 64) &&
    (!sr || a.fmt == 5 || a.fmt == 6 || accBe a.fmt || accKq a.fmt)

/-- R332, R364 to R366: fields and formats of an accumulator command. -/
def accFieldsOk (x : Tile) (c : Cmd) : Bool :=
  let a := accArgs c.xv
  let f := x.streamFmt
  match c.i with
  | .azero _ _ _ _ _ => a.ok
  | .ard _ _ _ _ q _ sr => a.ok && f q == a.sfmt && accOutOk a sr
  | .awr _ _ _ _ q _ | .aadd _ _ _ _ q _ => a.ok && f q == a.sfmt && accInOk a
  | .amaxr _ _ _ _ q _ => a.ok && f q == a.sfmt && !a.itype && (a.fmt == 0 || a.fmt == 2)
  | .ascl _ _ _ _ q _ => a.ok && f q == a.sfmt && !a.itype && (a.fmt == 0 || (2 ≤ a.fmt && a.fmt ≤ 4))
  | _ => true

/-- A bank element's value. -/
def AccArgs.val (a : AccArgs) (c : Nat) : Val := if a.itype then .ofInt (sgn 32 c) else fp32.val c

/-- The region's elements row by row. -/
def AccArgs.cells (a : AccArgs) : List (Nat × Nat) :=
  (List.range a.rows).flatMap fun r => (List.range a.cols).map fun c => (a.row0 + r, a.col0 + c)

/-- AZERO (R366). -/
def azeroM (t bank : Nat) (a : AccArgs) : EngM Unit := a.cells.forM fun p => bankWrite t bank p.1 p.2 0

/-- R365: one element out of a bank in a format that is no block. -/
def accOut (a : AccArgs) (mode : RMode) (draw code : Nat) : Nat :=
  if a.fmt = 0 then code
  else
    let v := (a.val code).scale a.sexp
    match fmtFloat a.fmt with
    | some g => g.round mode false draw v
    | none =>
      let w := (fmtInt a.fmt).getD (32, true)
      (v.toInt mode (intLo w) (intHi w) draw % 2 ^ w.1).toNat

/-- A block out of a bank, quantised and pushed with its side record (R217, R365). -/
def ardBlock (t bank : Nat) (a : AccArgs) (q : BitVec 5) (mode : RMode) (ps : List (Nat × Nat)) : EngM Unit := do
  let vs ← ps.mapM fun p => return (a.val (← bankRead t bank p.1 p.2)).scale a.sexp
  let ds ← ps.mapM fun _ => drawM t (mode == .sr)
  let r := match a.fmt with
    | 0x18 => quantBe2 mode false vs ds
    | 0x19 => quantBe8 mode false vs ds
    | f => quantKq (f == 0x1C) mode false vs ds
  r.1.forM fun c => pushElem t q c r.2

/-- ARD (R366). -/
def ardM (t bank : Nat) (a : AccArgs) (q : BitVec 5) (sr : Bool) : EngM Unit :=
  let mode := if sr then .sr else rmode a.rm
  if accBe a.fmt then (rowsOf 32 (a.rows * a.cols / 32) a.cells).forM (ardBlock t bank a q mode)
  else if accKq a.fmt then ardBlock t bank a q mode a.cells
  else
    a.cells.forM fun p => do
      let c ← bankRead t bank p.1 p.2
      let d ← drawM t sr
      pushElem t q (accOut a mode d c) []

/-- The value of a popped element (R365), times 2^SEXP. -/
def AccArgs.inVal (a : AccArgs) (e : Elem) : Val := (e.val a.sfmt).scale a.sexp

/-- R365: an element written into a bank. -/
def accIn (a : AccArgs) (e : Elem) : Nat :=
  if a.fmt = 0 then e.code
  else if a.itype then (intOf ((fmtInt a.fmt).getD (32, true)) e.code % 2 ^ 32).toNat
  else fp32.round (rmode a.rm) false 0 (a.inVal e)

/-- AWR (R366). -/
def awrM (t bank : Nat) (a : AccArgs) (q : BitVec 5) : EngM Unit :=
  a.cells.forM fun p => do
    let e ← popVal t q a.sfmt
    bankWrite t bank p.1 p.2 (accIn a e)

/-- AADD on one element (R366). -/
def accAdd (a : AccArgs) (old : Nat) (e : Elem) : Nat :=
  if a.itype then sat32 (sgn 32 old + intOf ((fmtInt a.sfmt).getD (32, true)) e.code)
  else fp32.round (rmode a.rm) false 0 ((fp32.val old).add (rmode a.rm) (a.inVal e))

/-- ASCL on one element (R366). -/
def accScale (a : AccArgs) (old : Nat) (e : Elem) : Nat :=
  fp32.round (rmode a.rm) false 0 ((fp32.val old).mul (a.inVal e))

/-- A row of the region updated with the elements that its columns take. -/
def accRow (t bank : Nat) (a : AccArgs) (f : Nat → Elem → Nat) (r : Nat) (es : List Elem) : EngM Unit :=
  es.zipIdx.forM fun p => do
    let old ← bankRead t bank (a.row0 + r) (a.col0 + p.2)
    bankWrite t bank (a.row0 + r) (a.col0 + p.2) (f old p.1)

/-- AADD (R366). -/
def aaddM (t bank : Nat) (a : AccArgs) (q : BitVec 5) : EngM Unit := do
  if a.percol then
    let es ← popVals t q a.sfmt a.cols
    (List.range a.rows).forM fun r => accRow t bank a (accAdd a) r es
  else
    (List.range a.rows).forM fun r => do
      (List.range a.cols).forM fun c => do
        let e ← popVal t q a.sfmt
        let old ← bankRead t bank (a.row0 + r) (a.col0 + c)
        bankWrite t bank (a.row0 + r) (a.col0 + c) (accAdd a old e)

/-- ASCL (R366). -/
def asclM (t bank : Nat) (a : AccArgs) (q : BitVec 5) : EngM Unit := do
  if a.percol then
    let es ← popN t q a.cols
    (List.range a.rows).forM fun r => accRow t bank a (accScale a) r es
  else
    (List.range a.rows).forM fun r => do
      let e ← popElem t q
      accRow t bank a (accScale a) r (List.replicate a.cols e)

/-- The maximum of a row (R366). -/
def accMax (vs : List Val) : Val :=
  match vs with
  | [] => .zero false
  | v :: vs => vs.foldl (fun m v => m.minmax true v) v

/-- AMAXR (R366). -/
def amaxrM (t bank : Nat) (a : AccArgs) (q : BitVec 5) : EngM Unit :=
  (List.range a.rows).forM fun r => do
    let vs ← (List.range a.cols).mapM fun c => do
      let v := fp32.val (← bankRead t bank (a.row0 + r) (a.col0 + c))
      return if a.abs then v.abs else v
    pushElem t q (fp32.round .rne false 0 (accMax vs)) []

/-- What an accumulator command does. -/
def accRun (t : Nat) (c : Cmd) : EngM Unit :=
  let a := accArgs c.xv
  match c.i with
  | .azero _ _ _ b _ => azeroM t b.toNat a
  | .ard _ _ _ b q _ sr => ardM t b.toNat a q sr
  | .awr _ _ _ b q _ => awrM t b.toNat a q
  | .aadd _ _ _ b q _ => aaddM t b.toNat a q
  | .amaxr _ _ _ b q _ => amaxrM t b.toNat a q
  | .ascl _ _ _ b q _ => asclM t b.toNat a q
  | _ => pure ()

end Sys2Proof.Machine
end

