-- ==== Sys2Proof/Machine/Pages.lean ====
section
/-! DEFINITION. Pages as the Fuller and the Ceone firmware keep them: bytes moved between memories, resident frames with
their hash classes (R80, R86), table nodes, far units (R33, R92), the transit table (R94 to R97), and the requests for
promotion and demotion (R93). Where the firmware is free to choose a frame or a run of units, the lowest that fits is
taken (notes/assumptions/10.md). -/
namespace Sys2Proof.Machine

/-! ## Bytes moved -/

/-- A memory without the n bytes from a on. -/
def Memory.clear (m : SMap Byte) (a n : Nat) : SMap Byte := m.filter fun p => !(a ≤ p.1 && p.1 < a + n)

/-- The listed bytes among the n from a on, as they stand from b on. -/
def Memory.shifted (m : SMap Byte) (a n b : Nat) : SMap Byte :=
  (m.filter fun p => a ≤ p.1 && p.1 < a + n).map fun p => (p.1 - a + b, p.2)

/-- The contents of n bytes, with poison and with what is undefined of them, copied between locations (R109). -/
def State.copyBytes (s : State) (l : Loc) (a : Nat) (l' : Loc) (b n : Nat) : State :=
  let us := (s.undef l).filterMap fun u =>
    let lo := max u.lo a
    let hi := min u.hi (a + n)
    if lo < hi then some (⟨lo - a + b, hi - a + b, s.freeCtr⟩ : Undef) else none
  let gs := ((s.bad l).filter fun g => a ≤ g * 8 && g * 8 < a + n).map fun g => g * 8 - a + b
  let m := Memory.shifted (s.mem l) a n b
  let s := s.setUndef l' (us ++ cutUndef (s.undef l') b n)
  let s := s.setBad l' (gs.foldl (fun m k => badAround m (granule l' k) k 8) ((s.bad l').filter fun g => !(b ≤ g * 8 && g * 8 < b + n)))
  s.setMem l' (m.foldl (fun m p => Memory.set m p.1 p.2) (Memory.clear (s.mem l') b n))

/-- n bytes of a location zeroed. -/
def State.zeroBytes (s : State) (l : Loc) (a n : Nat) : State :=
  let s := s.setUndef l (cutUndef (s.undef l) a n)
  let s := s.setBad l ((s.bad l).filter fun g => !(a ≤ g * 8 && g * 8 < a + n))
  s.setMem l (Memory.clear (s.mem l) a n)

/-! ## Resident frames -/

/-- A number rounded up to a multiple. -/
def alignUp (a n : Nat) : Nat := (a + n - 1) / n * n

/-- Whether two runs share a byte. -/
def meets (a n b m : Nat) : Bool := a < b + m && b < a + n

/-- The first PA of the remap table's 16 MiB and of the frames that table nodes come from (notes/assumptions/10.md). -/
def remapBase : Nat := 0x007F_FF00_0000
def nodeBase : Nat := 0x007F_0000_0000

/-- The PA of slot k of a congruence group (R32, R86). -/
def slotPA (g k : Nat) : Nat := if k = 0 then g * 65536 else lpmBase + (4 * g + (k - 1)) * 65536

/-- Whether n bytes at a PA are allocated: to a page, to a table node or to the remap table. -/
def State.frameBusy (s : State) (pa n : Nat) : Bool :=
  (s.frames.any fun f => meets pa n f.pa f.len) || (s.nodeFrames.any fun f => meets pa n f 65536) ||
    (s.form.hasLpm && meets pa n remapBase (2 ^ 39 - remapBase))

/-- The 1 MiB block in whose HBM location the frame of a PA stands, if it stands in HBM (R80, R86). -/
def State.hbmBlock (s : State) (pa : Nat) : Option Nat :=
  let g := groupOfPA pa
  if nth 0 (s.remapOf g.1).loc g.2 = 0 then some (g.1 / 16) else none

/-- The HBM blocks of a run of frames. -/
def State.blocksOf (s : State) (pa n : Nat) : List Nat :=
  if s.remap.isEmpty then
    if pa < lpmBase then List.range' (pa / 2 ^ 20) ((pa + n - 1) / 2 ^ 20 + 1 - pa / 2 ^ 20) else []
  else ((List.range ((pa % 65536 + n + 65535) / 65536)).filterMap fun k => s.hbmBlock (pa + k * 65536)).eraseDups

/-- The HBM blocks whose class a run of frames shares (R80): those that it stands in, and those into which a swap in progress
brings a frame of it. -/
def State.classBlocks (s : State) (pa n : Nat) : List Nat :=
  s.blocksOf pa n ++
    s.swaps.filterMap fun q => if meets (slotPA q.group q.slot) 65536 pa n then some (q.group / 16) else none

/-- R80: whether frames may be allocated for a page of context c with a hash selection: the HBM blocks that they stand in, or
that a swap brings them into, are FREE or of its class. A block with a table node is of HS 0. -/
def State.classOk (s : State) (hs c pa n : Nat) : Bool :=
  let bs := s.classBlocks pa n
  let there (a m : Nat) : Bool := (s.classBlocks a m).any fun b => bs.contains b
  bs.isEmpty ||
    ((s.frames.all fun f => s.sameClass hs c f.hs f.ctx || !there f.pa f.len) &&
      (hs == 0 || s.nodeFrames.all fun f => !there f 65536))

/-- The lowest of some numbers. -/
def lowest (l : List Nat) : Option Nat := l.foldl (fun r a => match r with
  | none => some a
  | some b => some (min a b)) none

/-- Where the lowest free run above a PA can begin: at the PA, at the end of an allocated run or of a hash-class block, or
at a frame that a swap has moved (R80, R86). -/
def State.frameStarts (s : State) (lo : Nat) : List Nat :=
  lo :: (s.frames.map fun f => f.pa + f.len) ++ s.nodeFrames.map (· + 65536) ++
    ((s.frames.flatMap fun f => s.blocksOf f.pa f.len) ++ s.nodeFrames.flatMap fun f => s.blocksOf f 65536).map (fun b => (b + 1) * 2 ^ 20) ++
    (mkeys s.remap).flatMap fun g =>
      [g * 65536, (g + 1) * 65536] ++ (List.range 5).map fun j => lpmBase + (4 * g + j) * 65536

/-- The lowest free run of n bytes, aligned to n, between two PAs. -/
def State.findFrame (s : State) (hs c n lo hi : Nat) : Option Nat :=
  lowest (((s.frameStarts lo).map fun a => alignUp a n).filter fun a =>
    lo ≤ a && a + n ≤ hi && !s.frameBusy a n && s.classOk hs c a n)

/-- A free frame run for a promoted page under PROMT (R81, R98). -/
def State.promoFrame (s : State) (c hs n : Nat) : Option Nat :=
  let n := max n 65536
  let t0 := s.findFrame hs c n 0 (2 ^ 39)
  let t1 := if s.form.hasLpm then s.findFrame hs c n lpmBase (2 ^ 42) else none
  match (s.ctx c).tier.promt with
  | 1 => t0
  | 2 => t1
  | _ => t0 <|> t1

/-- Frames held by one more mapping. -/
def State.takeFrames (s : State) (pa n hs c : Nat) : State := { s with frames := s.frames ++ [⟨pa, n, hs, c, false⟩] }

/-- One mapping's hold of the frames at a PA given up. -/
def State.dropFrames (s : State) (pa hs c : Nat) : State :=
  match s.frames.find? fun f => f.pa == pa && f.hs == hs && f.ctx == c with
  | some f => { s with frames := s.frames.erase f }
  | none => s

/-- A free table node for a context (R37), if its allowance of nodes is not spent. -/
def State.newNode (s : State) (c : Nat) : Option (State × Nat) :=
  let x := s.ctx c
  if x.nodeCap ≤ x.nodes.length then none
  else
    match s.findFrame 0 0xFFFF 65536 nodeBase remapBase with
    | none => none
    | some pa =>
      let s := (({ s with nodeFrames := s.nodeFrames ++ [pa] } : State).zeroBytes .phys pa 65536).countRun 0xFFFF 0 pa 65536
      some (s.setCtx c { x with nodes := x.nodes ++ [pa] }, pa)

/-! ## Far units -/

/-- The far tier of a TIER code (R35). -/
def farOf (tier : Nat) : Option Far :=
  match tier with
  | 1 => some .cxm
  | 2 => some .flt
  | _ => none

/-- TIER of a far tier (R35). -/
def Far.tier (f : Far) : Nat := match f with
  | .cxm => 1
  | .flt => 2

/-- Where the bytes of a far tier lie: those of CXM in host memory (R90). -/
def Far.loc (f : Far) : Loc := match f with
  | .cxm => .host
  | .flt => .flt

/-- Where the bytes of a far location stand in their memory: those of CXM at host addresses from the configured base
(R90). -/
def State.farAt (s : State) (f : Far) (u : Nat) : Nat := (match f with
  | .cxm => s.cxmBase
  | .flt => 0) + u * 4096

/-- The allocated runs of units of a far tier. -/
def State.unitsOf (s : State) (f : Far) : List (Nat × Nat) := match f with
  | .cxm => s.cxmUnits
  | .flt => s.fltUnits

/-- The state with a far tier's allocated runs replaced. -/
def State.setUnits (s : State) (f : Far) (u : List (Nat × Nat)) : State := match f with
  | .cxm => { s with cxmUnits := u }
  | .flt => { s with fltUnits := u }

/-- The lowest free run of n units, aligned to n (R92). -/
def State.findUnits (s : State) (f : Far) (n : Nat) : Option Nat :=
  let us := s.unitsOf f
  let cands := (0 :: us.map fun u => u.1 + u.2).map fun a => alignUp a n
  lowest (cands.filter fun a => a + n ≤ s.farUnits f.tier && us.all fun u => !meets a n u.1 u.2)

/-- The units of n bytes at a far location held. -/
def State.takeUnits (s : State) (f : Far) (u n : Nat) : State := s.setUnits f (s.unitsOf f ++ [(u, n / 4096)])

/-- The run of units at a far location given up. -/
def State.freeUnits (s : State) (f : Far) (u : Nat) : State := s.setUnits f ((s.unitsOf f).filter fun r => r.1 != u)

/-- Whether a far tier is available to a context (R92). -/
def State.farAvailable (s : State) (c : Nat) (f : Far) : Bool :=
  let p := (s.ctx c).tier
  match f with
  | .cxm => s.cxmLen != 0 && p.cxmen
  | .flt => s.form.hasLpm && p.flten

/-- A leaf far from its frame: TIER and FRAME replaced (R96). -/
def pteAt (e tier frame : Nat) : Nat := putBits (putBits e 2 2 tier) 12 40 frame

/-! ## Pages of a range -/

/-- The first byte of the page of a leaf that maps an address. -/
def pageBase (va e : Nat) : Nat := va / pageBytes (pteSize e) * pageBytes (pteSize e)

/-- The pages from an address on, below an end: each page's VA with its leaf; unmapped 4 KiB pieces are passed over. -/
def State.pagesFrom (s : State) (c stop : Nat) : Nat → Nat → List (Nat × Nat)
  | 0, _ => []
  | f + 1, va =>
    if stop ≤ va then []
    else
      match s.leaf c va with
      | some e => (pageBase va e, e) :: s.pagesFrom c stop f (pageBase va e + pageBytes (pteSize e))
      | none => s.pagesFrom c stop f (va / 4096 * 4096 + 4096)

/-- The mapped pages of n bytes at an address, in ascending order. -/
def State.pagesIn (s : State) (c va n : Nat) : List (Nat × Nat) :=
  if n = 0 then [] else s.pagesFrom c (va + n) (n / 4096 + 2) va

/-- The bytes of the page of a run in transit. -/
def Transit.len (r : Transit) : Nat := pageBytes (pteSize r.pte)

/-- Bytes read by the hub for a context, zeros where they cannot be read. -/
def State.hubBytes (s : State) (c : Nat) (v : VA) (n : Nat) : List Byte :=
  match (s.vaRead c none 4 v n .r).2 with
  | .ok b => b.map Prod.fst
  | .error _ => List.replicate n 0

/-- A little-endian number read by the hub. -/
def State.hubNum (s : State) (c : Nat) (v : VA) (n : Nat) : Nat := leNat (s.hubBytes c v n)

/-- Bytes written by an agent of the hub for a context as an EXT issuer (R45): a failing access ends the context (R50). -/
def State.hubStore (s : State) (c : Nat) (v : VA) (bs : List Byte) : State :=
  match s.vaWrite c none 4 v (bs.map fun b => (b, false)) true with
  | (s, .ok _) => s
  | (s, .error (o, va)) => s.fatalCtx c ((o.fatal true).getD .access) va none

/-- A number so written. -/
def State.hubPut (s : State) (c : Nat) (v : VA) (n w : Nat) : State := s.hubStore c v (leBytes n w)

/-- R50, R83: the access with which an agent of the hub reads n bytes for a context, counted at its channels: one that fails
ends the context. -/
def State.hubUse (s : State) (c : Nat) (v : VA) (n : Nat) : State :=
  match s.vaRead c none 4 v n .r with
  | (s, .ok _) => s
  | (s, .error (o, va)) => s.fatalCtx c ((o.fatal true).getD .access) va none

/-- A write of the gust-write agent, and whether it has been made: a page that does not translate for it stops nothing (R99), but
a walk that reads poison ends the context (R41). -/
def State.gustPut (s : State) (c : Nat) (v : VA) (bs : List Byte) : State × Bool :=
  match s.vaWrite c none 4 v (bs.map fun b => (b, false)) true with
  | (s, .ok _) => (s, true)
  | (s, .error (_, va)) =>
    match walkOn s 4 c va with
    | .poison _ => (s.fatalCtx c .access va none, false)
    | _ => (s, false)

/-- A read of the gust-write agent or of the firmware on its behalf, likewise. -/
def State.gustSeen (s : State) (c : Nat) (v : VA) (n : Nat) : State :=
  match s.vaRead c none 4 v n .r with
  | (s, .ok _) => s
  | (s, .error (_, va)) =>
    match walkOn s 4 c va with
    | .poison _ => s.fatalCtx c .access va none
    | _ => s

/-- A word of a mailbox written by the gust-write agent (R99). -/
def State.mboxPut (s : State) (c : Nat) (v : VA) (w : Nat) : State := (s.gustPut c v (leBytes 8 w)).1

/-- Bytes of a buffer that is free, or of a new key-value page, become undefined (R187, R247): in every frame or far run
that they lie in, those of a run in transit (R97) and every copy of a read-duplicated page (R55) among them. -/
def State.undefineVA (s : State) (c va n : Nat) : State :=
  let s := (s.transit.filter fun r => r.ctx == c && meets r.va r.len va n).foldl (fun s r =>
    let lo := max va r.va
    let hi := min (va + n) (r.va + r.len)
    match r.st with
    | .promoting => s
    | .demoting2 => s.undefine r.target.loc (s.farAt r.target r.unit + (lo - r.va)) (hi - lo)
    | .demoting =>
      (s.undefine .phys (r.frame + (lo - r.va)) (hi - lo)).undefine r.target.loc (s.farAt r.target r.unit + (lo - r.va)) (hi - lo)) s
  (s.pagesIn c va n).foldl
    (fun s p =>
      let lo := max va p.1
      let hi := min (va + n) (p.1 + pageBytes (pteSize p.2))
      match farOf (pteTier p.2) with
      | none =>
        (if pteRepl p.2 then [0, 1, 2, 3] else [0]).foldl (fun s d => s.undefine .phys (copyBase p.2 d + (lo - p.1)) (hi - lo)) s
      | some f => s.undefine f.loc (s.farAt f (pteFrame p.2) + (lo - p.1)) (hi - lo)) s

/-- The run in transit that shares a byte with a range of a context (R94). -/
def State.transitAt (s : State) (c va n : Nat) : Option Transit :=
  s.transit.find? fun r => r.ctx == c && meets r.va r.len va n

/-! ## Sequences -/

/-- A sequence's header (R245). -/
structure SeqHdr where
  len : Nat
  npg : Nat
  plcap : Nat
  bodyLen : Nat
  plva : VA
  bodyva : VA
  deriving DecidableEq, Repr

/-- Where the header of sequence n stands. -/
def Context.seqVA (x : Context) (n : Nat) : VA := VA.plus x.serv.seqVA (64 * n)

/-- The header of sequence n of a context. -/
def State.seqHdr (s : State) (c n : Nat) : SeqHdr :=
  let w := leNat (s.hubBytes c ((s.ctx c).seqVA n) 64)
  ⟨bits w 0 32, bits w 32 32, bits w 64 32, bits w 96 32, VA.ofNat (bits w 128 80), VA.ofNat (bits w 256 80)⟩

/-- The bytes of one key-value page (R244). -/
def Serving.pg (v : Serving) : Nat := pageBytes v.kvSize

/-- The VA of key-value page n (R244). -/
def Serving.kvVA (v : Serving) (n : Nat) : VA := VA.plus v.kvBase (n * v.pg)

/-- Bytes of a context wherever they stand: in frames, in far units, or in a run in transit; zeros where nothing maps
them. A becalmed sequence's page list may itself be far (R101, R103). -/
def State.storedBytes (s : State) (c : Nat) (v : VA) (n : Nat) : List Byte :=
  (vaPieces v n).flatMap fun p =>
    match s.leaf c p.va <|> (s.transitAt c p.va 1).map (·.pte) with
    | none => List.replicate p.len 0
    | some e =>
      let a := pteFrame e * 4096 + p.va % pageBytes (pteSize e)
      match farOf (pteTier e) with
      | none => s.bytes .phys a p.len
      | some f => s.bytes f.loc (s.farAt f (pteFrame e) + p.va % pageBytes (pteSize e)) p.len

/-- Entry i of a sequence's page list (R245). -/
def State.listEntry (s : State) (c : Nat) (h : SeqHdr) (i : Nat) : Nat := leNat (s.storedBytes c (VA.plus h.plva (4 * i)) 4)

/-- The byte ranges of a sequence's pages, in the order of R103: body, page list (its first n entries), key-value
pages. -/
def State.seqRanges (s : State) (c n : Nat) : List (Nat × Nat) :=
  let h := s.seqHdr c n
  let v := (s.ctx c).serv
  [(h.bodyva.toNat, h.bodyLen), (h.plva.toNat, 4 * h.plcap)] ++
    (List.range h.npg).map fun i => ((v.kvVA (s.listEntry c h i)).toNat, v.pg)

/-! ## The transit table -/

/-- Aging fields of a mailbox changed; the mailbox block does not show them. -/
def State.updAging (s : State) (c n : Nat) (f : Mbox → Mbox) : State :=
  s.updCtx c fun x => { x with mboxes := x.mboxes.map fun m => if m.sn = n then f m else m }

/-- A page that aging skipped as not eligible, to be examined again (R92, R96, R101). -/
def State.skipPage (s : State) (c n page : Nat) (deep : Bool) : State :=
  s.updAging c n fun m => if deep then { m with skip2 := m.skip2 ++ [page] } else { m with skip1 := m.skip1 ++ [page] }

/-- R200: the becalmed sequences that a step of aging has passed already and whose pages include n bytes at an address look at the
page there again: after a probe has had it promoted, or has cancelled its demotion. -/
def State.ageStep (s : State) (c page n : Nat) (deep : Bool) : State :=
  ((s.ctx c).mboxes.filter fun m =>
    m.st == .becalmed && (if deep then m.aged2 && !m.skip2.contains page else m.aged1 && !m.skip1.contains page) &&
      (s.seqRanges c m.sn).any fun r => meets r.1 r.2 page n).foldl (fun s m => s.skipPage c m.sn page deep) s

/-- R200: a page of becalmed sequences that a probe has had promoted is aged again. -/
def State.ageAgain (s : State) (c page n : Nat) : State := s.ageStep c page n false

/-- R97, and R95's cancel rows: a demotion step is undone. -/
def State.cancelRun (s : State) (r : Transit) : State :=
  match r.st with
  | .promoting => s
  | .demoting =>
    let s := (s.writeRun r.ctx r.va (pteSize r.pte) r.pte).freeUnits r.target r.unit
    { s with transit := s.transit.erase r }
  | .demoting2 =>
    let s := s.freeUnits r.target r.unit
    { s with transit := s.transit.erase r }

/-- R97: the demotions of the pages of a range cancelled, those that are queued removed; aging looks at the pages of becalmed
sequences among them again (R101, R200). -/
def State.cancelDemotions (s : State) (c va n : Nat) : State :=
  let s := (s.transit.filter fun r => r.ctx == c && meets r.va r.len va n && r.st != .promoting).foldl
    (fun s r => (s.cancelRun r).ageStep c r.va r.len (r.st == .demoting2)) s
  let len (q : FReq) : Nat := match s.leaf c q.va with
    | some e => pageBytes (pteSize e)
    | none => 1
  let out (q : FReq) : Bool := q.ctx == c && meets q.va (len q) va n
  (s.demoQ.filter out).foldl (fun s q => s.ageStep c q.va (len q) ((s.leaf c q.va).any fun e => pteTier e == 1))
    { s with demoQ := s.demoQ.filter fun q => !out q }

/-- Whether a promotion of a page is queued or in transit (R93). -/
def State.promoPending (s : State) (c va : Nat) : Bool :=
  ((s.promoQ ++ s.stagedQ).any fun q => q.ctx == c && q.va == va) ||
    s.transit.any fun r => r.ctx == c && r.va == va && r.st == .promoting

/-- R93: a request for a page that is queued attaches to its request: for a waking sequence, or, as `none`, for a probe or
the firmware. -/
def FReq.attach (q : FReq) (sn : Option Nat) : FReq :=
  if q.sn = sn ∨ sn ∈ q.att then q else { q with att := q.att ++ [sn] }

/-- The attachment to a page's request, in whichever queue it stands. -/
def State.attachRequest (s : State) (c va : Nat) (sn : Option Nat) : State :=
  let joined (q : FReq) : FReq := if q.ctx = c ∧ q.va = va then q.attach sn else q
  { s with promoQ := s.promoQ.map joined, stagedQ := s.stagedQ.map joined }

/-- R93, R53: a promotion request for a page, whose demotion it cancels (R97); one for a page that is queued or in transit
attaches. -/
def State.requestPromotion (s : State) (c va : Nat) (sn : Option Nat) : State :=
  let s := s.cancelDemotions c va 1
  match s.leaf c va with
  | none => s
  | some e =>
    let page := pageBase va e
    let s := s.cancelDemotions c page (pageBytes (pteSize e))
    match farOf (pteTier e) with
    | none => s
    | some t =>
      if s.promoPending c page then s.attachRequest c page sn
      else
        match sn with
        | none => { s with promoQ := s.promoQ ++ [⟨c, page, t, none, []⟩] }
        | some n => { s with stagedQ := s.stagedQ ++ [⟨c, page, t, some n, []⟩] }

/-- The key-value pages that share a byte with the page of n bytes at an address (R244). -/
def Serving.kvUnder (v : Serving) (va n : Nat) : List Nat :=
  let pg := pageBytes v.kvSize
  let base := v.kvBase.toNat
  let lo := (va - base) / pg
  if v.seqN != 0 && base < va + n && va < base + v.kvN * pg then
    List.range' lo (min v.kvN ((va + n - base + pg - 1) / pg) - lo)
  else []

/-- Whether a key-value page that shares a byte with the page of n bytes at an address is pinned: PINC is not 0 (R92,
R244). -/
def State.pinned (s : State) (c va n : Nat) : Bool :=
  ((s.ctx c).serv.kvUnder va n).any fun k => bits (s.hubNum c (VA.plus (s.ctx c).serv.kvCntVA (4 * k)) 4) 16 16 != 0

/-- The count words read for that (R83, R41, R50). -/
def State.pinUse (s : State) (c va n : Nat) : State :=
  ((s.ctx c).serv.kvUnder va n).foldl (fun s k => s.hubUse c (VA.plus (s.ctx c).serv.kvCntVA (4 * k)) 4) s

/-- R92: whether a resident page may leave T0 and T1, but for its target tier. A page of space 0x0000 stays where the host
reaches its bytes (R15). -/
def State.eligible (s : State) (c page e : Nat) : Bool :=
  let n := pageBytes (pteSize e)
  2 ^ 64 ≤ page && pteTier e == 0 && n < 2 ^ 22 && !ptePin e && !pteRepl e && !(s.ctx c).held page n && !s.pinned c page n &&
    (s.transitAt c page n).isNone

/-- R92 for a page in CXM that is to go to FLT. -/
def State.eligibleDeep (s : State) (c page e : Nat) : Bool :=
  let n := pageBytes (pteSize e)
  pteTier e == 1 && !(s.ctx c).held page n && !s.pinned c page n && (s.transitAt c page n).isNone

/-- A page queued for demotion to a tier unless it is queued for that tier already (R92, R93). -/
def State.queueDemotion (s : State) (c page : Nat) (t : Far) (sn : Option Nat) : State :=
  if s.demoQ.any fun q => q.ctx == c && q.va == page && q.target == t then s else { s with demoQ := s.demoQ ++ [⟨c, page, t, sn, []⟩] }

/-- The target of a demotion by aging (R92). -/
def State.agingTarget (s : State) (c : Nat) : Option Far :=
  if s.farAvailable c .cxm then some .cxm else if s.farAvailable c .flt then some .flt else none

end Sys2Proof.Machine
end

