-- ==== Sys2Proof/Machine/Becalm.lean ====
section
/-! DEFINITION. Becalmed sequences: the pages of a sequence (R245), its wake mailbox as the gust-write agent keeps it
(R99, R100, R102), staged promotion (R103, R104) and aging (R101). -/
namespace Sys2Proof.Machine

/-! ## Sequences -/

/-- Whether every page of a sequence is resident (R103). -/
def State.seqResident (s : State) (c n : Nat) : Bool :=
  (s.seqRanges c n).all fun r =>
    r.2 == 0 || ((s.transitAt c r.1 r.2).isNone && (s.pagesIn c r.1 r.2).all fun p => pteTier p.2 == 0)

/-! ## Mailboxes -/

/-- The codes of MSTATE (R99). -/
def MState.code (m : MState) : Nat :=
  match m with
  | .idle => 0
  | .pending => 1
  | .becalmed => 2
  | .waking => 3
  | .ready => 4
  | .wakefail => 5

/-- The mailbox of sequence n of a context, if one is registered. -/
def Context.mbox (x : Context) (n : Nat) : Option Mbox := x.mboxes.find? fun m => m.sn == n

/-- MSTATE of a sequence; one without a mailbox counts as IDLE (R245). -/
def Context.mstate (x : Context) (n : Nat) : MState := match x.mbox n with
  | some m => m.st
  | none => .idle

/-- The context and mailbox of a gust slot (R393). -/
def State.slotOwner (s : State) (slot : Nat) : Option (Nat × Mbox) :=
  s.ctxs.findSome? fun p => (p.2.mboxes.find? fun m => m.slot == slot).map fun m => (p.1, m)

/-- A management record (KIND 0). -/
def State.logMgmt (s : State) (asid addr : Nat) : State := { s with log := logAdd ⟨0, 0, asid, addr, s.ticks, 0⟩ s.log }

/-- R99: a mailbox's new state, held at the hub and written to the mailbox; where the mailbox cannot be written, a record
names the context and the sequence. -/
def State.setMbox (s : State) (c : Nat) (m : Mbox) : State :=
  let s := s.updCtx c fun x => { x with mboxes := x.mboxes.map fun q => if q.sn = m.sn then m else q }
  let w := m.st.code + m.gusts * 2 ^ 8 + m.rlast * 2 ^ 32
  let p := s.gustPut c (VA.plus m.va 8) (leBytes 8 w)
  if p.2 then p.1 else p.1.logMgmt c m.sn

/-- R200: a sequence appended to the ready list in hub cycle n; those of one hub cycle stand in ascending order. -/
def Context.readyAdd (x : Context) (n sn : Nat) : Context :=
  let k := if x.readyAt = n then min x.readyNew x.readyL.length else 0
  let old := x.readyL.take (x.readyL.length - k)
  let new := x.readyL.drop (x.readyL.length - k)
  { x with readyL := old ++ new.filter (· < sn) ++ [sn] ++ new.filter (sn < ·), readyAt := n, readyNew := k + 1 }

/-- A sequence taken off the ready list in hub cycle n. -/
def Context.readyDrop (x : Context) (n sn : Nat) : Context :=
  let k := if x.readyAt = n then min x.readyNew x.readyL.length else 0
  let new := (x.readyL.drop (x.readyL.length - k)).filter (· != sn)
  { x with
    readyL := x.readyL.filter (· != sn)
    readyNew := if x.readyAt = n then new.length else x.readyNew }

/-- R102: every WAKING sequence of a context whose last page is resident enters READY and the ready list, in ascending
order (R200). -/
def State.wakeCheck (s : State) (c : Nat) : State :=
  let ws := ((s.ctx c).mboxes.filter fun m => m.st == .waking && s.seqResident c m.sn).mergeSort fun a b => a.sn ≤ b.sn
  ws.foldl (fun s m => (s.setMbox c { m with st := .ready }).updCtx c fun x => x.readyAdd (s.time / 15 + 1) m.sn) s

/-- R103, R104: the demotions of a sequence's pages cancelled, and its staged promotion from where each page is. -/
def State.stagePromotion (s : State) (c n : Nat) : State :=
  let rs := s.seqRanges c n
  let s := rs.foldl (fun s r => if r.2 = 0 then s else s.cancelDemotions c r.1 r.2) s
  rs.foldl (fun s r => (s.pagesIn c r.1 r.2).foldl (fun s p => if pteTier p.2 = 0 then s else s.requestPromotion c p.1 (some n)) s) s

/-- R99, R100, R102: one gust write of a sequence: word 0x00 of the mailbox with WAKE set, then the agent's transition. -/
def State.gustDo (s : State) (c : Nat) (m : Mbox) (rlen : Nat) : State :=
  let s := s.mboxPut c m.va (1 + rlen * 2 ^ 32)
  let m := { m with gusts := min 255 (m.gusts + 1), rlast := rlen }
  match m.st with
  | .idle => s.setMbox c { m with st := .pending }
  | .pending | .waking | .ready => s.setMbox c m
  | .becalmed | .wakefail => ((s.setMbox c { m with st := .waking }).stagePromotion c m.sn).wakeCheck c

/-- GUST_WRITE (R100): a write of word 0x00 of the mailbox of a gust slot; with bit 0 clear it is an ordinary write. -/
def execGustWrite (slot : Nat) (word : BitVec 64) (s : State) : Out :=
  match s.slotOwner slot with
  | none => .next s
  | some (c, m) => .next (if word.getLsbD 0 then s.gustDo c m (word.toNat / 2 ^ 32) else s.mboxPut c m.va word.toNat)

/-! ## Aging -/

/-- R101's first step on one page: a page in T0 or T1 enters the demotion queue if it is eligible, else it is skipped. -/
def State.agePage (s : State) (c n page : Nat) : State :=
  match s.leaf c page with
  | none => s
  | some e =>
    if pteTier e ≠ 0 then s
    else
      let u := s.pinUse c page (pageBytes (pteSize e))
      match s.agingTarget c with
      | some t => if s.eligible c page e then u.queueDemotion c page t (some n) else u.skipPage c n page false
      | none => s.skipPage c n page false

/-- R101's second step on one page: a page in CXM enters the queue for FLT if FLT is available and the page is eligible
(R92), else it is skipped. -/
def State.agePageDeep (s : State) (c n page : Nat) : State :=
  match s.leaf c page with
  | none => s
  | some e =>
    if pteTier e ≠ 1 then s
    else
      let u := s.pinUse c page (pageBytes (pteSize e))
      if s.farAvailable c .flt && s.eligibleDeep c page e then u.queueDemotion c page .flt (some n)
      else u.skipPage c n page true

/-- The pages of a sequence. -/
def State.seqPages (s : State) (c n : Nat) : List Nat :=
  ((s.seqRanges c n).flatMap fun r => (s.pagesIn c r.1 r.2).map Prod.fst).eraseDups

/-- A becalmed sequence of a context. -/
def State.becalmed (s : State) (c n : Nat) : Option Mbox := ((s.ctx c).mbox n).filter fun m => m.st == .becalmed

/-- A field of D1 or D2 that disables its step (R81). -/
def neverAge : Nat := 0xFFFF_FFFF

/-- Whether aging's first step has come for a sequence. -/
def State.dueD1 (s : State) (c : Nat) (m : Mbox) : Bool :=
  let p := (s.ctx c).tier
  m.st == .becalmed && !m.aged1 && p.d1 != neverAge && m.pt + p.d1 ≤ s.ticks

/-- Whether aging's second step has come for a sequence. -/
def State.dueD2 (s : State) (c : Nat) (m : Mbox) : Bool :=
  let p := (s.ctx c).tier
  m.st == .becalmed && !m.aged2 && p.d2 != neverAge && m.pt + p.d1 + p.d2 ≤ s.ticks

/-- Whether aging looks again at the pages that its first step skipped. -/
def State.dueAgain1 (s : State) (m : Mbox) : Bool := m.st == .becalmed && !m.skip1.isEmpty && m.again1 ≤ s.ticks

/-- Whether aging looks again at the pages that its second step skipped. -/
def State.dueAgain2 (s : State) (m : Mbox) : Bool := m.st == .becalmed && !m.skip2.isEmpty && m.again2 ≤ s.ticks

/-- Whether aging looks again at a sequence. -/
def State.dueRecheck (s : State) (m : Mbox) : Bool := s.dueAgain1 m || s.dueAgain2 m

/-- R101's first step on the pages listed. -/
def State.ageOut (s : State) (c n : Nat) (ps : List Nat) : State :=
  let s := s.updAging c n fun m => { m with aged1 := true, skip1 := [], again1 := s.ticks + 1024 }
  ps.foldl (fun s p => s.agePage c n p) s

/-- R101's second step on the pages listed. -/
def State.ageDeep (s : State) (c n : Nat) (ps : List Nat) : State :=
  let s := s.updAging c n fun m => { m with aged2 := true, skip2 := [], again2 := s.ticks + 1024 }
  ps.foldl (fun s p => s.agePageDeep c n p) s

/-- AGING_D1 (R101). -/
def execAgingD1 (s : State) : Out :=
  let c := s.cur.sub.ctx
  match s.becalmed c s.cur.sub.n with
  | none => .next s
  | some m => .next (if s.dueD1 c m then s.ageOut c m.sn (s.seqPages c m.sn) else s)

/-- AGING_D2 (R101). -/
def execAgingD2 (s : State) : Out :=
  let c := s.cur.sub.ctx
  match s.becalmed c s.cur.sub.n with
  | none => .next s
  | some m => .next (if s.dueD2 c m then s.ageDeep c m.sn (s.seqPages c m.sn) else s)

/-- AGING_RECHECK (R101): the pages skipped are examined again. -/
def execAgingRecheck (s : State) : Out :=
  let c := s.cur.sub.ctx
  match s.becalmed c s.cur.sub.n with
  | none => .next s
  | some m =>
    let s := if s.dueAgain1 m then s.ageOut c m.sn m.skip1 else s
    .next (if s.dueAgain2 m then s.ageDeep c m.sn m.skip2 else s)

end Sys2Proof.Machine
end

