-- ==== Sys2Proof/Machine/Engine.lean ====
section
/-! DEFINITION. The engines at work: the start and the completion of commands (R332, R333), the commands of the D queue
that act there (R323, R324, R326 to R328), DWAIT (R176), the fills and drains of streams (R68). A command's whole effect
is made when it completes (notes/assumptions/7.md). -/
namespace Sys2Proof.Machine

/-! ## What a command names -/

/-- The stream registers that a command names, outputs marked. -/
def cmdPos (c : Cmd) : List (BitVec 5 × Bool) := chainPos c ++ mmaPos c ++ dotPos c ++ accPos c

/-- Whether an uncompleted command of another engine that issued before an UNBIND names its register (R332). -/
def Tile.namedBefore (x : Tile) (n : BitVec 5) (ord : Nat) : Bool :=
  [x.qV, x.qM, x.qK, x.qA].any fun q => q.q.any fun c => c.ord < ord && (cmdPos c).any fun p => p.1 == n

/-- R70: whether a command of the same group that issued earlier, and that names a stream register, is not complete: in
another engine's queue, or an SADV or UNBIND of it in the D queue. -/
def Tile.earlierNames (x : Tile) (e : Eng) (n : BitVec 5) (ord : Nat) : Bool :=
  let names (c : Cmd) : Bool := match c.i with
    | .unbind _ _ _ m | .sadv _ _ _ m _ => m == n
    | _ => (cmdPos c).any fun p => p.1 == n
  [.D, .V, .M, .K, .A].any fun f => f != e && (x.queue f).q.any fun c =>
    c.ord < ord && names c && x.cmdGroup f c.ord == x.cmdGroup e ord

/-- Whether a command of the other bank engine that issued earlier names the same bank (R117, R335). -/
def Tile.bankBusy (x : Tile) (e : Eng) (c : Cmd) : Bool :=
  match bankOf c.i with
  | none => false
  | some b => (x.queue (if e = .M then .A else .M)).q.any fun d => d.ord < c.ord && bankOf d.i == some b

/-- Whether the group of a command still waits at an instruction that stands before the command in program order (R147). -/
def Tile.waitsBefore (x : Tile) (e : Eng) (ord : Nat) : Bool :=
  let gs := match x.outer with
    | some o => if ord < o.ord then o.groups else x.groups
    | none => x.groups
  gs.any fun g => g.hasSlot (engSlot e) && g.waits.any fun w => w.since ≤ ord

/-- Whether a command waits for what its group's slot L left to be done before it (R142, R143, R147): with ACQ or REL for
everything, else for the scratchpad stores that wait; and, with ACQ, for the waiting instructions before it. -/
def Tile.orderHeld (x : Tile) (e : Eng) (c : Cmd) : Bool :=
  (x.mems.any fun w => sameGrp w.grp (x.cmdGroup e c.ord).1 && w.seq < c.ord &&
    (acqOf c.i || relOf c.i || (match w.op with
      | .st _ _ _ => true
      | _ => false))) ||
    (acqOf c.i && x.waitsBefore e c.ord)

/-! ## Starts -/

/-- R70, R323: an UNBIND or SADV of a register: another group's stream raises ENGINE. -/
def Tile.ownedElsewhere (x : Tile) (n : BitVec 5) (ord : Nat) : Bool :=
  match x.stream n with
  | none => false
  | some q =>
    match q.owner with
    | none => false
    | some o => x.cmdGroup .D ord != (o, false)

/-- The start of a command of the D queue. -/
def dStart (s : State) (t : Nat) (c : Cmd) : Start :=
  let x := s.tile t
  match c.i with
  | .cpyin _ _ _ _ _ _ _ | .cpyout _ _ _ _ _ _ _ | .mcast _ _ _ _ _ _ _ _ | .cpyss _ _ _ _ _ | .send _ _ _ _ =>
    if 32 ≤ x.copyQ.length then .wait else .go
  | .cpyr _ _ _ _ =>
    if 32 ≤ x.copyQ.length ∨ x.relPending (x.cmdGroup .D c.ord).1 c.ord c.scope then .wait else .go
  | .unbind _ _ _ n =>
    if x.namedBefore n c.ord then .wait else if x.ownedElsewhere n c.ord then .bad .engine (some n) else .go
  | .sadv _ _ _ n _ =>
    if x.namedBefore n c.ord then .wait
    else if (x.stream n).isNone || x.ownedElsewhere n c.ord then .bad .engine (some n)
    else .go
  | .qpush _ _ _ _ =>
    let qid := (nth 0 c.xv 0).toNat % 2 ^ 32
    if !s.queueOk x.ctx qid (spadAddr (nth 0 c.xv 1)) then .bad .engine none
    else if x.relPending (x.cmdGroup .D c.ord).1 c.ord 3 || s.queueFull ((s.queue? qid).getD PQueue.none) ||
        (let a := opsAddr t 0 (spadAddr (nth 0 c.xv 1))
         x.copyWrites t c.ord ⟨false, a, a + ((s.queue? qid).getD PQueue.none).esz⟩) then .wait
    else .go
  | .idxld _ _ _ _ _ _ =>
    let a := copyArgs c.stg false
    let va := VA.toNat ⟨c.asp, w64 a.epb⟩
    if x.copyWrites t c.ord ⟨true, va, va + a.len⟩ then .wait else .go
  | .dsig _ _ => if x.copyQ.any fun k => k.cmd.ord < c.ord then .wait else .go
  | .dwaitDist _ _ _ | .dwaitReg _ _ _ => .wait
  | _ => .go

/-- The fields that an engine checks at a start (R332). -/
def cmdFieldsOk (s : State) (t : Nat) (e : Eng) (c : Cmd) : Bool :=
  match e with
  | .D => true
  | .V => chainFieldsOk (s.tile t) c
  | .M => mmaFieldsOk s t c
  | .K => dotFieldsOk (s.tile t) c
  | .A => accFieldsOk (s.tile t) c

/-- Whether a DSIG, a release at TILE scope (R139, R328), waits for earlier REL commands of its group (R147). -/
def Tile.signalHeld (x : Tile) (e : Eng) (c : Cmd) : Bool :=
  match c.i with
  | .dsig _ _ => x.relPending (x.cmdGroup e c.ord).1 c.ord 0
  | _ => false

/-- What the start of the head of an engine's queue comes to (R117, R332, R357). -/
def State.startOf (s : State) (t : Nat) (e : Eng) (c : Cmd) : Start :=
  let x := s.tile t
  if x.orderHeld e c || x.signalHeld e c then .wait
  else if e = .D then dStart s t c
  else
    match c.i with
    | .dwaitDist _ _ _ | .dwaitReg _ _ _ => .wait
    | _ =>
      if x.bankBusy e c || (cmdPos c).any (fun p => x.earlierNames e p.1 c.ord) then .wait
      else
        match (x.startStreams e c.ord (cmdPos c)).need (cmdFieldsOk s t e c) with
        | .go => leaseGate s t c
        | r => r

/-- The command that an engine runs or would run next, if the tile's engines are at work. -/
def Tile.engHead (x : Tile) (e : Eng) : Option Cmd := if x.live then (x.queue e).q.head? else none

/-- A tile with the streams of a command owned by its group (R70). -/
def Tile.ownAll (x : Tile) (e : Eng) (c : Cmd) : Tile :=
  (cmdPos c).foldl (fun x p => x.own (x.cmdGroup e c.ord).1 p.1) x

/-- Whether a command is one of the lease period's (R357). -/
def arrayCmd (i : Instr) : Bool :=
  match i with
  | .mma _ _ _ _ _ _ | .mmab _ _ _ _ _ _ _ | .mz _ _ _ _ => true
  | _ => false

/-- ENGINE_COMMAND_START (R332) of tile t's engine e. -/
def execEngineStart (t : Nat) (e : Eng) (s : State) : Out :=
  let x := s.tile t
  match x.engHead e with
  | none => .next s
  | some c =>
    if (x.queue e).run then .next s
    else
      match s.startOf t e c with
      | .wait => .next s
      | .bad k fq => .next (s.raiseEng t e false c.grp c.num.toNat k 0 fq)
      | .go =>
        let s := s.updTile t fun x => (x.setQueue e { x.queue e with run := true }).ownAll e c
        .next (if arrayCmd c.i then s.updCluster (t / 4) fun k => k.accept t (s.tile t) c else s)

/-! ## The commands of the D queue -/

/-- R14, R49: the tile-walk engine may prefetch the translation of a memory stream's first tile: a miss is queued on the
tile's die, unless one for the page is queued already (R43); it makes no request while the queue is full. -/
def State.prefetchTile (s : State) (t va : Nat) : State :=
  let c := (s.tile t).ctx
  s.updDie (tileDie t) fun x =>
    if 4096 ≤ x.missQ.length || x.missQ.any (fun p => p.1 == c && p.2 / 4096 == va / 4096) then x
    else { x with missQ := x.missQ ++ [(c, va)] }

/-- R64 to R66, R323: the binding of a stream register. -/
def bindM (t : Nat) (c : Cmd) (n : BitVec 5) (acq rel : Bool) : EngM Unit := do
  let p := patOf c.stg
  if ((← get).tile t).stream n |>.isSome then eng .engine (some n)
  if !patReservedOk (c.stg.take 12) || !p.ok t then eng .engine (some n)
  let td ← if p.kind = 1 then twDesc t p.tid (some n) else pure 0
  if p.kind = 1 ∧ (!p.fits td || !(← get).scPageOk t td p.dir) then eng .engine (some n)
  let q : Stream :=
    { desc := c.stg.take 12, tdesc := td, owner := none, wdone := false, epos := 0, wpos := 0, skips := [], grp := c.grp
      num := c.num.toNat, ord := c.ord, scope := c.scope, acq := acq, rel := rel, tagDone := false, spoilt := [], ixOld := [] }
  modify fun s => s.updTile t fun x =>
    let x := x.setStream n q
    if p.kind ≠ 1 ∧ !p.dir then x.streamTag n q else x
  if p.kind = 1 then modify fun s => s.prefetchTile t (tdBase td)

/-- The elements of an output stream drained up to what has been pushed (R69). -/
def drainAll (t : Nat) (n : BitVec 5) : EngM Unit := do
  match ((← get).tile t).stream n with
  | none => pure ()
  | some q =>
    (List.range (q.epos - q.wpos)).forM fun _ => do
      match ((← get).tile t).stream n with
      | some q => streamDrainOne t n q
      | none => pure ()

/-- R69, R323: UNBIND. An unbound register reads as at reset from then on, which R67 does not say (notes/assumptions/81.md). -/
def unbindM (t : Nat) (n : BitVec 5) : EngM Unit := do
  match ((← get).tile t).stream n with
  | none => pure ()
  | some q =>
    let p := patOf q.desc
    if p.kind = 1 && p.dir then drainAll t n
    modify fun s => s.updTile t fun x => { x with qs := mdel x.qs n.toNat }

/-- R323: one element of an input stream discarded. -/
def skipElem (t : Nat) (n : BitVec 5) : EngM Unit := do
  match ((← get).tile t).stream n with
  | none => eng .engine (some n)
  | some q =>
    let p := patOf q.desc
    if p.total ≤ q.epos then eng .engine (some n)
    if p.kind = 1 ∧ q.wpos ≤ q.epos then streamFillOne t n q
    modify fun s => s.updTile t fun x =>
      match x.stream n with
      | some q => x.setStream n { q with epos := q.epos + 1 }
      | none => x

/-- R323: one position of an output stream skipped, which takes its permit as a pushed element does. -/
def skipOut (t : Nat) (n : BitVec 5) (k : Nat) : EngM Unit := do
  match ((← get).tile t).stream n with
  | none => pure ()
  | some q =>
    let p := patOf q.desc
    if p.kind = 1 then drainFor t n k (p.blockElems + p.fifo)
    modify fun s => s.updTile t fun x =>
      match x.stream n with
      | some q =>
        let q := { q with epos := k + 1 }
        let x := x.setStream n q
        if p.kind = 0 ∧ q.epos = p.total then x.streamTag n q else x
      | none => x

/-- R323: SADV. -/
def sadvM (t : Nat) (c : Cmd) (n : BitVec 5) (k : Nat) : EngM Unit := do
  modify fun s => s.updTile t fun x => x.own (x.cmdGroup .D c.ord).1 n
  match ((← get).tile t).stream n with
  | none => eng .engine (some n)
  | some q =>
    let p := patOf q.desc
    if p.dir then
      if p.total < q.epos + k then eng .engine (some n)
      modify fun s => s.updTile t fun x => x.setStream n { q with skips := q.skips ++ [(q.epos, k)] }
      (List.range k).forM fun j => skipOut t n (q.epos + j)
    else (List.range k).forM fun _ => skipElem t n

/-- R324: IDXLD. -/
def idxldM (t : Nat) (c : Cmd) : EngM Unit := do
  let a := copyArgs c.stg false
  if !linearOk a || a.epa % 4 != 0 || a.epb % 4 != 0 || a.len % 4 != 0 || a.arg / 2 ^ 32 != 0 then tw .engine 0
  let b ← twRead t (VA.toNat ⟨c.asp, w64 a.epb⟩) a.len none
  let ws := (leWords (b.map Prod.fst)).map fun w => leBytes 4 (w + BitVec.ofNat 32 a.arg).toNat
  copyPut [t] a.epa ((ws.flatten.zip (b.map Prod.snd)))

/-- R326: TAGCLR. -/
def Tile.tagClearMask (x : Tile) (mask : Nat) : Tile :=
  (List.range 64).foldl (fun x k => if nbit mask k then x.tagClear k else x) x

/-- R327: QPUSH. -/
def qpushM (t : Nat) (c : Cmd) : EngM Unit := do
  let s ← get
  let qid := (nth 0 c.xv 0).toNat % 2 ^ 32
  let off := spadAddr (nth 0 c.xv 1)
  let q := (s.queue? qid).getD PQueue.none
  bankM (.spad t) off q.esz
  if s.poisoned (.spad t) off q.esz then
    set (s.consumed (.spad t) off (s.tile t).ctx)
    throw ⟨.poison, off, none, false, none⟩
  modify fun s => (s.queuePush qid q (s.bytes (.spad t) off q.esz)).releaseTo (.cmd t c.ord) t 3 (.entry qid (s.queueHTN q).2.1.toNat)

/-- A copy command handed to the copy queue (R120). -/
def Tile.enqueueCopy (x : Tile) (c : Cmd) : Tile :=
  { x with copyQ := x.copyQ ++ [⟨c, 0, x.copyId, 0, x.task⟩], copyId := x.copyId + 1 }

/-- What a command of the D queue does. -/
def dRun (t : Nat) (c : Cmd) : EngM Unit :=
  match c.i with
  | .cpyin _ _ _ _ _ _ _ | .cpyout _ _ _ _ _ _ _ | .mcast _ _ _ _ _ _ _ _ | .cpyss _ _ _ _ _ | .cpyr _ _ _ _
  | .send _ _ _ _ => modify fun s => s.updTile t fun x => x.enqueueCopy c
  | .bind _ acq rel n => bindM t c n acq rel
  | .unbind _ _ _ n => unbindM t n
  | .sadv _ _ _ n k => sadvM t c n k.toNat
  | .idxld _ _ _ _ _ _ => idxldM t c
  | .tagclr _ _ => modify fun s => s.updTile t fun x => x.tagClearMask (nth 0 c.xv 0).toNat
  | .qpush _ _ _ _ => qpushM t c
  | _ => pure ()

/-- What a command of an engine does. -/
def cmdRun (t : Nat) (e : Eng) (c : Cmd) : EngM Unit :=
  match e with
  | .D => dRun t c
  | .V => chainRun t c
  | .M => mmaRun t c
  | .K => dotRunCmd t c
  | .A => accRun t c

/-! ## Completions -/

/-- Whether a command is handed to the copy queue (R120). -/
def isCopy (i : Instr) : Bool :=
  match i with
  | .cpyin _ _ _ _ _ _ _ | .cpyout _ _ _ _ _ _ _ | .mcast _ _ _ _ _ _ _ _ | .cpyss _ _ _ _ _ | .cpyr _ _ _ _
  | .send _ _ _ _ => true
  | _ => false

/-- A completed command leaves its queue (R261), an event of R382, which a copy that only starts is not; an IDXLD counts
on its tag (R121). -/
def Tile.cmdDone (x : Tile) (e : Eng) (c : Cmd) : Tile :=
  let x := x.setQueue e ⟨(x.queue e).q.drop 1, false⟩
  let x := match c.i with
    | .idxld _ _ _ v g _ => if v then x.tagDone g.toNat else x
    | _ => x
  if isCopy c.i then x else x.wdTouch

/-- R179: whether a QPUSH that has started finds its queue full now. -/
def State.pushFull (s : State) (c : Cmd) : Bool :=
  match c.i with
  | .qpush _ _ _ _ => s.queueFull ((s.queue? ((nth 0 c.xv 0).toNat % 2 ^ 32)).getD PQueue.none)
  | _ => false

/-- ENGINE_COMMAND_COMPLETE (R333) of tile t's engine e; a QPUSH waits while its queue is full (R179). -/
def execEngineComplete (t : Nat) (e : Eng) (s : State) : Out :=
  let x := s.tile t
  match x.engHead e with
  | none => .next s
  | some c =>
    if !(x.queue e).run || s.pushFull c then .next s
    else
      match s.runEng t e c.grp c.num.toNat (cmdRun t e c) with
      | (s, none) => .next s
      | (s, some _) => .next ((if isCopy c.i then s else s.cmdReleases t c (s.tile t).task).updTile t fun x => x.cmdDone e c)

/-- The engine and the number that a DWAIT names (R328). -/
def dwaitTarget (c : Cmd) : Option (Eng × BitVec 16) :=
  match c.i with
  | .dwaitDist _ e _ | .dwaitReg _ e _ => some (engOfIdx e.toNat, (nth 0 c.xv 0).truncate 16)
  | _ => none

/-- R176: whether a command's number is at or before s among the 32,767 that precede w. -/
def atOrBefore (w n c : BitVec 16) : Bool := (w - n).toNat ≤ (w - c).toNat && (w - c).toNat ≤ 32767

/-- R176: whether every command that was pushed to engine f before place ord, with a number at or before n, has completed. -/
def Tile.signalled (x : Tile) (f : Eng) (w n : BitVec 16) (ord : Nat) : Bool :=
  !((x.queue f).q.any fun c => c.ord < ord && atOrBefore w n c.num) &&
    !(f == .D && x.copyQ.any fun k => k.cmd.ord < ord && atOrBefore w n k.cmd.num)

/-- DWAIT_SATISFIED (R176): the DWAIT at the head of an engine's queue leaves it. -/
def execDwaitSatisfied (t : Nat) (e : Eng) (s : State) : Out :=
  let x := s.tile t
  match x.engHead e with
  | none => .next s
  | some c =>
    match dwaitTarget c with
    | none => .next s
    | some (f, n) => .next (if x.signalled f c.num n c.ord then s.updTile t fun x => x.cmdDone e c else s)

/-! ## OPS writes -/

/-- Elements in a row in scratchpad or accumulators: where they begin and end, and the bytes of one. -/
structure Elems where
  lo : Nat
  hi : Nat
  unit : Nat
  deriving DecidableEq, Repr

/-- The accumulator elements that a running command accesses (R28, R117). -/
def cmdCells (c : Cmd) : List Elems :=
  let m := mmaArgs c.stg
  let a := accArgs c.xv
  let rows (b : BitVec 4) (r0 n c0 k : Nat) : List Elems :=
    (List.range n).map fun r => ⟨bankOff b.toNat (r0 + r) c0, bankOff b.toNat (r0 + r) c0 + 4 * k, 4⟩
  match c.i, bankOf c.i with
  | .mma _ _ _ _ _ _, some b | .mmab _ _ _ _ _ _ _, some b | .mz _ _ _ _, some b =>
    rows b m.row0 (16 * m.mb) m.col0 (16 * m.nb)
  | _, some b => rows b a.row0 a.rows a.col0 a.cols
  | _, none => []

/-- The elements of the table that a running VGATH or VSCAT accesses (R28). -/
def Tile.cmdTable (x : Tile) (c : Cmd) : List Elems :=
  let d := (nth 0 c.stg 5).toNat
  let tab (q : BitVec 5) : List Elems :=
    let eb := ebits (x.streamFmt q)
    [⟨bits d 0 20, bits d 0 20 + ceilDiv (bits d 20 22 * eb) 8, elemBytes eb⟩]
  match c.i with
  | .vgath _ _ _ qo _ _ => tab qo
  | .vscat _ _ _ qa _ _ _ => tab qa
  | _ => []

/-- The elements of a bound stream that commands may yet access (R28): of a region those from EPOS on, of a FIFO all. -/
def Stream.elems (q : Stream) : List Elems :=
  let p := patOf q.desc
  if p.kind = 2 then []
  else if p.kind = 1 then q.owned.map fun o => ⟨o.base, o.base + o.len, o.unit⟩
  else
    ((q.regionBytes.drop q.epos).map fun e => ⟨e, e + elemBytes (ebits p.fmt), elemBytes (ebits p.fmt)⟩) ++
      (q.owned.drop 1).map fun o => ⟨o.base, o.base + o.len, o.unit⟩

/-- The elements that a tile's running commands and copies read or write (R28): in its scratchpad, or its accumulators. -/
def Tile.busyElems (x : Tile) (t : Nat) (acc : Bool) : List Elems :=
  let heads := [x.qD, x.qV, x.qM, x.qK, x.qA].filterMap fun q => if q.run then q.q.head? else none
  if acc then heads.flatMap cmdCells
  else
    let strm := heads.flatMap fun c => (cmdPos c).flatMap fun p => match x.stream p.1 with
      | some q => q.elems
      | none => []
    let idx := heads.flatMap fun c => match c.i with
      | .idxld _ _ _ _ _ _ =>
        let a := copyArgs c.stg false
        [⟨a.epa, a.epa + a.len, 4⟩]
      | .unbind _ _ _ n => (match x.stream n with
        | some q => if q.toMem then q.elems else []
        | none => [])
      | _ => []
    let cps := x.running.flatMap fun c => ((c.spans t).1 ++ (c.spans t).2).filterMap fun r =>
      if !r.va && r.lo / 2 ^ 27 == opsAddr t 0 0 / 2 ^ 27 then some ⟨r.lo % 2 ^ 27, r.lo % 2 ^ 27 + (r.hi - r.lo), 1⟩ else none
    heads.flatMap x.cmdTable ++ strm ++ idx ++ cps

/-- The entry that a running QPUSH of a tile reads (R28, R327). -/
def State.pushElems (s : State) (t : Nat) : List Elems :=
  let q := (s.tile t).qD
  match (if q.run then q.q.head? else none) with
  | some c => (match c.i with
    | .qpush _ _ _ _ =>
      let n := ((s.queue? ((nth 0 c.xv 0).toNat % 2 ^ 32)).getD PQueue.none).esz
      let a := spadAddr (nth 0 c.xv 1)
      [⟨a, a + n, n⟩]
    | _ => [])
  | none => []

/-- R28: the elements that an OPS write of n bytes at an offset shares with a running command of the target tile are undefined. -/
def State.opsTear (s : State) (t w off n : Nat) : State :=
  let l : Loc := if w = 1 then .acc t else .spad t
  (((s.tile t).busyElems t (w == 1) ++ if w = 1 then [] else s.pushElems t).filter fun e => e.lo < off + n && off < e.hi).foldl
    (fun s e =>
      let lo := e.lo + (max off e.lo - e.lo) / e.unit * e.unit
      let hi := min e.hi (e.lo + ceilDiv (min (off + n) e.hi - e.lo) e.unit * e.unit)
      s.undefine l lo (hi - lo)) s

/-- An OPS write performed at its target (R23, R27). -/
def State.opsWrite (s : State) (t w off : Nat) (bs : List (Byte × Bool)) : State :=
  let c := (s.tile t).ctx
  match w with
  | 0 => (s.store (.spad t) off bs c).opsTear t 0 off bs.length
  | 1 => (s.store (.acc t) off bs c).opsTear t 1 off bs.length
  | 2 => s.updTile t fun x => x.putRegs (off / 8) (leDwords (bs.map Prod.fst))
  | _ => s

/-- The bank in retention that an OPS write, or the flag of a CPYR, waits for (R112). -/
def Tile.opsHeldBank (x : Tile) (w : OpsIn) : Option Nat :=
  (if w.win = 0 then x.bankHeld w.off w.bytes.length else none) <|> (w.flag.bind fun f => x.bankHeld f.1 8)

/-- R124: the release that the flag fill of a CPYR is, at the scope that the CPYR names, of what its tile wrote before it. -/
def State.fillReleases (s : State) (w : OpsIn) (at' : WordAt) : State :=
  match (s.tile w.srcTile).copyQ.find? fun c => c.id == w.srcId with
  | some c => s.releaseTo (.cmd w.srcTile c.cmd.ord) w.srcTile c.cmd.scope at'
  | none => s

/-- OPS_WRITE_LAND (R27): the oldest OPS write accepted for a tile is performed, after the results that land at the same
boundary, and a CPYR's flag is filled after its data (R124). A bank in retention is left first (R112). -/
def execOpsWriteLand (t : Nat) (s : State) : Out :=
  match (s.tile t).opsIn with
  | [] => .next s
  | w :: r =>
    if (s.tile t).pend.any fun p => p.timed && p.due ≤ (s.tile t).clk then .next s
    else
    match (s.tile t).opsHeldBank w with
    | some b => .next (s.updTile t fun x => x.leaveBank b)
    | none =>
    let s := s.updTile t fun x => { x with opsIn := r }
    let s := s.opsWrite t w.win w.off w.bytes
    let s := match w.flag with
      | some (o, v) => (s.flagFill t o v).fillReleases w (.spad t o (o + 8))
      | none => s
    .next (s.updTile w.srcTile fun x => x.setCopy w.srcId fun c => { c with phase := 3 })

/-! ## Streams -/

/-- Whether the tile-walk engine may fetch an element of an input stream, or drain one of an output stream (R68). -/
def Stream.canFill (q : Stream) : Bool :=
  let p := patOf q.desc
  p.kind == 1 && !p.dir && q.wpos < p.total && p.permit q.epos q.wpos
def Stream.canDrain (q : Stream) : Bool :=
  let p := patOf q.desc
  p.kind == 1 && p.dir && q.wpos < q.epos

/-- STREAM_FILL (R68). -/
def execStreamFill (t : Nat) (n : BitVec 5) (s : State) : Out :=
  match (s.tile t).stream n with
  | none => .next s
  | some q =>
    if (s.tile t).live && q.canFill then .next (s.runEng t .D q.grp q.num (streamFillOne t n q)).1 else .next s

/-- STREAM_DRAIN (R68). -/
def execStreamDrain (t : Nat) (n : BitVec 5) (s : State) : Out :=
  match (s.tile t).stream n with
  | none => .next s
  | some q =>
    if (s.tile t).live && q.canDrain then .next (s.runEng t .D q.grp q.num (streamDrainOne t n q)).1 else .next s

end Sys2Proof.Machine
end

