-- ==== Sys2Proof/Machine/Fuller.lean ====
section
/-! DEFINITION. The Fuller: congruence swaps (R86 to R89), the start of copies from its four queues (R93), demotions (R95
to R97), promotions (R98) and their failures, replica collapse (R56), and the walkers and invalidations beside them (R43,
R44). A copy's bytes move in the step that starts it. -/
namespace Sys2Proof.Machine

/-! ## Congruence swaps -/

/-- The slot of a group that holds location 0 (R86). -/
def Remap.top (r : Remap) : Nat := (r.loc.findIdx? fun l => l == 0).getD 0

/-- R80, R88: whether a hot frame's hash class agrees with that of the block of location 0 of its group. -/
def State.swapClassOk (s : State) (g pa : Nat) : Bool :=
  let inBlock (a n : Nat) : Bool := (s.classBlocks a n).contains (g / 16)
  let fits (hs c : Nat) : Bool :=
    (s.frames.all fun h => s.sameClass hs c h.hs h.ctx || !inBlock h.pa h.len) &&
      (hs == 0 || s.nodeFrames.all fun h => !inBlock h 65536)
  match s.frames.find? fun f => meets f.pa f.len pa 65536 with
  | some f => fits f.hs f.ctx
  | none => !(s.nodeFrames.any fun f => meets f 65536 pa 65536) || fits 0 0xFFFF

/-- Whether the frame at a PA holds a copy of a read-duplicated page (R55). -/
def State.replicaAt (s : State) (pa : Nat) : Bool := s.frames.any fun f => f.repl && meets f.pa f.len pa 65536

/-- R88: whether a swap may be requested for the frame at slot k of group g. -/
def State.swapAllowed (s : State) (g k : Nat) : Bool :=
  let r := s.remapOf g
  s.form.hasLpm && s.swth != 0 && g < 2 ^ 23 && !r.busy && nth 0 r.loc k != 0 && !s.replicaAt (slotPA g r.top) &&
    !s.replicaAt (slotPA g k) &&
    !meets (g * 65536) 65536 remapBase (2 ^ 39 - remapBase) && s.swapClassOk g (slotPA g k)

/-- Whether a frame's count has reached SWTH in this epoch and has not asked for a swap yet (R88); SWTH = 0 disables
swaps. -/
def State.isHot (s : State) (n : Nat) : Bool :=
  s.swth != 0 && !s.hotAsked.contains n && decide (s.swth ≤ mget 0 s.hot n)

/-- SWAP_REQUEST (R88): the count of the frame reaches SWTH, once in an epoch; `sub.n` is the frame's PA in 64 KiB. -/
def execSwapRequest (s : State) : Out :=
  let n := s.cur.sub.n
  let p := groupOfPA (n * 65536)
  if !s.isHot n || !s.swapAllowed p.1 p.2 then .next s
  else .next { s with hotAsked := s.hotAsked ++ [n], swapQ := s.swapQ ++ [⟨p.1, p.2⟩] }

/-- EPOCH_EXPIRY (R88): the counts restart every EPOCH ticks. -/
def execEpochExpiry (s : State) : Out := .next s.epochRoll

/-- The accesses of a Fuller copy to n bytes at a PA, for the context that owns the page (R83); they do not heat a frame. -/
def State.countMove (s : State) (c hs pa n : Nat) : State := { s.countRun c hs pa n with hot := s.epochRoll.hot }

/-- The accesses of a swap copy to a frame, for the context that owns it, if one does (R83). -/
def State.countSwap (s : State) (pa : Nat) : State :=
  match s.frames.find? fun f => meets f.pa f.len pa 65536 with
  | some f => s.countMove f.ctx f.hs pa 65536
  | none => s.countMove 0xFFFF 0 pa 65536

/-- R89 step 1: the group of a swap becomes BUSY, if what R55, R80 and R88 ask of it still holds. -/
def State.swapStart (s : State) (q : SwapReq) : State :=
  let r := s.remapOf q.group
  if !s.swapAllowed q.group q.slot then s
  else { s with remap := mput s.remap q.group { r with busy := true }, swaps := s.swaps ++ [q] }

/-- R89 step 4: the hot frame and the occupant of location 0 exchange their locations. -/
def Remap.swapped (r : Remap) (slot : Nat) : Remap :=
  ⟨setNth (setNth r.loc r.top (nth 0 r.loc slot)) slot 0, false⟩

/-- SWAP_COMPLETE (R89) of the group `sub.n`; the PAs keep their data (R32), read and written at their channels. -/
def execSwapComplete (s : State) : Out :=
  match s.swaps.find? fun q => q.group == s.cur.sub.n with
  | none => .next s
  | some q =>
    let r := s.remapOf q.group
    -- a frame that has become a replica since is not swapped (R55)
    if s.replicaAt (slotPA q.group q.slot) || s.replicaAt (slotPA q.group r.top) then
      .next { s with remap := mput s.remap q.group { r with busy := false }, swaps := s.swaps.erase q }
    else
    let both (s : State) : State := (s.countSwap (slotPA q.group q.slot)).countSwap (slotPA q.group r.top)
    .next (both { both s with remap := mput s.remap q.group (r.swapped q.slot), swaps := s.swaps.erase q })

/-! ## Starts -/

/-- The steps of R96 at a start from RES: the run enters transit, its entries are invalid, its contents at that moment go
to the far units. -/
def State.demoteStart (s : State) (c page e : Nat) (t : Far) (u : Nat) : State :=
  let n := pageBytes (pteSize e)
  let s := s.takeUnits t u n
  let s : State := { s with transit := s.transit ++ [⟨c, page, .demoting, e, t, pteFrame e * 4096, u, true, s.ticks⟩] }
  let s := (s.writeRun c page (pteSize e) 0).invalidate ⟨c, some (page, n)⟩
  (s.countMove c (pteHS e) (pteFrame e * 4096) n).copyBytes .phys (pteFrame e * 4096) t.loc (s.farAt t u) n

/-- R96 at the start of a move from CXM to FLT. -/
def State.deepStart (s : State) (c page e u : Nat) : State :=
  let n := pageBytes (pteSize e)
  let s := s.takeUnits .flt u n
  let s : State := { s with transit := s.transit ++ [⟨c, page, .demoting2, e, .flt, 0, u, true, s.ticks⟩] }
  s.copyBytes (Far.loc .cxm) (s.farAt .cxm (pteFrame e)) .flt (s.farAt .flt u) n

/-- A demotion that does not start (R96): aging examines its page again; a TMIGR's request is dropped. -/
def State.refuseDemotion (s : State) (q : FReq) (e : Nat) : State :=
  match q.sn with
  | none => s
  | some n =>
    if (s.becalmed q.ctx n).isNone || (s.transitAt q.ctx q.va 1).isSome then s
    else s.skipPage q.ctx n q.va (pteTier e == 1)

/-- R95, R96: a demotion starts; one whose page is not eligible, or whose target tier is not available or holds no free
run, does not. -/
def State.startDemotion (s : State) (q : FReq) : State :=
  match s.leaf q.ctx q.va with
  | none => s
  | some e =>
    let page := pageBase q.va e
    let n := pageBytes (pteSize e)
    match s.findUnits q.target (n / 4096) with
    | none => s.refuseDemotion q e
    | some u =>
      if !s.farAvailable q.ctx q.target then s.refuseDemotion q e
      else
        let v := s.pinUse q.ctx page n
        if pteTier e = 0 then
          (if s.eligible q.ctx page e then v.demoteStart q.ctx page e q.target u else v.refuseDemotion q e)
        else if pteTier e = 1 ∧ q.target = .flt then
          (if s.eligibleDeep q.ctx page e then v.deepStart q.ctx page e u else v.refuseDemotion q e)
        else s

/-- R98 steps 1 and 2: the page enters PROMOTING with its frames; none where no permitted frame is free. -/
def State.startPromotion (s : State) (q : FReq) : Option State :=
  match s.leaf q.ctx q.va with
  | none => some s
  | some e =>
    match farOf (pteTier e) with
    | none => some s
    | some t =>
      let n := pageBytes (pteSize e)
      (s.promoFrame q.ctx (pteHS e) n).map fun pa =>
        let s := s.takeFrames pa (max n 65536) (pteHS e) q.ctx
        { s with
          transit := s.transit ++ [⟨q.ctx, pageBase q.va e, .promoting, e, t, pa, pteFrame e, true, s.ticks⟩] }

/-- The copies under way, at most 32 (R93). -/
def State.copies (s : State) : Nat := s.swaps.length + s.transit.length

/-- Whether the next start is a demotion's: nothing else waits, or three starts have passed it (R93). -/
def State.demotionTurn (s : State) : Bool :=
  !s.demoQ.isEmpty && (3 ≤ s.fullerTurn || (s.swapQ.isEmpty && s.promoQ.isEmpty && s.stagedQ.isEmpty))

/-- A start from the demotion queue: the turn is taken when a copy starts. -/
def State.demotionNext (s : State) : State :=
  match s.demoQ with
  | [] => s
  | q :: r =>
    let u := ({ s with demoQ := r } : State).startDemotion q
    if u.copies = s.copies then u else { u with fullerTurn := 0 }

/-- A state in which a copy that is no demotion has started: one more has passed the demotions (R93). -/
def State.passed (s u : State) : State := if u.copies = s.copies then u else { u with fullerTurn := s.fullerTurn + 1 }

/-- A start from the queue of swaps. -/
def State.swapNext (s : State) : State :=
  match s.swapQ with
  | [] => s
  | q :: r => s.passed (({ s with swapQ := r } : State).swapStart q)

/-- A start from the two queues of promotions; a request that finds no frame waits in its queue (R98) and holds back
its queue alone. -/
def State.promotionNext (s : State) : Option State :=
  let first := match s.promoQ with
    | [] => none
    | q :: r => (({ s with promoQ := r } : State).startPromotion q).map s.passed
  first <|>
    (match s.stagedQ with
     | [] => none
     | q :: r => (({ s with stagedQ := r } : State).startPromotion q).map s.passed)

/-- R93: the next start of a copy. -/
def State.fullerNext (s : State) : State :=
  if 32 ≤ s.copies then s
  else if s.demotionTurn then s.demotionNext
  else if !s.swapQ.isEmpty then s.swapNext
  else
    match s.promotionNext with
    | some s => s
    | none => s.demotionNext

/-- FULLER_COPY_START (R93). -/
def execFullerCopyStart (s : State) : Out := .next s.fullerNext

/-- SWAP (R89): the oldest request starts, when R93 serves that queue. -/
def execSwap (s : State) : Out := .next (if 32 ≤ s.copies || s.demotionTurn then s else s.swapNext)

/-- DEMOTION (R96): the oldest demotion of the queue starts, when R93 serves that queue. -/
def execDemotion (s : State) : Out :=
  .next (if 32 ≤ s.copies then s else if s.demotionTurn || (s.swapQ.isEmpty && s.promotionNext.isNone) then s.demotionNext else s)

/-! ## Ends -/

/-- The run that a step of the transit table acts on. -/
def State.run? (s : State) : Option Transit := s.transit[s.cur.sub.k]?

/-- DEMOTION_COMPLETE (R96): the far PTE is written and the frame is free. -/
def execDemotionComplete (s : State) : Out :=
  match s.run?.filter fun r => r.st == .demoting with
  | none => .next s
  | some r =>
    let s := (s.writeRun r.ctx r.va (pteSize r.pte) (pteAt r.pte r.target.tier r.unit)).dropFrames r.frame (pteHS r.pte) r.ctx
    .next { s with transit := s.transit.erase r }

/-- DEMOTING2_COMPLETE (R95): the FLT PTE is written, then the CXM units are free. -/
def execDemoting2Complete (s : State) : Out :=
  match s.run?.filter fun r => r.st == .demoting2 with
  | none => .next s
  | some r =>
    let s := (s.writeRun r.ctx r.va (pteSize r.pte) (pteAt r.pte 2 r.unit)).freeUnits .cxm (pteFrame r.pte)
    .next { s with transit := s.transit.erase r }

/-- DEMOTION_CANCEL (R97): a step whose far PTE is unwritten returns to the state that it left. -/
def execDemotionCancel (s : State) : Out := .next (match s.run? with
  | some r => s.cancelRun r
  | none => s)

/-- The UNIT code of a far tier (R108). -/
def Far.unitCode (f : Far) : Nat := match f with
  | .cxm => 6
  | .flt => 7

/-- FAR_WRITE_ERROR (R95): as a cancel, with a memory error record; a failing move from CXM to FLT likewise. -/
def execFarWriteError (s : State) : Out :=
  match s.run?.filter fun r => r.st != .promoting with
  | none => .next s
  | some r => .next ((s.cancelRun r).logErr 7 r.target.unitCode r.ctx r.unit)

/-- PROMOTION_COMPLETE (R98): the far units' bytes stand in the frames, the resident PTE is written, the units are free;
waking sequences look whether their last page has come (R102), and aging looks at the page again for becalmed ones
(R200). -/
def execPromotionComplete (s : State) : Out :=
  match s.run?.filter fun r => r.st == .promoting with
  | none => .next s
  | some r =>
    let s := (s.copyBytes r.target.loc (s.farAt r.target r.unit) .phys r.frame r.len).countMove r.ctx (pteHS r.pte) r.frame r.len
    let s := (s.writeRun r.ctx r.va (pteSize r.pte) (pteAt r.pte 0 (r.frame / 4096))).freeUnits r.target r.unit
    .next ((({ s with transit := s.transit.erase r } : State).wakeCheck r.ctx).ageAgain r.ctx r.va r.len)

/-- Whether a sequence's pages include the page of a run. -/
def State.seqHasRun (s : State) (r : Transit) (n : Nat) : Bool := (s.seqRanges r.ctx n).any fun p => meets p.1 p.2 r.va r.len

/-- A queued promotion without a sequence that asked for it: it stands for those that have attached, none if none has
(R93). -/
def FReq.without (q : FReq) (n : Nat) : Option FReq :=
  let att := q.att.filter (· != some n)
  if q.sn ≠ some n then some { q with att := att }
  else match att with
    | [] => none
    | a :: r => some { q with sn := a, att := r }

/-- R102 at MIGFAIL for a page of a waking sequence: the promotions still queued for it alone go. -/
def State.wakeFail (s : State) (c : Nat) (m : Mbox) : State :=
  let s := s.setMbox c { m with st := .wakefail }
  { s with stagedQ := s.stagedQ.filterMap fun q => if q.ctx = c then q.without m.sn else some q }

/-- PROMOTION_FAIL (R95): a far read error or the 1 ms timeout. -/
def execPromotionFail (s : State) : Out :=
  match s.run?.filter fun r => r.st == .promoting with
  | none => .next s
  | some r =>
    let s := ({ s with transit := s.transit.erase r } : State).dropFrames r.frame (pteHS r.pte) r.ctx
    let s := s.logErr 6 r.target.unitCode r.ctx r.unit
    .next
      (((s.ctx r.ctx).mboxes.filter fun m => m.st == .waking && s.seqHasRun r m.sn).foldl
        (fun s m => s.wakeFail r.ctx m) s)

/-! ## Replica collapse (R56) -/

/-- COLLAPSE (R56, steps 1 and 2) of the page at `sub.n`. -/
def execCollapse (s : State) : Out :=
  match s.collapses.find? fun r => r.ctx == s.cur.sub.ctx && r.va == s.cur.sub.n && !r.begun with
  | none => .next s
  | some r =>
    let s := s.unreplicate r.ctx r.va r.pte
    .next { s with collapses := s.collapses.map fun q => if q = r then { q with begun := true } else q }

/-- COLLAPSE_ACK (R56, steps 3 and 4): die `sub.die` acknowledges collapse number `sub.k`; after the last of the four the
stalled writes proceed. -/
def execCollapseAck (s : State) : Out :=
  match s.collapses[s.cur.sub.k]? with
  | none => .next s
  | some r =>
    if !r.begun then .next s
    else
      let a := r.acks ||| ((1 : BitVec 4) <<< s.cur.sub.die)
      let r' := { r with acks := a }
      let s := { s with collapses := s.collapses.map fun q => if q = r then r' else q }
      .next (if a = 0xF then s.collapseEnd r' else s)

/-! ## Walkers and invalidations -/

/-- TLB_WALK (R40, R43): the oldest queued miss of die `sub.die` (4: the hub) is looked up again in the shared TLB, then
walked, and a resident leaf fills it. The queue holds prefetches, whose other outcomes are dropped (R14). -/
def execTlbWalk (s : State) : Out :=
  let d := s.cur.sub.die
  match (s.die d).missQ with
  | [] => .next s
  | (c, va) :: r =>
    let s := s.updDie d fun x => { x with missQ := r }
    if (s.tlbHit (.shared d) c va).isSome then .next s
    else
      let w := walkOn s d c va
      let s := (s.countWalk d c va).walkFill d c va
      match w with
      | .entry e =>
        let own := if va / 2 ^ 64 = 0 then (s.shRange? c va).map (·.own) else none
        .next (if pteTier e = 0 then s.tlbFill [.shared d] c va e (copyBase e d) own else s)
      | _ => .next s

/-- INVALIDATION (R44): the oldest invalidation issued takes effect; walks that were queued for its pages walk again. -/
def execInvalidation (s : State) : Out :=
  match s.invQ with
  | [] => .next s
  | q :: r => .next (({ s with invQ := r } : State).invalidate q)

end Sys2Proof.Machine
end

