-- ==== Sys2Proof/Machine/TileEvents.lean ====
section
/-! DEFINITION. What happens in a tile beside its bundles: results and latches land (R262 to R264, R375), waiting
instructions complete (R265, R316), breakpoints (R378), the user handler's entry (R373), firmware handling (R377), the
end of a kernel by a fault (R193, R379), the watchdog (R382), the pre-emption signal and its bound (R383, R384), the end
of an instance (R129), retention (R111, R112), L1 expiry (R136) and patrol scrubs (R105, R106). -/
namespace Sys2Proof.Machine

/-! ## Results land -/

/-- The timed result that lands next, if its cycle has come (R263). -/
def Tile.dueTimed (x : Tile) : Option Pend := firstPend (x.pend.filter fun p => p.timed && p.due ≤ x.clk)

/-- RESULT_LAND (R262). -/
def execResultLand (t : Nat) (s : State) : Out :=
  match (s.tile t).dueTimed with
  | none => .next s
  | some p => .next (if p.latch then s else s.updTile t fun x => x.landPend p)

/-- LATCH_DELIVERY (R375). -/
def execLatchDelivery (t : Nat) (s : State) : Out :=
  match (s.tile t).dueTimed with
  | none => .next s
  | some p => .next (if p.latch then s.updTile t fun x => x.landPend p else s)

/-- The interlocked result that may land: its access has completed, and no result to its destination issued earlier is
still in flight (R263, R264). -/
def Tile.dueIlk (x : Tile) : Option Pend :=
  x.pend.find? fun p => p.ilk && !p.latch && p.born < x.clk && !(x.pend.any fun q => q.dest == p.dest && q.seq < p.seq)

/-- INTERLOCKED_RESULT_LAND (R264); poison raises POISON at the load (R109, R311). -/
def execInterlockedResultLand (t : Nat) (s : State) : Out :=
  let x := s.tile t
  match x.dueIlk with
  | none => .next s
  | some p =>
    if p.poison then
      let s := s.updTile t fun x => ({ x with pend := x.pend.erase p } : Tile).settleSetcs
      .next (s.raiseIn t ⟨.poison, x.clk, none, false, p.issuer, 2, 0, 0, p.addr, p.fva, none, none, .none⟩)
    else .next (s.updTile t fun x => x.landPend p)

/-! ## Waiting instructions -/

/-- The step's place set to a waiting instruction of group g of tile t, at its bundle. -/
def State.atWait (s : State) (t g : Nat) (w : WaitRec) : State :=
  let q := (s.tile t).group g
  { s with
    cur :=
      { s.cur with tile := t, group := g, slot := w.slot, addr := q.baddr, len := q.blen, scope := w.scope, gap := 0 } }

/-- A waiting instruction of the step's group is complete: its next bundle issues in the next cycle at the earliest
(R265, R404). -/
def State.waitDone (s : State) (w : WaitRec) : State :=
  s.updGrp fun g => { g with waits := g.waits.erase w, nextIssue := max g.nextIssue (s.here.clk + 1) }

/-- A waiting instruction's register result, which the group's next bundle reads (R265). -/
def State.putHere (s : State) (d : Dest) (v : Word) : State := s.updHere fun x => x.put d v

/-- A waiting instruction of the step's group is replaced by another form of itself. -/
def State.waitAs (s : State) (w : WaitRec) (v : Wait) : State :=
  s.updGrp fun g => { g with waits := g.waits.map fun u => if u = w then { u with w := v } else u }

/-- WAITF (R125, R126): its test, on what the writes of the cycle of its issue have left, completes it in that cycle or parks
its group; a wake-up completes it with the value that the waking write left. -/
def State.tryWaitf (s : State) (w : WaitRec) (d : BitVec 7) (off : Nat) (parked : Bool) (woken : Option Word) : State :=
  let t := s.cur.tile
  match woken with
  | some v => ((s.waitDone w).acquire true (.spad t off (off + 8))).putHere (.x d) v
  | none =>
    if parked then s
    else if s.poisoned (.spad t) off 8 then (s.consumed (.spad t) off s.here.ctx).raiseAt .poison off
    else
      let v := s.num (.spad t) off 8
      if nbit v 63 then
        ((s.updGrp fun g => { g with waits := g.waits.erase w }).acquire true (.spad t off (off + 8))).putHere (.x d) (w64 (v % 2 ^ 63))
      else s.waitAs w (.waitf d off true none)

/-- The VA of the page of a failing probe (R51): of the page that maps it, else of 4 KiB. -/
def State.failPage (s : State) (c va : Nat) : Nat := match s.leaf c va with
  | some e => pageBase va e
  | none => va / 4096 * 4096

/-- Whether a group has a result in flight (R265). -/
def Tile.inFlight (x : Tile) (g : Nat) : Bool := x.pend.any (fun p => p.grp == g || p.grp == 255) || x.loadsOut g x.pseq

/-- PROBE (R51, R52, R94, R314): once every earlier result of its group has landed. -/
def State.tryProbe (s : State) (w : WaitRec) (va : VA) (len : Nat) (wr : Bool) : State :=
  let x := s.here
  let t := s.cur.tile
  if x.inFlight s.cur.group then s
  else
    let s := s.cancelDemotions x.ctx va.toNat len
    if (s.transitAt x.ctx va.toNat len).isSome then s
    else
      match s.probe x.ctx (some t) (tileDie t) va len (if wr then .rw else .r) (s.tileExt t) x.task with
      | (s, .ok) => s.waitDone w
      | (s, .wait) => s
      | (s, .holdFull) => s.raiseWhy .probe va.toNat 0 none .holdFull
      | (s, .fail o f) => s.raiseWhy ((o.fatal false).getD .probe) (s.failPage x.ctx f) 0 none o.why

/-- QPOP (R327). -/
def State.tryQpop (s : State) (w : WaitRec) (qid : Nat) (off : Nat) : State :=
  let t := s.cur.tile
  let c := s.here.ctx
  if !s.queueOk c qid off then s.raise .engine
  else
    let s := s.queueMap qid
    let q := (s.queue? qid).getD PQueue.none
    if !s.queueHas q then s
    else
      s.bankWait t off q.esz fun s =>
        let n := (s.queueHTN q).1.toNat
        let r := s.queuePop qid
        ((r.1.waitDone w).store (.spad t) off (r.2.map fun b => (b, false)) c).acquireAt t 3 (.entry qid n)

/-- Whether a RECV has taken a part of its bytes from a stream and waits for the rest (R396), in a program that a handler interrupts
or a tile that is swapped out among others. -/
def State.recvBegun (s : State) (port strm : Nat) : Bool :=
  s.allTiles.any fun p => p.2.allGroups.any fun g => g.waits.any fun w => match w.w with
    | .recvRest a b _ _ => a == port && b == strm
    | _ => false

/-- RECV (R329, R396), or the rest of one that has begun: it takes the bytes as they come where the queue cannot hold LEN of
them, and the stream's next bytes are its own until it has them all. -/
def State.tryRecv (s : State) (w : WaitRec) (begun : Bool) (port strm off len : Nat) : State :=
  let t := s.cur.tile
  let p := s.port port
  if !p.openFor s.here.ctx then s.raise .engine
  else if !begun && s.recvBegun port strm then s
  else
    let q := mget [] p.rx strm
    let n := if len ≤ q.length then len else if 65536 ≤ q.length then q.length else 0
    if n = 0 then s
    else
      s.bankWait t off n fun s =>
        let s := s.setPort port { p with rx := mput p.rx strm (q.drop n) }
        let s := s.store (.spad t) off ((q.take n).map fun b => (b, false)) s.here.ctx
        if n = len then s.waitDone w else s.waitAs w (.recvRest port strm (off + n) (len - n))

/-- LEASE (R175, R316): complete when the tile holds the lease; one that is pending after a resume requests again. -/
def State.tryLease (s : State) (w : WaitRec) : State :=
  let t := s.cur.tile
  let c := s.cluster (t / 4)
  if c.holds (t % 4) then s.waitDone w
  else if c.waits (t % 4) then s
  else
    let s := s.updCluster (t / 4) fun c => c.request (t % 4)
    if (s.cluster (t / 4)).holds (t % 4) then s.waitDone w else s

/-- A FORK, HALT or EXIT that waits for its bundle's other syllables (R151, R287), and a LOOP, BRKL or FORK that raised FETCH
(R316): performed from the start once nothing holds it. -/
def State.tryAgain (s : State) (w : WaitRec) : State :=
  let alone := s.grp.waits.length == 1
  match w.i with
  | .loop _ lev a mn e sh => (s.waitDone w).loopDo w.i lev a mn e sh
  | .brkl _ lev cond c neg => (s.waitDone w).brklDo w.i lev cond c neg
  | .fork _ off => if alone && !s.memsOut then (s.waitDone w).forkDo w.i off else s
  | .halt _ => if alone then (s.waitDone w).haltDo else s
  | .exit _ => if alone then (s.waitDone w).exitDo else s
  | _ => s.waitDone w

/-- A LOOP that has read its operands and waits for a store of its group (R133): it reads its record once that is made. -/
def State.tryLoop (s : State) (w : WaitRec) (off : Nat) : State :=
  match w.i with
  | .loop _ lev _ mn e sh => if s.storeHeld then s else (s.waitDone w).loopRead w.i lev off mn e sh
  | _ => s.waitDone w

/-- A waiting instruction of the step's group tried: what it has when it can complete, else as it was. A JOIN has a step
of its own. -/
def State.tryWait (s : State) (w : WaitRec) : State :=
  match w.w with
  | .waitc c neg => if condHolds (s.readC c) neg then s.waitDone w else s
  | .waitf d off parked v => s.tryWaitf w d off parked v
  | .probe va len wr => s.tryProbe w va len.toNat wr
  | .tags mask all => if tagsHold s.here.tags mask all then (s.waitDone w).tagsSeen s.cur.tile (s.here.tags &&& mask) else s
  | .qpop qid off => s.tryQpop w qid.toNat off
  | .recv port strm off len => s.tryRecv w false port strm off len
  | .recvRest port strm off len => s.tryRecv w true port strm off len
  | .lease => s.tryLease w
  | .join _ _ => s
  | .again => s.tryAgain w
  | .loopAt off => s.tryLoop w off

/-- Whether group g of tile t goes on with what it waits for: the tile runs, and the group has not stopped for a pre-emption
(R383). -/
def Tile.goesOn (x : Tile) (g : Nat) : Bool := x.stat == .running && !(x.group g).ppStop

/-- The waiting instructions of group g of tile t tried in order while the group goes on; then the group moves on if none is
left (R265, R316), or stops where it still waits and the pre-emption signal has come (R383). -/
def State.tryWaits (s : State) (t g : Nat) (ws : List WaitRec) : State :=
  ((ws.foldl (fun s w => if (s.tile t).goesOn g then (s.atWait t g w).tryWait w else s) s).updTile t fun x => x.stopWaiting g).finish t

/-- An AMO's result that an interrupted program waits for, put into its latches (R371). -/
def Tile.toOuter (x : Tile) (w : MemWait) : Tile :=
  match x.outer with
  | none => x
  | some o =>
    let ps := x.pend.filter fun p => p.ilk && p.seq == w.seq
    { x with
      outer := some { o with latches := o.latches ++ ps.map fun p => ⟨p, 0⟩ }
      pend := x.pend.filter fun p => !(p.ilk && p.seq == w.seq) }

/-- R142, R143: a write that has waited, tried: performed in its place in the issue order, unless it still waits or must
wait for a collapse (R56). A store that would leave FULL = 1 now is a release, whatever it was as it issued (R139). -/
def State.tryWrite (s : State) (t : Nat) (w : MemWait) : State :=
  let x := s.tile t
  let g := if w.grp = 255 then 0 else w.grp
  let u := { s with cur := { s.cur with tile := t, group := g, slot := w.slot, addr := w.addr, scope := w.scope } }
  let rl := u.releases w.rl w.op
  if !x.live || !w.op.writes || !x.memReady { w with rl := rl } then s
  else
    match u.joinsCollapse w.op with
    | some v => v
    | none =>
      let n := x.pseq
      let u := u.updHere fun x => { x with mems := x.mems.erase w, pseq := w.seq }
      let u := u.performAs rl w.scope w.op
      u.updHere fun x => ({ x with pseq := max n x.pseq } : Tile).settleSetcs |> fun x => if w.grp = 255 then x.toOuter w else x

/-- R143: a fence that has waited, tried: its effect comes when what it waits for has been done. -/
def State.tryFence (s : State) (t : Nat) (w : MemWait) : State :=
  if w.op.writes || !(s.tile t).memDone w then s
  else (s.updTile t fun x => { x with mems := x.mems.erase w }).fenceDone t w.op w.scope

/-- The waiting writes and fences of group g of tile t tried in their order. -/
def State.tryWrites (s : State) (t g : Nat) : State :=
  ((s.tile t).mems.filter fun w => sameGrp w.grp g).foldl (fun s w => (s.tryWrite t w).tryFence t w) s

/-- WAITING_INSTRUCTION_COMPLETE (R265) for group g of tile t; first the group's waiting writes are performed that may be
(R142, R143). -/
def execWaitingComplete (t g : Nat) (s : State) : Out :=
  let s := if (s.tile t).mems.isEmpty then s else s.tryWrites t g
  .next (if (s.tile t).stat = .running then s.tryWaits t g ((s.tile t).group g).waits else s)

/-- The woken WAITFs of a group for the word at an offset. -/
def Group.wokenAt (g : Group) (off : Nat) : List WaitRec :=
  g.waits.filter fun w => match w.w with
    | .waitf _ o _ (some _) => o == off
    | _ => false

/-- FLAG_WAKE (R125): every WAITF that a write of the word has woken completes. -/
def execFlagWake (t off : Nat) (s : State) : Out :=
  let x := s.tile t
  .next
    (if x.stat = .running then x.groups.foldl (fun s g => if (g.wokenAt off).isEmpty then s else s.tryWaits t g.num (g.wokenAt off)) s
     else s)

/-- JOIN_COMPLETE (R169) for group g of tile t. -/
def execJoinComplete (t g : Nat) (s : State) : Out :=
  .next (((s.joinCompleteDo t g).updTile t fun x => x.stopWaiting g).finish t)

/-! ## Breakpoints and the user handler -/

/-- Whether groups of a tile may issue: it runs, or it froze for a cause of this very cycle (R370). -/
def Tile.issues (x : Tile) : Bool :=
  x.stat == .running || (x.stat == .frozen && (match x.raised with
    | some r => r.cycle == x.clk
    | none => false))

/-- Whether group g of a tile may issue its next bundle now, but for what that bundle holds (R256, R265, R370, R383). -/
def Tile.ready (x : Tile) (g : Group) : Bool :=
  x.issues && !x.tried.contains g.num && !g.halted && !g.ppStop && !g.opened && g.waits.isEmpty && g.nextIssue ≤ x.clk

/-- The breakpoint at the next bundle of group g of tile t, unless it passes it once (R378). -/
def State.breakAt (s : State) (t : Nat) (g : Group) : Option Nat :=
  let x := s.tile t
  if g.brkPass then none else ((s.ctx x.ctx).brks.find? fun b => b.2 == (x.groupSeq g).addr).map Prod.fst

/-- BREAK (R378) for group g of tile t. -/
def execBreakHit (t g : Nat) (s : State) : Out :=
  let x := s.tile t
  match x.groups.find? fun q => q.num == g with
  | none => .next s
  | some q =>
    match x.ready q, s.breakAt t q with
    | true, some k => .next ((s.triedAt t g).raiseIn t ⟨.brk, x.clk, none, false, g, 0, 0, k, (x.groupSeq q).addr, 0, none, none, .none⟩)
    | _, _ => .next s

/-- Whether a frozen tile's cause goes to its user handler (R373). -/
def Tile.toHandler (x : Tile) : Bool :=
  x.stat == .frozen && x.traph != 0 && !x.inHandler && (match x.raised with
    | some r => causeClass r.cause == 2
    | none => false)

/-- Whether a frozen tile's restartable cause goes to the firmware (R376, R377). -/
def Tile.toFirmware (x : Tile) : Bool :=
  x.stat == .frozen && (x.traph == 0 || x.inHandler) && (match x.raised with
    | some r => causeClass r.cause == 2
    | none => false)

/-- The latest freeze point of a tile's groups (R370). -/
def Tile.lastPoint (x : Tile) : Nat := (x.groups.map (·.nextIssue)).foldl max 0

/-- ENTERING THE HANDLER (R373): one group without a partition, empty loop stacks, at TRAPH; what was interrupted is set
aside with its latches. -/
def Tile.enterHandler (x : Tile) : Tile :=
  let c := (x.groups.find? fun g => g.hasSlot 0).getD Group.lockstep
  { x with
    outer := some ⟨x.pseq, x.groups, x.seqs, x.lockstep, x.latches, x.frame⟩
    groups := [{ Group.lockstep with nextIssue := x.clk, pushSeq := c.pushSeq }]
    seqs := List.replicate 8 ⟨x.traph, false, []⟩
    mems := x.mems.map fun w => { w with grp := 255 }
    lockstep := true, latches := [], raised := none, inHandler := true, stat := .running }

/-- HANDLER_ENTRY (R373): no earlier than F + 16 of the latest freeze point; a tile whose partition is being pre-empted
is swapped as it is (R385). -/
def execHandlerEntry (t : Nat) (s : State) : Out :=
  let x := s.tile t
  .next
    (if x.toHandler && x.lastPoint + 16 ≤ x.clk && !(s.ctx x.ctx).preempting then s.updTile t Tile.enterHandler else s)

/-! ## The end of a kernel by a fault -/

/-- A tile whose gang is ended (R193, R334): its sequencers and engines stop, its copies and output streams go on (R129). -/
def Tile.kill (x : Tile) (drop : Option (BitVec 5)) : Tile :=
  let out (p : Nat × Stream) : Bool := (patOf p.2.desc).kind == 1 && (patOf p.2.desc).dir && drop != some (BitVec.ofNat 5 p.1)
  { x with
    stat := if x.stat = .idle then .idle else .ending
    raised := none, latches := [], pend := [], outer := none, inHandler := false, setcs := [], mems := [], preSig := none
    groups := [Group.lockstep], lockstep := true
    qD := ⟨[], false⟩, qV := ⟨[], false⟩, qM := ⟨[], false⟩, qK := ⟨[], false⟩, qA := ⟨[], false⟩
    qs := x.qs.filter out }

/-- The tiles that hold an instance of a task's gang. -/
def State.gangTiles (s : State) (c sn : Nat) : List Nat :=
  ((s.tiles.filter fun p => p.2.stat != .idle && p.2.ctx == c && p.2.task == sn)).map Prod.fst

/-- R193, R194: the gang of a task is ended; the tiles of one that is swapped out are dropped (R197). -/
def State.killGang (s : State) (c sn : Nat) (drop : Option (BitVec 5)) : State :=
  let s := (s.gangTiles c sn).foldl (fun s t => s.updTile t fun x => x.kill drop) s
  s.updCtx c fun x =>
    { x with
      gangs := x.gangs.map fun g =>
        if g.sn = sn then { g with ending := true, frozen := false, saved := [], tiles := if g.frozen then [] else g.tiles } else g }

/-- The 128 CSRs of a tile's frame (R372, R379). -/
def Tile.frameWords (x : Tile) : List Word := (List.range 128).map fun k => mget 0 x.frame (0x100 + k)

/-- R193, R377, R379: tile t's cause ends the kernel: its frame is saved at an offset of the firmware's choice, its task
faults with the tile's code, and its gang is ended. FVA is a probe's failing page (R195). The frame of an older task that
has faulted stands. -/
def State.endKernel (s : State) (t : Nat) (r : Raised) : State :=
  let x := s.tile t
  let off := max 1 (s.free 0).toNat
  let fva := if r.cause = .probe then r.fva else 0
  let older := (s.ctx x.ctx).entries.takeWhile fun e => e.sn != x.task
  let s := s.updCtx x.ctx fun c =>
    { c with frame := if older.any fun e => e.st == .fault && e.frameOff != 0 then c.frame else x.frameWords }
  (s.updEntry x.ctx x.task fun e => e.fail (causeCode r.cause) 0x1F fva off).killGang x.ctx x.task r.fq

/-- Whether a tile has frozen for a cause that is fatal to the kernel. -/
def Tile.fatalNow (x : Tile) : Bool := x.stat == .frozen && (match x.raised with
  | some r => causeClass r.cause == 1
  | none => false)

/-- R379: of the tiles of tile t's gang whose fatal causes have reached the hub together, the one of the lowest GRANK. -/
def State.firstFatal (s : State) (t : Nat) : Nat :=
  ((s.gangTiles (s.tile t).ctx (s.tile t).task).filter fun k => (s.tile k).fatalNow).foldl
    (fun m k => if (s.tile k).grank.toNat < (s.tile m).grank.toNat then k else m) t

/-- KERNEL_FATAL_FAULT (R193, R379). -/
def execKernelFatal (t : Nat) (s : State) : Out :=
  let k := s.firstFatal t
  match (s.tile k).raised with
  | none => .next s
  | some r => .next (if (s.tile t).fatalNow then s.endKernel k r else s)

/-! ## Firmware handling -/

/-- Resume after firmware handling (R377): as R375 with HRET 0. -/
def State.firmwareResume (s : State) (t : Nat) : State :=
  s.updTile t fun x =>
    let fg := match x.raised with
      | some r => r.grp
      | none => 0
    let b := x.clk + 1
    { (({ x with latches := [] } : Tile).redeliver b x.latches).resumeAt b 0 fg with goesAt := b }

/-- What the pages of a probed or fetched range are now: all resident and permitted, one that is far (the first), or a
failure that ends the kernel. -/
def State.rangeNow (s : State) (t : Nat) (va : VA) (len : Nat) (k : Acc) : Except (Option Nat) Unit :=
  let c := (s.tile t).ctx
  match (s.translateAll c none 4 k (s.tileExt t) (vaPieces va len)).2 with
  | .ok _ => .ok ()
  | .error (.far _, f) => .error (some f)
  | .error _ => .error none

/-- R377 for PROBE and FETCH of tile t, by what the cause met: a far page is promoted, and the tile resumes when it has come;
else the kernel ends. A page that has gone meanwhile is met anew by the instruction. -/
def State.firmwarePage (s : State) (t : Nat) (r : Raised) (va : VA) (len : Nat) (k : Acc) : State :=
  let c := (s.tile t).ctx
  if r.why ≠ .far then s.endKernel t r
  else
    match s.rangeNow t va len k with
    | .ok _ => s.firmwareResume t
    | .error (some f) => s.requestPromotion c f none
    | .error none => if (s.transitAt c va.toNat len).isSome then s.cancelDemotions c va.toNat len else s.firmwareResume t

/-- The range of the PROBE that group g of a tile waits at. -/
def Tile.probeOf (x : Tile) (g : Nat) : Option (VA × Nat × Bool) :=
  (x.group g).waits.findSome? fun w => match w.w with
    | .probe va len wr => some (va, len.toNat, wr)
    | _ => none

/-- FIRMWARE_TRAP_HANDLING (R377). -/
def execFirmwareTrap (t : Nat) (s : State) : Out :=
  let x := s.tile t
  match x.raised with
  | none => .next s
  | some r =>
    if !x.toFirmware || (s.ctx x.ctx).preempting then .next s
    else
      match r.cause with
      | .probe =>
        match x.probeOf r.grp with
        | some (va, len, wr) => .next (s.firmwarePage t r va len (if wr then .rw else .r))
        | none => .next (s.firmwareResume t)
      | .fetch => .next (s.firmwarePage t r (VA.ofNat r.fva) 64 .x)
      | .brk => .next (s.updTile t fun x => { x with stat := .held })
      | _ => .next (s.endKernel t r)

/-! ## The watchdog -/

/-- The limit of a tile's watchdog in cycles (R382). -/
def State.wdLimit (s : State) (t : Nat) : Nat :=
  (if (s.tile t).wdog = 0 then s.wdogDef else (s.tile t).wdog) * 1024

/-- Whether a tile's instance is placed and not frozen in the tile's present cycle (R370, R375, R382): the cycle in which it
freezes is one in which it still ran, and the first after a resume is that of its first bundles. -/
def Tile.unfrozen (x : Tile) : Bool :=
  x.stat != .idle && (if x.stat == .frozen || x.stat == .held then x.frozeAt == x.clk else x.goesAt ≤ x.clk)

/-- Whether the watchdog of tile t counts (R382): its instance is placed, not frozen, and not ended by a fault. -/
def State.wdCounts (s : State) (t : Nat) : Bool := (s.tile t).unfrozen && !s.killed t

/-- WATCHDOG (R382). -/
def execWatchdog (t : Nat) (s : State) : Out :=
  let x := s.tile t
  .next
    (if s.wdCounts t && s.wdLimit t ≤ x.wd then s.raiseIn t ⟨.watchdog, x.clk, none, false, 0, 0, 0, 0, 0, 0, none, none, .none⟩
     else s)

/-! ## Pre-emption reaches a tile -/

/-- The signal's arrival (R383): groups that wait or have halted stop; PREBND = 0 freezes at once (R384). -/
def Tile.signal (x : Tile) : Tile :=
  let x := { x with preSig := some x.clk }
  if x.prebnd = 0 then x.freeze else ((x.groups.map (·.num)).foldl Tile.stopWaiting x).preFreeze

/-- PREEMPT_SIGNAL (R383). -/
def execPreemptSignal (t : Nat) (s : State) : Out :=
  let x := s.tile t
  .next (if (s.ctx x.ctx).preempting && x.stat == .running && x.preSig.isNone then s.updTile t Tile.signal else s)

/-- Whether PREBND cycles have passed since the signal. -/
def Tile.boundMet (x : Tile) : Bool := x.stat == .running && (match x.preSig with
  | some c => c + x.prebnd ≤ x.clk
  | none => false)

/-- PREBND_EXPIRY (R384). -/
def execPrebndExpiry (t : Nat) (s : State) : Out :=
  .next (if (s.tile t).boundMet then s.updTile t Tile.freeze else s)

/-! ## The end of an instance (R129) -/

/-- Whether a queued or running copy holds the end of its tile's instance: it writes the tile's scratchpad or
accumulators, or has not finished reading them. -/
def Copy.holdsEnd (t : Nat) (c : Copy) : Bool :=
  match c.cmd.i with
  | .cpyss _ _ _ _ _ | .cpyr _ _ _ _ =>
    let a := copyArgs c.cmd.stg true
    let own (o : Nat) : Bool := (opsParts o).tile == t && (opsParts o).win < 2
    own a.epb || (own a.epa && c.phase < 2)
  | .mcast _ _ _ _ _ _ _ m => m.getLsbD (t % 4)
  | _ => true

/-- Whether an instance that has reached its EXIT is at its end: its commands are done, no copy holds it, every output
stream has drained. -/
def Tile.atEnd (x : Tile) (t : Nat) : Bool :=
  x.stat == .ending && x.mems.isEmpty && [x.qD, x.qV, x.qM, x.qK, x.qA].all (fun q => q.q.isEmpty) && !(x.copyQ.any (Copy.holdsEnd t)) &&
    !(x.qs.any fun p => p.2.canDrain)

/-- A tile released at the end of its instance. Its registers and memories stand (R409, R411), but a read that reaches it
from now on answers undefined values (R129: State.readFrom, State.opsWord), and they are undefined to the next instance of the
context (R119). -/
def Tile.release (x : Tile) : Tile :=
  { x with
    stat := .idle, last := some x.ctx, qs := [], pend := [], latches := [], setcs := [], raised := none, outer := none
    inHandler := false, preSig := none, l1 := [], icache := [], groups := [Group.lockstep], lockstep := true }

/-- Whether every instance of a task's gang has ended and every copy of its tiles has completed (R192, R197). -/
def State.gangEnded (s : State) (c sn : Nat) : Bool :=
  !(s.tiles.any fun p => p.2.ctx == c && ((p.2.stat != .idle && p.2.task == sn) || p.2.copyQ.any fun k => k.task == sn))

/-- R17: the ranges that a context owns return when it ends. -/
def State.returnRanges (s : State) (c : Nat) : State :=
  { s with ranges := s.ranges.map fun r => if r.ctx = c ∧ r.own = .device then { r with own := .none } else r }

/-- R179: the queues of a context that leaves residency leave their slots. -/
def State.unmapQueues (s : State) (c : Nat) : State :=
  (s.queues.filter fun p => p.2.mapped && p.2.regFor c).foldl (fun s p => s.queueUnmap p.1) s

/-- Whether a tile holds an instance of a context, or copies of one. -/
def State.inUse (s : State) (c : Nat) : Bool := s.tiles.any fun p => p.2.ctx == c && (p.2.stat != .idle || !p.2.copyQ.isEmpty)

/-- R199: a context that is made non-resident: its state stands in its save area, its clusters are free. -/
def State.setAside (s : State) (c : Nat) (st : CtxSt) : State :=
  (s.unmapQueues c).updCtx c fun x => { x with st := st, resident := false, part := [] }

/-- R17, R194, R199: the ranges of a DEAD context return when none of its tiles is in use; one that is resident leaves residency
then: its partition is free, its translations go. -/
def State.leaveDead (s : State) (c : Nat) : State :=
  let x := s.ctx c
  if x.st = .dead ∧ !x.resident ∧ !s.inUse c then s.returnRanges c
  else if x.st = .dead ∧ x.resident ∧ !s.inUse c then
    let s := (s.unmapQueues c).returnRanges c
    let s := s.updCtx c fun x => { x with resident := false, part := [], preempting := false, swapped := false, savedCl := [] }
    { s with invQ := s.invQ ++ [⟨c, none⟩] }
  else s

/-- TILE_INSTANCE_END (R129): the lease and the tile are released. -/
def execTileEnd (t : Nat) (s : State) : Out :=
  let x := s.tile t
  if !x.atEnd t then .next s
  else
    let s := s.updCluster (t / 4) fun c => c.release (t % 4)
    .next (((s.tileLeaves t).updTile t fun x => x.release).leaveDead x.ctx)

/-! ## Retention, L1, scrubs -/

/-- RETENTION_ENTRY_COMPLETE (R111) of bank b. -/
def execRetentionEntryComplete (t b : Nat) (s : State) : Out :=
  let x := s.tile t
  match mget .active x.ret b with
  | .entering till => .next (if till ≤ x.clk then s.updTile t fun x => { x with ret := mput x.ret b .retained } else s)
  | _ => .next s

/-- RETENTION_EXIT_COMPLETE (R112) of bank b. -/
def execRetentionExitComplete (t b : Nat) (s : State) : Out :=
  let x := s.tile t
  match mget .active x.ret b with
  | .leaving till => .next (if till ≤ x.clk then s.updTile t fun x => { x with ret := mdel x.ret b, spret := x.spret &&& ~~~((1 : BitVec 32) <<< b) } else s)
  | _ => .next s

/-- L1_LINE_EXPIRY (R136): lines filled 4,096 cycles ago are discarded. -/
def execL1LineExpiry (t : Nat) (s : State) : Out :=
  .next (s.updTile t fun x => { x with l1 := x.l1.filter fun l => x.clk < l.fill + 4096 })

/-- Where a memory error is met (R105): a 64-byte granule of the stacks or the LPM, by PA; an 8-byte granule of a tile, by OPS
address; of an L2, by PA; of a shadow store, by die, slot and offset; a granule of CXM by host address; a unit of FLT. -/
inductive ErrSite where
  | mem (pa : Nat)
  | tile (a : Nat)
  | l2 (pa : Nat)
  | shadow (d k o : Nat)
  | cxm (a : Nat)
  | flt (u : Nat)
  deriving DecidableEq, Repr

/-- The site that a number names (notes/assumptions/75.md): below 2^44 a granule of the stacks or the LPM. -/
def errSite (g : Nat) : ErrSite :=
  let h := (g % 2 ^ 64 - 2 ^ 44) / 2 ^ 42
  let a := 8 * ((g % 2 ^ 64 - 2 ^ 44) % 2 ^ 42)
  if g % 2 ^ 64 < 2 ^ 44 then .mem (64 * (g % 2 ^ 64))
  else if h = 0 then .tile a
  else if h = 1 then .l2 a
  else if h = 2 then .shadow (a / 2 ^ 25) (a % 2 ^ 25 / 0x18_0000) (a % 2 ^ 25 % 0x18_0000)
  else if h = 3 then .cxm (a / 64 * 64)
  else .flt (a / 8)

/-- What meets an error (notes/assumptions/75.md): a patrol scrub; the exit from retention of an accumulator bank, a shadow-store
bank or an L2 way (R111, R112); a read of a context. -/
inductive ErrBy where
  | scrub
  | exit
  | read (c : Nat)
  deriving DecidableEq, Repr

/-- What meets an error, by the upper part of its number. -/
def errBy (g : Nat) : ErrBy :=
  match g / 2 ^ 64 with
  | 0 => .scrub
  | 1 => .exit
  | c + 2 => .read (c % 0x10000)

/-- The KIND of an uncorrectable error (R108, R112). -/
def ErrBy.kind (b : ErrBy) : Nat := if b = .exit then 5 else 2

/-- The ASID of a record (R108): that of the context whose read met the error, else `own`. -/
def ErrBy.asid (b : ErrBy) (own : Nat) : Nat := match b with
  | .read c => c
  | _ => own

/-- The context that an error in a tile concerns (R108). -/
def Tile.errCtx (x : Tile) : Nat := if x.stat = .idle then 0xFFFF else x.ctx

/-- An error met in a memory (R106, R108): a corrected one is recorded; an uncorrectable one also poisons its granule. -/
def State.memError (s : State) (err : ScrubErr) (bad unit asid addr : Nat) (l : Loc) (a n : Nat) : State :=
  match err with
  | .clean => s
  | .corrected => s.logErr 1 unit asid addr
  | .uncorrectable => (s.poison l a n).logErr bad unit asid addr

/-- An error in a saved tile's slot of a shadow store (R106, R112, R118). The spec gives such a record no form of ADDR
(notes/assumptions/75.md). -/
def State.shadowError (s : State) (err : ScrubErr) (bad d k o : Nat) : State :=
  match (s.die d).shadow, (s.die d).slots[k]? with
  | some c, some z =>
    let addr := d * 2 ^ 25 + k * 0x18_0000 + o
    let mark (x : Tile) : Tile :=
      if x.grank.toNat ≠ z.grank then x
      else if o < 2 ^ 20 then { x with spadBad := badAdd x.spadBad o 8 }
      else if o < 0x14_0000 then { x with accBad := badAdd x.accBad (o - 2 ^ 20) 8 } else x
    match err with
    | .clean => s
    | .corrected => s.logErr 1 5 c addr
    | .uncorrectable =>
      (s.updCtx c fun x =>
        { x with gangs := x.gangs.map fun g => if g.sn = z.sn then { g with saved := g.saved.map mark } else g }).logErr bad 5 c addr
  | _, _ => s

/-- PATROL_SCRUB (R105, R106, R108, R110 to R112): an error that a scrub, a read or an exit from retention meets; in a scratchpad
bank that leaves retention, KIND 5. -/
def execPatrolScrub (g : Nat) (err : ScrubErr) (s : State) : Out :=
  let by' := errBy g
  .next
    (match errSite g with
     | .mem pa => if paExists s.form pa 64 then s.memError err 2 (s.unitOf .phys pa) (by'.asid 0xFFFF) pa .phys pa 64 else s
     | .l2 pa => if pa < lpmBase ∧ paExists s.form pa 8 = true then s.memError err by'.kind 2 (by'.asid 0xFFFF) pa .phys pa 8 else s
     | .tile a =>
       let p := opsParts a
       let x := s.tile p.tile
       if s.form.dies ≤ p.die then s
       else if p.win = 0 ∧ p.off < 2 ^ 20 then
         match mget .active x.ret ((banksOf p.off 1).headD 0) with
         | .leaving _ => s.memError err 5 3 x.errCtx a (.spad p.tile) p.off 8
         | .retained => s
         | _ => s.memError err 2 3 (by'.asid x.errCtx) a (.spad p.tile) p.off 8
       else if p.win = 1 ∧ p.off < 2 ^ 18 then s.memError err by'.kind 4 (by'.asid x.errCtx) a (.acc p.tile) p.off 8
       else s
     | .shadow d k o => s.shadowError err by'.kind d k o
     | .cxm a =>
       if s.cxmBase ≤ a ∧ a < s.cxmBase + s.cxmLen then
         s.memError err 2 6 (by'.asid 0xFFFF) (s.locAddr .host a) .host a 64 else s
     | .flt u => if u < s.farUnits Far.flt.tier then s.memError err 2 7 (by'.asid 0xFFFF) u .flt (u * 4096) 4096 else s)

end Sys2Proof.Machine
end

