-- ==== Sys2Proof/Machine/Window.lean ====
section
/-! DEFINITION. The task window: fetch of the task stream (R50, R182), the stalls of decode (R183), task scalars (R185),
physical buffers and renaming (R186, R187), the dependences of R189 and R228, the operands' length rules (R223), and what
decode makes of a task-stream instruction. -/
namespace Sys2Proof.Machine

/-! ## The context of a step -/

/-- The context that a step of the hub acts on. -/
def State.cx (s : State) : Context := s.ctx s.cur.sub.ctx

/-- The state with that context changed. -/
def State.updCx (s : State) (f : Context → Context) : State := s.updCtx s.cur.sub.ctx f

/-! ## Fetch -/

/-- What a fetch at the decode position meets (R50): the words of the TLI, a far page, a fault of the task with its code
and FVA, or the end of the context. -/
inductive TliFetch where
  | words (ws : List (BitVec 32))
  | far (va : Nat)
  | fault (code fva : Nat)
  | fatal (c : Cause) (fva : Nat)
  deriving DecidableEq, Repr

/-- n bytes of the task stream at an address of context c. -/
def State.streamRead (s : State) (c : Nat) (a : Word) (n : Nat) : Except TliFetch (List Byte) :=
  let v : VA := ⟨(s.ctx c).space, a⟩
  match (s.vaRead c none 4 v n .x).2 with
  | .ok b => if b.any Prod.snd then .error (.fault 0x85 0) else .ok (b.map Prod.fst)
  | .error (o, va) =>
    .error (match o with
      | .far _ => .far va
      | .notOwned => .fatal .shared va
      | .malformed => .fatal .access va
      | _ => .fault 0x81 v.toNat)

/-- The TLI at the decode position of context c: unit 0, and the units that its LEN names (R222, R223). -/
def State.fetchTli (s : State) (c : Nat) : TliFetch :=
  let a := (s.ctx c).dv.pos
  match s.streamRead c a 16 with
  | .error e => e
  | .ok b =>
    let n := tliLen (BitVec.ofNat 32 (leNat (b.take 4)))
    if n ≤ 1 || 5 < n then .words (leWords b)
    else
      match s.streamRead c a (16 * n) with
      | .error e => e
      | .ok b => .words (leWords b)

/-- The read of the TLI at the decode position of context c (R42, R83): what it leaves in the hub's TLB and at the channels. A
walk that meets a poisoned node is left to the end of the context that follows (R41). -/
def State.tliRead (s : State) (c : Nat) : State :=
  let a := (s.ctx c).dv.pos
  let n := match s.streamRead c a 16 with
    | .ok b => tliLen (BitVec.ofNat 32 (leNat (b.take 4)))
    | .error _ => 1
  match s.vaRead c none 4 ⟨(s.ctx c).space, a⟩ (if n ≤ 1 || 5 < n then 16 else 16 * n) .x with
  | (_, .error (.malformed, _)) => s
  | (s, _) => s

/-! ## Task scalars -/

/-- y[n] in the decode view. -/
def Context.y (x : Context) (n : BitVec 6) : Word := mget 0 x.dv.ys n.toNat

/-- The opcode of a TLI. -/
def tliOpc (i : Instr) : Nat := match i.tli? with
  | some (o, _, _) => o
  | none => 0x3F

/-- A TLI's words. -/
def tliOf (i : Instr) : Tli := match i.tli? with
  | some (_, _, t) => t
  | none => ⟨0, 0, 0, 0, 0, 0, []⟩

/-- The scalars that a descriptor reads (R225). -/
def opScalars (o : BitVec 32) : List (BitVec 6) :=
  if opForm o = some .scal then [BitVec.ofNat 6 (opArg o), BitVec.ofNat 6 (opArg o / 64)] else []

/-- The scalars that the fields YA and YB of a TLI read (R226 and the rules that it names). -/
def tliReads (opc : Nat) (t : Tli) : List (BitVec 6) :=
  let f := t.w3.toNat % 4
  let yq : List (BitVec 6) := if nbit t.w3.toNat 2 then [t.ya] else []
  match opc with
  | 0x04 | 0x0D | 0x24 | 0x26 => [t.ya]
  | 0x09 | 0x0A | 0x0B => if nbit t.w3.toNat 0 then [t.ya] else [t.ya, t.yb]
  | 0x14 => ((List.range 15).filter fun n => nbit t.w3.toNat (16 + n)).map fun n => t.ya + BitVec.ofNat 6 n
  | 0x16 => yq
  | 0x1C | 0x1D => if f = 1 then [t.ya] else if f = 2 then [t.ya, t.yb] else []
  | 0x1E | 0x1F => if nbit t.w3.toNat 0 then [t.ya] else []
  | 0x20 => yq ++ (if f = 2 then [t.yb] else [])
  | 0x21 => yq ++ (if f = 0 then [] else [t.yb])
  | 0x22 => if f = 2 then [] else [t.ya, t.yb]
  | _ => []

/-- Whether the task of a TLI writes y[YD] when it completes (R185). -/
def tliWritesY (opc : Nat) (t : Tli) : Bool :=
  match opc with
  | 0x0C | 0x1D | 0x24 | 0x25 | 0x2C | 0x2D => true
  | 0x20 => t.w3.toNat % 4 != 0
  | 0x22 => t.w3.toNat % 4 == 0
  | _ => false

/-- The scalars taken at decode: those that YA and YB name; for a TLAUNCH, those that its INIT words take (R235). -/
def Context.taken (x : Context) (opc : Nat) (t : Tli) : List Word :=
  if opc = 0x14 then (List.range 15).map fun n => if nbit t.w3.toNat (16 + n) then x.y (t.ya + BitVec.ofNat 6 n) else 0
  else [x.y t.ya, x.y t.yb]

/-- Whether a scalar's value is pending (R185). -/
def Context.pending (x : Context) (n : BitVec 6) : Bool := x.yPend.any fun p => p.1 == n.toNat

/-! ## Buffers -/

/-- The bytes of a size class (R186). -/
def clsBytes (k : Nat) : Nat := 4096 * 2 ^ k

/-- The size class of a length (R187). -/
def classOf (n : Nat) : Nat := ((List.range 24).find? fun k => n ≤ clsBytes k).getD 23

/-- The VA of a physical buffer (R186). -/
def Context.bufVA (x : Context) (b : Buf) : VA := VA.ofNat ((nth (⟨0, 0⟩, 0) x.arenas b.cls).1.toNat + b.idx * clsBytes b.cls)

/-- The VA of a range's first byte. -/
def Context.rangeVA (x : Context) (r : Range) : VA := VA.plus (x.bufVA r.buf) r.off

/-- The use record of a buffer. -/
def Context.useOf (x : Context) (b : Buf) : BufUse := (x.uses.find? fun u => u.buf == b).getD ⟨b, 0, false⟩

/-- A context with a buffer's use record changed; one that says nothing is dropped. -/
def Context.updUse (x : Context) (b : Buf) (f : BufUse → BufUse) : Context :=
  let u := f (x.useOf b)
  let r := x.uses.filter fun u => u.buf != b
  { x with uses := if u.refs = 0 ∧ !u.superseded then r else r ++ [u] }

/-- The free list of a class, top first. -/
def Context.freeList (x : Context) (k : Nat) : List Nat := mget [] x.free k

/-- A buffer pushed on its free list (R187). -/
def Context.pushFree (x : Context) (b : Buf) : Context := { x with free := mput x.free b.cls (b.idx :: x.freeList b.cls) }

/-- Whether a map names a buffer. -/
def mapNames (m : SMap Binding) (b : Buf) : Bool := m.any fun p => p.2.buf == b

/-- try_free (R192). -/
def Context.tryFree (x : Context) (b : Buf) : Context :=
  let u := x.useOf b
  if u.superseded && u.refs == 0 && !mapNames x.dv.map b && !mapNames x.rv.map b then
    (x.pushFree b).updUse b fun u => { u with superseded := false }
  else x

/-- R192: a buffer whose name passes to another is superseded, and free when it has no users. -/
def Context.supersede (x : Context) (b : Buf) : Context := (x.updUse b fun u => { u with superseded := true }).tryFree b

/-- A range's use of its buffer ends. -/
def Context.endUse (x : Context) (r : Range) : Context := (x.updUse r.buf fun u => { u with refs := u.refs - 1 }).tryFree r.buf

/-! ## Operands -/

/-- A descriptor's offset and length (R225); none: an UNBOUND name in form WHOLE. -/
def Context.opRange (x : Context) (o : BitVec 32) : Option (Nat × Nat) :=
  let a := opArg o
  match opForm o with
  | some .whole => (mget? x.dv.map (opL o)).map fun b => (0, b.len)
  | some .cls => some (0, clsBytes a)
  | some .pages => some (a % 256 * 4096, (a / 256 + 1) * 4096)
  | some .small => some (a % 4096, a / 4096 + 1)
  | some .scal => some ((x.y (BitVec.ofNat 6 a)).toNat, (x.y (BitVec.ofNat 6 (a / 64))).toNat)
  | none => none

/-- The name of a descriptor. -/
def opName (o : BitVec 32) : Nat := opL o

/-- Whether two descriptors of one TLI may not name one buffer (R187). -/
def opClash (o p : BitVec 32) : Bool :=
  let w (q : BitVec 32) : Bool := opMode q != some .IN
  opName o == opName p && w o && w p && (opMode o == some .OUT || opMode p == some .OUT)

/-- Pass 1 of R187 for one descriptor, with those before it: its range, an OUT operand's buffer still to be chosen. -/
def Context.pass1 (x : Context) (before : List (BitVec 32)) (o : BitVec 32) : Option Range :=
  match opMode o, x.opRange o with
  | some m, some (off, len) =>
    if before.any fun p => opClash p o then none
    else if m = .OUT then
      if off ≠ 0 ∨ len = 0 ∨ clsBytes 23 < len then none else some ⟨m, opName o, ⟨classOf len, 0⟩, 0, len, true, none⟩
    else
      match mget? x.dv.map (opName o) with
      | none => none
      | some b => if b.len < off + len ∨ len = 0 then none else some ⟨m, opName o, b.buf, off, len, m != .IN, none⟩
  | _, _ => none

/-- Pass 1 over the descriptors, or the index of the first that fails. -/
def Context.pass1All (x : Context) : List (BitVec 32) → List (BitVec 32) → Except Nat (List Range)
  | _, [] => .ok []
  | before, o :: os =>
    match x.pass1 before o with
    | none => .error before.length
    | some r =>
      match x.pass1All (before ++ [o]) os with
      | .ok rs => .ok (r :: rs)
      | .error k => .error k

/-- A power of two among the first four. -/
def smallPow (n : Nat) : Bool := n == 1 || n == 2 || n == 4 || n == 8

/-- Whether two ranges share a byte of one buffer. -/
def Range.meets (a b : Range) : Bool := a.buf == b.buf && a.off < b.off + b.len && b.off < a.off + a.len

/-- The operand whose length breaks a rule of its instruction (R223, R231, R236, R247, R248, R250, R251). -/
def lengthFault (opc : Nat) (t : Tli) (rs : List Range) : Option Nat :=
  match opc, rs with
  | 0x0C, [r] | 0x0D, [r] => if smallPow r.len then none else some 0
  | 0x15, [a, b] => if a.len ≠ b.len ∨ (b.mode ≠ .OUT ∧ a.meets b = true) then some 1 else none
  | 0x16, [r] => if r.len % 2 ^ (t.w3.toNat % 4) = 0 then none else some 0
  | 0x28, [r] => if r.len % 8 = 0 then none else some 0
  | 0x29, [r] | 0x2A, [r] => if r.len % 4 = 0 then none else some 0
  | 0x2C, [a, b] =>
    if a.len % 8 ≠ 0 ∨ 65536 < a.len / 8 then some 0 else if b.len ≠ a.len / 2 then some 1 else none
  | 0x2D, [r] => if r.len % 16 = 0 then none else some 0
  | _, _ => none

/-- The class k whose free list does not hold the buffers that a TLI's OUT operands need (R187). -/
def Context.lacks (x : Context) (rs : List Range) : Bool :=
  (List.range 24).any fun k =>
    (x.freeList k).length < (rs.filter fun r => r.mode == .OUT && r.buf.cls == k).length

/-- Pass 2 of R187: each OUT operand takes the buffer on top of its class's list, and its name is bound to it. -/
def Context.rename (x : Context) : List Range → Context × List Range
  | [] => (x, [])
  | r :: rs =>
    if r.mode = .OUT then
      match x.freeList r.buf.cls with
      | [] => x.rename rs
      | p :: l =>
        let b : Buf := ⟨r.buf.cls, p⟩
        let r := { r with buf := b, prev := mget? x.dv.map r.name }
        let x := { x with free := mput x.free b.cls l, dv := { x.dv with map := mput x.dv.map r.name ⟨b, r.len⟩ } }
        let q := x.rename rs
        (q.1, r :: q.2)
    else
      let q := x.rename rs
      (q.1, r :: q.2)

/-! ## Dependences -/

/-- The hub-held structures that a TLI reads and those that it writes (R228): MSTATE and the ready list are taken with the sequence
table (DESIGN CHOICE, notes/assumptions/97.md). -/
def tliStructs (opc : Nat) (t : Tli) (sc : List Word) : List HubStruct × List HubStruct :=
  let qid := if nbit t.w3.toNat 2 then (nth 0 sc 0).toNat else t.w1.toNat
  match opc with
  | 0x1C | 0x1D => if t.w3.toNat % 4 = 1 then ([.seqs], []) else ([], [])
  | 0x20 | 0x21 => ([], [.queue qid])
  | 0x22 => ([], if t.w3.toNat % 4 = 0 then [] else [.unit (bits t.w2.toNat 16 10)])
  | 0x24 | 0x25 => ([], [.seqs])
  | 0x26 | 0x28 => ([], [.seqs, .pool])
  | 0x29 | 0x2A => ([], [.pool])
  | 0x2C => ([.prefixes], [])
  | 0x2D => ([], [.prefixes, .pool])
  | _ => ([], [])

/-- The structures of an entry's TLI. -/
def Entry.structs (e : Entry) : List HubStruct × List HubStruct := tliStructs (tliOpc e.tli) (tliOf e.tli) e.sc

/-- Whether an entry depends on an older one (R189, R228). -/
def Entry.dependsOn (e f : Entry) : Bool :=
  (e.ranges.any fun r => f.ranges.any fun q => r.meets q && (r.writes || q.writes)) ||
    (e.structs.1 ++ e.structs.2).any fun h => f.structs.2.contains h

/-! ## Decode -/

/-- Window entries that a context may not hold (R157, R181): 512 of its own, or beyond its reserve of 8 when the pool
holds no more than the unused reserves of the others. -/
def State.windowFull (s : State) (c : Nat) : Bool :=
  let own := (s.ctx c).entries.length
  let rs := s.ctxs.filter fun p => p.2.resident
  let used := (rs.map fun p => p.2.entries.length).sum
  let kept := ((rs.filter fun p => p.1 != c).map fun p => 8 - p.2.entries.length).sum
  512 ≤ own || (8 ≤ own && 4096 ≤ used + kept)

/-- What decode of a TLI comes to: it decodes with its ranges, it stalls (R183: 0 window-full, 1 rename, 2 branch, 3
fault), or it faults with a code and OPND. -/
inductive Gate where
  | go (rs : List Range)
  | stall (k : Nat)
  | fail (code opnd : Nat)
  deriving DecidableEq, Repr

/-- Whether a context decodes at all (R199, R233). -/
def Context.decodes (x : Context) : Bool := x.st == .run && x.resident && !x.decStop && !x.destroying

/-- R183, R187, R223: the gate of decode for a TLI of context c. A FREELIST fault names no operand (DEDUCED,
notes/assumptions/93.md). The descriptors' MODE and FORM are tested before their ranges' lengths (DESIGN CHOICE,
notes/assumptions/109.md). -/
def State.gate (s : State) (c : Nat) (i : Instr) : Gate :=
  let x := s.ctx c
  let t := tliOf i
  let opc := tliOpc i
  if x.entries.any fun e => e.st == .fault then .stall 3
  else if s.windowFull c then .stall 0
  else if (tliReads opc t ++ t.opnds.flatMap opScalars).any x.pending then .stall 2
  else
    match x.pass1All [] t.opnds with
    | .error k => .fail 0x82 k
    | .ok rs =>
      match lengthFault opc t rs with
      | some k => .fail 0x82 k
      | none =>
        if x.lacks rs then (if x.entries.isEmpty then .fail 0x83 0x1F else .stall 1)
        else .go rs

/-- A new entry of a context at its decode position. -/
def Context.newEntry (x : Context) (i : Instr) : Entry :=
  { sn := x.nextSn, tli := i, addr := x.dv.pos, st := .wait, ranges := [], sc := [], deps := [], probed := 0, started := false
    res := [], fault := none, frameOff := 0, lrec := [], placeAt := 0, placed := false, blocks := false, inval := false
    dealloc := none, asked := [] }

/-- A context with an entry appended. -/
def Context.addEntry (x : Context) (e : Entry) : Context :=
  { x with entries := x.entries ++ [e], nextSn := (x.nextSn + 1) % 2 ^ 32 }

/-- R193, R194: the TLI at the decode position faults at decode. -/
def Context.decodeFault (x : Context) (i : Instr) (code opnd fva : Nat) : Context :=
  x.addEntry ((x.newEntry i).fail code opnd fva 0)

/-- The scalar of a TLI becomes pending, in place of older writers that have not completed (R185). -/
def Context.markY (x : Context) (opc : Nat) (t : Tli) (sn : Nat) : Context :=
  if tliWritesY opc t then { x with yPend := x.yPend.filter (fun p => p.1 != t.yd.toNat) ++ [(t.yd.toNat, sn)] } else x

/-- A scalar written at decode (R185). -/
def Context.setY (x : Context) (n : BitVec 6) (v : Word) : Context :=
  { x with yPend := x.yPend.filter fun p => p.1 != n.toNat, dv := { x.dv with ys := mput x.dv.ys n.toNat v } }

/-- Decode of a TLI with its ranges: renaming, the entry with its dependences and uses, the position past the TLI. -/
def Context.decodeGo (x : Context) (i : Instr) (rs : List Range) (res : List (Nat × Word)) (free : Option Nat) : Context :=
  let t := tliOf i
  let sc := x.taken (tliOpc i) t
  let e := { x.newEntry i with sc := sc, res := res, dealloc := free }
  let q := x.rename rs
  let e := { e with ranges := q.2 }
  let e := { e with deps := (q.1.entries.filter e.dependsOn).map (·.sn) }
  let x := q.2.foldl (fun x r => x.updUse r.buf fun u => { u with refs := u.refs + 1 }) q.1
  let x := x.addEntry e
  let x := { x with dv := { x.dv with pos := x.dv.pos + w64 (16 * tliUnits t.opnds.length) } }
  x.markY (tliOpc i) t e.sn

/-- The OUT operands' buffers, whose contents are undefined until a task writes them (R187). -/
def State.freshBufs (s : State) (c sn : Nat) : State :=
  match (s.ctx c).entry sn with
  | none => s
  | some e =>
    (e.ranges.filter fun r => r.mode == .OUT).foldl
      (fun s r => s.undefineVA c ((s.ctx c).bufVA r.buf).toNat (clsBytes r.buf.cls)) s

/-- The decode slot that a context has used (R198). -/
def Context.useDec (x : Context) : Context := { x with defDec := x.defDec - 1 }

/-- The effect at decode of a TLI of class D (R227): where the position goes if not past the TLI, the call stack, whether
decode stops, and the scalars written. -/
structure DEff where
  pos : Option Word
  stack : List Word
  halt : Bool
  res : List (Nat × Word)
  deriving DecidableEq, Repr

/-- A context with the decode-time effect of a TLI; `name`: the name that a TFREE unbinds (R234). -/
def Context.dEffect (z : Context) (d : DEff) (name : Option Nat) : Context :=
  let z := { z with decStop := z.decStop || d.halt }
  let z := d.res.foldl (fun z p => z.setY (BitVec.ofNat 6 p.1) p.2) z
  let m := match name with
    | some n => mdel z.dv.map n
    | none => z.dv.map
  { z with dv := { z.dv with pos := d.pos.getD z.dv.pos, stack := d.stack, map := m } }

/-- THE DECODE OF A TLI of the step's context: a stall changes nothing (R183); a fault enters FAULT (R194); else the entry
is made, and the effect of a TLI of class D follows: `f` gives it, or none where the TLI is ILLEGAL. `tf`: the TLI unbinds
its operand's name and forms no range (R234). -/
def State.decodeWith (s : State) (i : Instr) (tf : Bool) (f : Context → Option DEff) : State :=
  let c := s.cur.sub.ctx
  let x := s.ctx c
  if !x.decodes then s
  else
    match s.gate c i with
    | .stall _ => s
    | .fail code opnd => s.setCtx c (x.decodeFault i code opnd 0).useDec
    | .go rs =>
      match f x with
      | none => s.setCtx c (x.decodeFault i 0x82 0x1F 0).useDec
      | some d =>
        let name := if tf then (rs.head?).map (·.name) else none
        let z := (x.decodeGo i (if tf then [] else rs) d.res name).dEffect d name
        (s.setCtx c z.useDec).freshBufs c x.nextSn

/-- Decode of a TLI of class H, E or F (R227). -/
def State.decodeTask (s : State) (i : Instr) : State := s.decodeWith i false fun x => some ⟨none, x.dv.stack, false, []⟩

/-- Decode of a TLI of class D that writes scalars and no more (R230, R233). -/
def State.decodeRes (s : State) (i : Instr) (f : Context → List (Nat × Word)) : State :=
  s.decodeWith i false fun x => some ⟨none, x.dv.stack, false, f x⟩

/-- UNASSIGNED_TLI_OPCODE (R50, R182, R223): what stands at the decode position is no instruction, or cannot be read. -/
def execUnassignedTli (s : State) : Out :=
  let c := s.cur.sub.ctx
  let x := s.ctx c
  let stub : Instr := .tnop .decode ⟨0, 0, 0, 0, 0, 0, []⟩
  let at' (code opnd fva : Nat) : State := s.setCtx c (x.decodeFault stub code opnd fva).useDec
  if !x.decodes || x.entries.any (fun e => e.st == .fault) || s.windowFull c then .next s
  else
    match s.fetchTli c with
    | .words ws =>
      match decodeTli ws with
      | .unassigned => .next (at' 0x82 0x1F 0)
      | .illegal k => .next (at' 0x82 k 0)
      | .instr _ => .next s
    | .far va => .next (s.requestPromotion c va none)
    | .fault code fva =>
      let s' := at' code 0x1F fva
      let n := match s.streamRead c x.dv.pos 16 with
        | .ok b => 16 * tliLen (BitVec.ofNat 32 (leNat (b.take 4)))
        | .error _ => 16
      .next (if code = 0x85 then s'.hubConsumed c ⟨x.space, x.dv.pos⟩ n else s')
    | .fatal cause fva =>
      -- a walk that met a poisoned node keeps its record (R41)
      let v : VA := ⟨x.space, x.dv.pos⟩
      let n := match s.streamRead c x.dv.pos 16 with
        | .ok b => 16 * tliLen (BitVec.ofNat 32 (leNat (b.take 4)))
        | .error _ => 16
      .next ((s.vaRead c none 4 v n .x).1.fatalCtx c cause fva (some (x.dv.pos.toNat, x.nextSn, 0x1F)))

/-! ## A task's work -/

/-- The entry of the step: that of task `sub.n`, running its TLI, its work still to be made. -/
def State.running (s : State) : Option Entry :=
  (s.cx.entry s.cur.sub.n).filter fun e => e.st == .run && !e.started

/-- The state with the step's entry changed. -/
def State.updTask (s : State) (f : Entry → Entry) : State := s.updEntry s.cur.sub.ctx s.cur.sub.n f

/-- The work of the step's task is made, with its result scalars. -/
def State.taskMade (s : State) (res : List (Nat × Word)) : State := s.updTask fun e => { e with started := true, res := res }

/-- The step's task faults (R193). -/
def State.taskFail (s : State) (code fva : Nat) : State := s.failTask s.cur.sub.ctx s.cur.sub.n code 0x1F fva

/-- The end of the context by an access of the step's task (R194, R195). -/
def State.taskFatal (s : State) (c : Cause) (fva : Nat) : State :=
  s.fatalCtx s.cur.sub.ctx c fva (s.cx.named s.cur.sub.n)

/-- A failing ordinary access of the step's task (R50). -/
def State.taskTr (s : State) (o : Tr) (va : Nat) : State := s.taskFatal ((o.fatal true).getD .access) va

/-- The work of a task of the step, from its entry: nothing where the task does not run. -/
def State.work (s : State) (f : State → Entry → State) : Out := match s.running with
  | none => .next s
  | some e => .next (f s e)

/-- The n bytes at a VA read by the step's task, poison apart (R109). -/
def State.taskRead (s : State) (v : VA) (n : Nat) (k : State → List (Byte × Bool) → State) : State :=
  match s.vaRead s.cur.sub.ctx none 4 v n .r with
  | (s, .ok b) => k s b
  | (s, .error (o, va)) => s.taskTr o va

/-- Bytes read by the step's task as data of its own: poison faults it (R109, R193), and the record names no operand (DESIGN
CHOICE, notes/assumptions/93.md). -/
def State.taskBytes (s : State) (v : VA) (n : Nat) (k : State → List Byte → State) : State :=
  s.taskRead v n fun s b =>
    if b.any Prod.snd then (s.hubConsumed s.cur.sub.ctx v n).taskFail 0x85 0 else k s (b.map Prod.fst)

/-- The number that stands for the hub among the tiles of stalled writes. -/
def hubWriter : Nat := 512

/-- R56: a write of n bytes of the step's task that meets a read-duplicated page, or one under collapse, attaches to the page's
collapse, and the task's work is tried again; else it goes on. -/
def State.taskReady (s : State) (v : VA) (n : Nat) (ext : Bool) (k : State → State) : State :=
  let c := s.cur.sub.ctx
  match (s.translateAll c none 4 .w ext (vaPieces v n)).2 with
  | .error _ => k s
  | .ok gs =>
    match s.collapsing c gs with
    | some g => s.stallWrite c g.va g.e ⟨hubWriter, 0, v.toNat, []⟩
    | none => k s

/-- A write of bytes by virtual address, of the step's task (R21). -/
def State.taskStore (s : State) (v : VA) (bs : List (Byte × Bool)) (ext : Bool) : State × Except (Tr × Nat) Unit :=
  let c := s.cur.sub.ctx
  match s.vaWriteSegs c none 4 (vaPieces v bs.length) .w ext with
  | (u, .ok gs) => (u.writeSegs c ⟨none, some s.cur.sub.n⟩ gs bs, .ok ())
  | (u, .error x) => (u, .error x)

/-- Bytes written by the step's task; `ext`: its operand is in mode EXT, or it acts as an agent of the hub (R45). -/
def State.taskWrite (s : State) (v : VA) (bs : List (Byte × Bool)) (ext : Bool) (k : State → State) : State :=
  s.taskReady v bs.length ext fun s =>
    match s.taskStore v bs ext with
    | (s, .ok _) => k s
    | (s, .error (o, va)) => s.taskTr o va

/-- Operand k of an entry. -/
def Entry.op (e : Entry) (k : Nat) : Range := nth ⟨.IN, 0, ⟨0, 0⟩, 0, 0, false, none⟩ e.ranges k

/-- The VA of operand k of the step's task. -/
def State.opVA (s : State) (e : Entry) (k : Nat) : VA := s.cx.rangeVA (e.op k)

end Sys2Proof.Machine
end

