-- ==== Sys2Proof/Machine/Tasks.lean ====
section
/-! DEFINITION. The task-stream instructions of scalars and control, buffers and work, order, visibility and memory, and
queues and range units (R230 to R243). A TLI acts at decode, and one of class H, E or F again once it has issued (R227). -/
namespace Sys2Proof.Machine

/-! ## Task scalars and control (class D) -/

/-- W2:W1 (R222). -/
def tliImm (t : Tli) : Word := w64 (t.w1.toNat + t.w2.toNat * 2 ^ 32)

/-- Bit k of W3. -/
def tliFlag (t : Tli) (k : Nat) : Bool := nbit t.w3.toNat k

/-- The form field W3[1:0]. -/
def tliForm (t : Tli) : Nat := t.w3.toNat % 4

/-- The second source B of TADDY, TSUBY and TCMPY (R230). -/
def Context.srcB (x : Context) (t : Tli) : Word := if tliFlag t 0 then tliImm t else x.y t.yb

/-- The target of a branch from the TLI at the decode position (R232). -/
def Context.target (x : Context) (t : Tli) : Word := x.dv.pos + (t.w1.signExtend 64 <<< 4)

/-- PRED of TCMPY (R230). -/
def cmpyPred (p : Nat) (a b : Word) : Bool :=
  match p with
  | 0 => a == b
  | 1 => a != b
  | 2 => a.slt b
  | 3 => a.sle b
  | 4 => a.ult b
  | _ => a.ule b

/-- TNOP (R233). -/
def execTnop (ph : TPhase) (t : Tli) (s : State) : Out := match ph with
  | .decode => .next (s.decodeRes (.tnop ph t) fun _ => [])
  | .run => .next s

/-- THALT (R233): decode stops after it. -/
def execThalt (ph : TPhase) (t : Tli) (s : State) : Out := match ph with
  | .decode => .next (s.decodeWith (.thalt ph t) false fun x => some ⟨none, x.dv.stack, true, []⟩)
  | .run => .next s

/-- TTRAP (R233). -/
def execTtrap (ph : TPhase) (t : Tli) (s : State) : Out := match ph with
  | .decode => .next (s.decodeTask (.ttrap ph t))
  | .run => s.work fun s _ => s.taskFail 0x86 0

/-- TBR (R232). -/
def execTbr (ph : TPhase) (t : Tli) (s : State) : Out := match ph with
  | .decode => .next (s.decodeWith (.tbr ph t) false fun x => some ⟨some (x.target t), x.dv.stack, false, []⟩)
  | .run => .next s

/-- TBRC (R232). -/
def execTbrc (ph : TPhase) (t : Tli) (s : State) : Out := match ph with
  | .decode =>
    .next
      (s.decodeWith (.tbrc ph t) false fun x =>
        some ⟨if (x.y t.ya != 0) != tliFlag t 0 then some (x.target t) else none, x.dv.stack, false, []⟩)
  | .run => .next s

/-- TCALL (R232): a call stack of 16 entries. -/
def execTcall (ph : TPhase) (t : Tli) (s : State) : Out := match ph with
  | .decode =>
    .next
      (s.decodeWith (.tcall ph t) false fun x =>
        if 16 ≤ x.dv.stack.length then none
        else some ⟨some (x.target t), (x.dv.pos + w64 (16 * tliUnits t.opnds.length)) :: x.dv.stack, false, []⟩)
  | .run => .next s

/-- TRET (R232). -/
def execTret (ph : TPhase) (t : Tli) (s : State) : Out := match ph with
  | .decode =>
    .next
      (s.decodeWith (.tret ph t) false fun x =>
        match x.dv.stack with
        | [] => none
        | a :: r => some ⟨some a, r, false, []⟩)
  | .run => .next s

/-- TSETY (R230). -/
def execTsety (ph : TPhase) (t : Tli) (s : State) : Out := match ph with
  | .decode => .next (s.decodeRes (.tsety ph t) fun _ => [(t.yd.toNat, tliImm t)])
  | .run => .next s

/-- TADDY (R230). -/
def execTaddy (ph : TPhase) (t : Tli) (s : State) : Out := match ph with
  | .decode => .next (s.decodeRes (.taddy ph t) fun x => [(t.yd.toNat, x.y t.ya + x.srcB t)])
  | .run => .next s

/-- TSUBY (R230). -/
def execTsuby (ph : TPhase) (t : Tli) (s : State) : Out := match ph with
  | .decode => .next (s.decodeRes (.tsuby ph t) fun x => [(t.yd.toNat, x.y t.ya - x.srcB t)])
  | .run => .next s

/-- TCMPY (R230). -/
def execTcmpy (ph : TPhase) (t : Tli) (s : State) : Out := match ph with
  | .decode =>
    .next
      (s.decodeRes (.tcmpy ph t) fun x =>
        [(t.yd.toNat, w64 (b2n (cmpyPred (bits t.w3.toNat 1 3) (x.y t.ya) (x.srcB t))))])
  | .run => .next s

/-! ## Scalars in memory, buffers, work -/

/-- Whether operand k of an entry is in mode EXT (R45). -/
def Entry.ext (e : Entry) (k : Nat) : Bool := (e.op k).mode == .EXT

/-- TLDY (R231). -/
def execTldy (ph : TPhase) (t : Tli) (s : State) : Out := match ph with
  | .decode => .next (s.decodeTask (.tldy ph t))
  | .run =>
    s.work fun s e =>
      s.taskBytes (s.opVA e 0) (e.op 0).len fun s b =>
        let n := leNat b
        s.taskMade [(t.yd.toNat, if tliFlag t 0 then i64 (sgn (8 * b.length) n) else w64 n)]

/-- TSTY (R231): the low bytes of the scalar taken at decode. -/
def execTsty (ph : TPhase) (t : Tli) (s : State) : Out := match ph with
  | .decode => .next (s.decodeTask (.tsty ph t))
  | .run =>
    s.work fun s e =>
      s.taskWrite (s.opVA e 0) ((leBytes (e.op 0).len (nth 0 e.sc 0).toNat).map fun b => (b, false)) (e.ext 0) fun s =>
        s.taskMade []

/-- TALLOC (R234). -/
def execTalloc (ph : TPhase) (t : Tli) (s : State) : Out := match ph with
  | .decode => .next (s.decodeTask (.talloc ph t))
  | .run => s.work fun s _ => s.taskMade []

/-- TFREE (R234). -/
def execTfree (ph : TPhase) (t : Tli) (s : State) : Out := match ph with
  | .decode => .next (s.decodeWith (.tfree ph t) true fun x => some ⟨none, x.dv.stack, false, []⟩)
  | .run => .next s

/-- TLAUNCH (R235): its INIT scalars are taken at decode; once its gang is placed and it has issued, its tiles may start. -/
def execTlaunch (ph : TPhase) (t : Tli) (s : State) : Out := match ph with
  | .decode => .next (s.decodeTask (.tlaunch ph t))
  | .run => s.work fun s _ => s.taskMade []

/-- TCOPY (R236): poison is carried. -/
def execTcopy (ph : TPhase) (t : Tli) (s : State) : Out := match ph with
  | .decode => .next (s.decodeTask (.tcopy ph t))
  | .run =>
    s.work fun s e =>
      s.taskRead (s.opVA e 0) (e.op 0).len fun s b => s.taskWrite (s.opVA e 1) b (e.ext 1) fun s => s.taskMade []

/-- The pattern of a TFILL (R236), as its bytes. -/
def fillPattern (t : Tli) (sc : List Word) : List Byte :=
  leBytes (2 ^ (t.w3.toNat % 4)) (if tliFlag t 2 then nth 0 sc 0 else tliImm t).toNat

/-- TFILL (R236). -/
def execTfill (ph : TPhase) (t : Tli) (s : State) : Out := match ph with
  | .decode => .next (s.decodeTask (.tfill ph t))
  | .run =>
    s.work fun s e =>
      let p := fillPattern t e.sc
      let bs := (List.replicate ((e.op 0).len / p.length) p).flatten
      s.taskWrite (s.opVA e 0) (bs.map fun b => (b, false)) (e.ext 0) fun s => s.taskMade []

/-! ## Order, visibility and memory -/

/-- TFENCE (R237): every older task has retired and its writes have been performed: they happen before every younger task, and, at
SYSTEM scope, the host sees them (R21). -/
def execTfence (ph : TPhase) (t : Tli) (s : State) : Out := match ph with
  | .decode => .next (s.decodeTask (.tfence ph t))
  | .run => s.work fun s _ =>
      let c := s.cur.sub.ctx
      let n := s.cur.sub.n
      (if t.w3.toNat % 8 = 4 then s.systemRelease c n else s.fencePast c n).taskMade []

/-- An MSI-X vector raised on a host port (R238, R390). -/
def State.raiseMsix (s : State) (port vec : Nat) : State := { s with msix := s.msix ++ [(port, vec)] }

/-- TSYNC (R238): a release at SYSTEM scope, the count, the interrupt. -/
def execTsync (ph : TPhase) (t : Tli) (s : State) : Out := match ph with
  | .decode => .next (s.decodeTask (.tsync ph t))
  | .run =>
    s.work fun s _ =>
      let port := s.cx.port
      let s := s.systemRelease s.cur.sub.ctx s.cur.sub.n
      let s := s.updCx fun x => { x with syncCnt := x.syncCnt + 1 }
      let s := if tliFlag t 0 then s.raiseMsix port (t.w1.toNat % 2048) else s
      s.taskMade []

/-- A range that a TPROBE probes: its first byte, bytes, access kind, and the operand that it is (0x1F: none). -/
structure ProbeItem where
  va : VA
  len : Nat
  k : Acc
  opnd : Nat
  deriving DecidableEq, Repr

/-- Whether sequence n may be named (R245). -/
def State.seqOk (s : State) (c n : Nat) : Bool := n < (s.ctx c).serv.seqN && (s.seqHdr c n).plcap != 0

/-- The ranges that a TPROBE or a TMIGR names beside operands (R239, R240), or none where the task is ILLEGAL. -/
def State.namedRanges (s : State) (t : Tli) (sc : List Word) : Option (List (VA × Nat)) :=
  let c := s.cur.sub.ctx
  let a := nth 0 sc 0
  let b := nth 0 sc 1
  if tliForm t = 1 then
    if s.seqOk c a.toNat then some ((s.seqRanges c a.toNat).map fun r => (VA.ofNat r.1, r.2)) else none
  else if b = 0 then none
  else some [(⟨t.w1.truncate 16, a⟩, b.toNat)]

/-- The tables' bytes that the work of the step's task reads, in order: one that cannot be read ends its context (R41, R50),
one that holds poison faults the task (R109, R193). -/
def State.servLook (s : State) (done : State) : List (VA × Nat) → State
  | [] => done
  | p :: ps =>
    match s.vaRead s.cur.sub.ctx none 4 p.1 p.2 .r with
    | (s', .error (o, va)) => s'.taskTr o va
    | (_, .ok b) =>
      if b.any Prod.snd then (s.hubConsumed s.cur.sub.ctx p.1 p.2).taskFail 0x85 0 else s.servLook done ps

/-- The state after the step's task has read some bytes of its tables (R42, R83). -/
def State.afterReads (s : State) (reads : List (VA × Nat)) : State :=
  reads.foldl (fun s p => (s.vaRead s.cur.sub.ctx none 4 p.1 p.2 .r).1) s

/-- What a serving instruction goes on with once it has read some bytes of its tables. -/
def State.servRead (s : State) (reads : List (VA × Nat)) (k : State → State) : State := s.servLook (k (s.afterReads reads)) reads

/-- The headers of some sequences (R245). -/
def Context.hdrSpans (x : Context) (ns : List Nat) : List (VA × Nat) :=
  ((ns.filter fun n => n < x.serv.seqN).eraseDups).map fun n => (x.seqVA n, 64)

/-- The header that a TPROBE or a TMIGR reads. -/
def State.namedHdr (s : State) (t : Tli) (sc : List Word) : List (VA × Nat) :=
  if tliForm t = 1 then s.cx.hdrSpans [(nth 0 sc 0).toNat] else []

/-- What a TPROBE probes (R239). -/
def State.probeItems (s : State) (t : Tli) (e : Entry) : Option (List ProbeItem) :=
  if tliForm t = 0 then
    some (e.ranges.zipIdx.map fun p => ⟨s.cx.rangeVA p.1, p.1.len, if p.1.mode = .IN then .r else .rw, p.2⟩)
  else
    (s.namedRanges t e.sc).map fun l =>
      (l.filter fun r => r.2 != 0).map fun r => ⟨r.1, r.2, if tliForm t = 1 || tliFlag t 2 then .rw else .r, 0x1F⟩

/-- One probe of a task at the hub: done, to be tried again, a precise fault with its FVA, or the end of the context. -/
inductive HubProbe where
  | ok | again
  | fault (fva : Nat)
  | far (va : Nat)
  | fatal (c : Cause) (fva : Nat)
  deriving DecidableEq, Repr

/-- R51, R52, R94: one probe of a task at the hub; a page in transit is waited for, its demotion cancelled. Of a range that
passes offset 2^64 of its space, the pages examined wrap within the space and the hold runs on (DESIGN CHOICE,
notes/assumptions/89.md). -/
def State.hubProbe (s : State) (c : Nat) (v : VA) (n : Nat) (k : Acc) (ext : Bool) (sn : Nat) : State × HubProbe :=
  let s := s.cancelDemotions c v.toNat n
  if (s.transitAt c v.toNat n).isSome then (s, .again)
  else
    match s.probe c none 4 v n k ext sn with
    | (s, .ok) => (s, .ok)
    | (s, .wait) => (s, .again)
    | (s, .holdFull) => (s, .fault v.toNat)
    | (s, .fail (.far _) va) => (s, .far va)
    | (s, .fail o va) =>
      match o.fatal false with
      | some cause => (s, .fatal cause (s.failPage c va))
      | none => (s, .fault (s.failPage c va))

/-- The probes of a TPROBE from the first that is still to be made on. -/
def State.tprobeFrom (s : State) (e : Entry) : List ProbeItem → State
  | [] => s.taskMade []
  | p :: ps =>
    let c := s.cur.sub.ctx
    match s.hubProbe c p.va p.len p.k false e.sn with
    | (s, .ok) => (s.updTask fun e => { e with probed := e.probed + 1 }).tprobeFrom e ps
    | (s, .again) => s
    | (s, .fault fva) => s.failTask c e.sn 0x80 p.opnd fva
    | (s, .far va) => s.failTask c e.sn 0x80 p.opnd (s.failPage c va)
    | (s, .fatal cause fva) => s.taskFatal cause fva

/-- TPROBE (R239). -/
def execTprobe (ph : TPhase) (t : Tli) (s : State) : Out := match ph with
  | .decode => .next (s.decodeTask (.tprobe ph t))
  | .run =>
    s.work fun s e =>
      s.servRead (s.namedHdr t e.sc) fun s =>
      match s.probeItems t e with
      | none => s.taskFail 0x82 0
      | some l => s.tprobeFrom e (l.drop e.probed)

/-- What a TMIGR makes of one page (R240): the state, and whether it made a request. -/
def State.migrPage (s : State) (c page e tgt : Nat) : State × Bool :=
  match tgt with
  | 0 => if pteTier e = 0 then (s, false) else (s.requestPromotion c page none, true)
  | 1 =>
    let u := s.pinUse c page (pageBytes (pteSize e))
    if s.farAvailable c .cxm && s.eligible c page e then (u.queueDemotion c page .cxm none, true) else (u, false)
  | _ =>
    let u := s.pinUse c page (pageBytes (pteSize e))
    if s.farAvailable c .flt && (s.eligible c page e || s.eligibleDeep c page e) then (u.queueDemotion c page .flt none, true)
    else (u, false)

/-- The pages of some ranges in ascending order, each once. A range of MFORM 2 that passes offset 2^64 goes on in the space of the
next number (DESIGN CHOICE, notes/assumptions/106.md). -/
def State.pagesOf (s : State) (c : Nat) (l : List (VA × Nat)) : List (Nat × Nat) :=
  ((l.flatMap fun r => s.pagesIn c r.1.toNat r.2).mergeSort fun a b => a.1 ≤ b.1).eraseDups

/-- TMIGR (R240). -/
def execTmigr (ph : TPhase) (t : Tli) (s : State) : Out := match ph with
  | .decode => .next (s.decodeTask (.tmigr ph t))
  | .run =>
    s.work fun s e =>
      let c := s.cur.sub.ctx
      s.servRead (s.namedHdr t e.sc) fun s =>
      match s.namedRanges t e.sc with
      | none => s.taskFail 0x82 0
      | some l =>
        if tliForm t = 2 ∧ 0x8000 ≤ t.w1.toNat % 2 ^ 16 then s.taskFatal .access (VA.toNat ⟨t.w1.truncate 16, nth 0 e.sc 0⟩)
        else
        let r := (s.pagesOf c l).foldl
          (fun (a : State × List Nat) p =>
            let m := a.1.migrPage c p.1 p.2 (bits t.w3.toNat 2 2)
            (m.1, if m.2 then a.2 ++ [p.1] else a.2)) (s, [])
        (r.1.updTask fun e => { e with asked := if tliFlag t 4 then r.2 else [] }).taskMade [(t.yd.toNat, w64 r.2.length)]

/-- The base that a TACQR or a TRELR names (R241). -/
def shBase (t : Tli) (sc : List Word) : Nat := (if tliFlag t 0 then nth 0 sc 0 else tliImm t).toNat

/-- The shared range of a context with a base. -/
def State.shAt (s : State) (c base : Nat) : Option ShRange := s.ranges.find? fun r => r.ctx == c && r.base == base

/-- A shared range's owner changed. -/
def State.setOwn (s : State) (c base : Nat) (o : Own) : State :=
  { s with ranges := s.ranges.map fun r => if r.ctx = c ∧ r.base = base then { r with own := o } else r }

/-- The hub cycle of now, counted from 1 (R420). -/
def State.hubNow (s : State) : Nat := s.time / 15 + 1

/-- Whether the command of a mailbox is one for the shared-range table (R17). -/
def State.shCmd (s : State) (m : Nat) : Bool :=
  0x19 ≤ (mget Mailbox.reset s.mbxs m).opc && (mget Mailbox.reset s.mbxs m).opc ≤ 0x1B

/-- Whether a request for the shared-range table still stands: of a context, a TACQR or a TRELR at work at its window head;
of the host (none), the first SHR command of those submitted. -/
def State.asksOwn (s : State) : Option Nat → Bool
  | some c => (s.ctx c).entries.head?.any fun e => match e.tli with
    | .tacqr _ _ | .trelr _ _ => e.st == .run && !e.inval
    | _ => false
  | none => s.submitted.any s.shCmd

/-- R17: whether a request is a TACQR of a range that the host owns, which holds back its own context alone. -/
def State.ownBlocked (s : State) : Option Nat → Bool
  | some c => (s.ctx c).entries.head?.any fun e => match e.tli with
    | .tacqr _ t => (s.shAt c (shBase t e.sc)).any fun r => r.own == .host
    | _ => false
  | none => false

/-- The requests that wait for the shared-range table, in arrival order. -/
def State.ownLine (s : State) : List (Option Nat) := s.ownQ.filter fun q => s.asksOwn q && !s.ownBlocked q

/-- R18: the shared-range table takes one request in a hub cycle, in arrival order: whether it takes that of a context, or
of the host (none), now. -/
def State.ownTurn (s : State) (q : Option Nat) : Bool :=
  s.ownAt != s.hubNow && (match s.ownLine with
    | [] => true
    | p :: _ => p == q)

/-- R18: the table has taken a request in this hub cycle. -/
def State.ownTaken (s : State) (q : Option Nat) : State :=
  { s with ownAt := s.hubNow, ownQ := s.ownQ.filter fun p => p != q && s.asksOwn p }

/-- R18: a request waits its turn. -/
def State.ownWaits (s : State) (q : Option Nat) : State := if q ∈ s.ownQ then s else { s with ownQ := s.ownQ ++ [q] }

/-- R17: the context's ownership-warning bit (R391). -/
def State.ownWarned (s : State) : State := s.updCx fun x => { x with ownWarn := true }

/-- R19: a change of ownership, whose invalidation must be complete before its task is. Writes of the device that no
release at SYSTEM scope has ordered before the device gives a range up stay hidden from the host (R21). -/
def State.ownChange (s : State) (r : ShRange) (o : Own) : State :=
  let c := s.cur.sub.ctx
  let s := (if o = .none then s.unseenLost c r.base r.len else s).setOwn c r.base o
  ({ s with invQ := s.invQ ++ [⟨c, some (r.base, r.len)⟩] } : State).updTask fun e => { e with inval := true }

/-- R19: the invalidation that the task waits for is complete. -/
def State.invalDone (s : State) (base : Nat) : Bool :=
  !(s.invQ.any fun q => q.asid == s.cur.sub.ctx && (q.range.map Prod.fst) == some base)

/-- TACQR (R17, R19, R241). -/
def execTacqr (ph : TPhase) (t : Tli) (s : State) : Out := match ph with
  | .decode => .next (s.decodeTask (.tacqr ph t))
  | .run =>
    s.work fun s e =>
      let base := shBase t e.sc
      if e.inval then (if s.invalDone base then s.taskMade [] else s)
      else
        match s.shAt s.cur.sub.ctx base with
        | none => s.taskFail 0x82 0
        | some r =>
          if r.own = .host then s
          else if !s.ownTurn (some s.cur.sub.ctx) then s.ownWaits (some s.cur.sub.ctx)
          else if r.own = .device then (s.ownTaken (some s.cur.sub.ctx)).ownWarned.taskMade []
          else (s.ownTaken (some s.cur.sub.ctx)).ownChange r .device

/-- TRELR (R17, R19, R241). -/
def execTrelr (ph : TPhase) (t : Tli) (s : State) : Out := match ph with
  | .decode => .next (s.decodeTask (.trelr ph t))
  | .run =>
    s.work fun s e =>
      let base := shBase t e.sc
      if e.inval then (if s.invalDone base then s.taskMade [] else s)
      else
        match s.shAt s.cur.sub.ctx base with
        | none => s.taskFail 0x82 0
        | some r =>
          if !s.ownTurn (some s.cur.sub.ctx) then s.ownWaits (some s.cur.sub.ctx)
          else if r.own = .device then (s.ownTaken (some s.cur.sub.ctx)).ownChange r .none
          else (s.ownTaken (some s.cur.sub.ctx)).ownWarned.taskMade []

/-! ## Queues and range units -/

/-- The queue that a TWAITQ or a TSIGQ names (R242). -/
def queueId (t : Tli) (sc : List Word) : Nat := if tliFlag t 2 then (nth 0 sc 0).toNat else t.w1.toNat

/-- The queue if the context has registered it and the operand or scalar has its entry size (R242). -/
def State.taskQueue (s : State) (t : Tli) (e : Entry) : Option PQueue :=
  (s.queue? (queueId t e.sc)).filter fun q =>
    q.regFor s.cur.sub.ctx &&
      (match tliForm t with
       | 0 => (e.op 0).len == q.esz
       | 1 => q.esz == 8
       | _ => true)

/-- A push of the step's task, a release at PACKAGE scope (R139). -/
def State.taskPush (s : State) (qid : Nat) (q : PQueue) (bs : List Byte) : State :=
  (s.queuePush qid q bs).taskPushed s.cur.sub.ctx s.cur.sub.n (.entry qid (s.queueHTN q).2.1.toNat)

/-- A pop of the step's task, an acquire at PACKAGE scope (R139). -/
def State.taskPop (s : State) (qid : Nat) : State × List Byte :=
  let n := (s.queueHTN ((s.queue? qid).getD PQueue.none)).1.toNat
  let r := s.queuePop qid
  (r.1.taskPopped s.cur.sub.ctx s.cur.sub.n (.entry qid n), r.2)

/-- TSIGQ (R178, R242). -/
def execTsigq (ph : TPhase) (t : Tli) (s : State) : Out := match ph with
  | .decode => .next (s.decodeTask (.tsigq ph t))
  | .run =>
    s.work fun s e =>
      let qid := queueId t e.sc
      match s.taskQueue t e with
      | none => s.taskFail 0x82 0
      | some q =>
        if tliForm t = 2 then (s.queueNotify qid (nth 0 e.sc 1)).taskMade []
        else if s.queueFull q then s
        else if tliForm t = 1 then (s.taskPush qid q (leBytes 8 (nth 0 e.sc 1).toNat)).taskMade []
        else s.taskBytes (s.opVA e 0) (e.op 0).len fun s b => (s.taskPush qid q b).taskMade []

/-- TWAITQ (R178, R242). -/
def execTwaitq (ph : TPhase) (t : Tli) (s : State) : Out := match ph with
  | .decode => .next (s.decodeTask (.twaitq ph t))
  | .run =>
    s.work fun s e =>
      let qid := queueId t e.sc
      let mask := nth 0 e.sc 1
      match s.taskQueue t e with
      | none => s.taskFail 0x82 0
      | some _ =>
        if tliForm t = 2 ∧ mask = 0 then s.taskFail 0x82 0
        else
          let s := s.queueMap qid
          let q := (s.queue? qid).getD PQueue.none
          if tliForm t = 2 then
            let h := s.queueHTN q
            let v := h.2.2 &&& mask
            if v = 0 then s else (s.queueStore qid q h.1 h.2.1 (h.2.2 &&& ~~~mask)).taskMade [(t.yd.toNat, v)]
          else if !s.queueHas q then s
          else
            s.taskReady (s.opVA e 0) (if tliForm t = 1 then 0 else q.esz) (e.ext 0) fun s =>
            let r := s.taskPop qid
            if tliForm t = 1 then r.1.taskMade [(t.yd.toNat, w64 (leNat r.2))]
            else r.1.taskWrite (s.opVA e 0) (r.2.map fun b => (b, false)) (e.ext 0) fun s => s.taskMade []

/-- A range unit afresh from a TRNGINIT (R177, R243). -/
def rngUnit (c : Nat) (t : Tli) (sc : List Word) : RangeUnit :=
  ⟨some c, nth 0 sc 0, nth 0 sc 1, t.w1.toNat, t.w2.toNat % 2 ^ 16⟩

/-- Whether the fields of a TRNGINIT form a unit (R243). -/
def rngOk (t : Tli) (sc : List Word) : Bool :=
  !((nth 0 sc 1).ult (nth 0 sc 0)) && t.w1 != 0 && t.w2.toNat % 2 ^ 16 != 0

/-- The lowest free range unit, if the context may hold one more (R243; notes/assumptions/14.md). -/
def State.freeUnit (s : State) (c : Nat) : Option Nat :=
  if 64 ≤ (s.units.filter fun p => p.2.ctx == some c).length then none
  else (List.range 1024).find? fun n => (mget RangeUnit.reset s.units n).ctx.isNone

/-- TRNGINIT (R243). -/
def execTrnginit (ph : TPhase) (t : Tli) (s : State) : Out := match ph with
  | .decode => .next (s.decodeTask (.trnginit ph t))
  | .run =>
    s.work fun s e =>
      let c := s.cur.sub.ctx
      let n := bits t.w2.toNat 16 10
      let holds := (mget RangeUnit.reset s.units n).ctx == some c
      match tliForm t with
      | 0 =>
        if !rngOk t e.sc then s.taskFail 0x82 0
        else
          match s.freeUnit c with
          | none => s.taskFail 0x83 0
          | some k => ({ s with units := mput s.units k (rngUnit c t e.sc) } : State).taskMade [(t.yd.toNat, w64 k)]
      | 1 =>
        if rngOk t e.sc && holds then ({ s with units := mput s.units n (rngUnit c t e.sc) } : State).taskMade []
        else s.taskFail 0x82 0
      | _ => if holds then ({ s with units := mdel s.units n } : State).taskMade [] else s.taskFail 0x82 0

end Sys2Proof.Machine
end

