-- ==== Sys2Proof/Machine/Serving.lean ====
section
/-! DEFINITION. The serving instructions: the sequence instructions (R200, R246), the key-value pool (R244, R247, R248)
and the prefix table (R249 to R251). The tables stand in memory, where the hub reads and writes them as an EXT issuer. -/
namespace Sys2Proof.Machine

/-! ## Probes and poison -/

/-- R245: the probes of a serving instruction, each a read and write at the hub; a far page is promoted and waited for
(R53). -/
def State.servProbe (s : State) (k : State → State) : List (VA × Nat) → State
  | [] => k s
  | p :: ps =>
    let c := s.cur.sub.ctx
    let sn := s.cur.sub.n
    match s.hubProbe c p.1 p.2 .rw true sn with
    | (s, .ok) => (s.updTask fun e => { e with probed := e.probed + 1 }).servProbe k ps
    | (s, .again) => s
    | (s, .far va) => s.requestPromotion c va none
    | (s, .fault fva) => s.failTask c sn 0x80 0x1F fva
    | (s, .fatal cause fva) => s.taskFatal cause fva

/-- Whether a table's bytes read by the hub hold poison (R109). -/
def State.poisonedVA (s : State) (c : Nat) (v : VA) (n : Nat) : Bool :=
  match (s.vaRead c none 4 v n .r).2 with
  | .ok b => b.any Prod.snd
  | .error _ => false

/-- The effect of a serving instruction after its probes and what it reads (R245). The task's operand ranges are probed
already, so its probes count from theirs. -/
def State.servGo (s : State) (e : Entry) (spans reads : List (VA × Nat)) (k : State → State) : State :=
  s.servProbe (fun s => s.servRead reads k) ((spans.filter fun p => p.2 != 0).drop (e.probed - e.ranges.length))

/-- The work of a serving instruction, ILLEGAL in a context without serving (R245). -/
def State.servWork (s : State) (f : State → Entry → Context → State) : Out :=
  s.work fun s e => if s.cx.serv.seqN = 0 then s.taskFail 0x82 0 else f s e s.cx

/-! ## The key-value pool (R244) -/

/-- PEPOCH (R244). -/
def State.pepoch (s : State) : Nat := s.ticks / 1024 % 2 ^ 15

/-- The count words of some pages. -/
def Serving.cntSpans (v : Serving) (ps : List Nat) : List (VA × Nat) :=
  ((ps.filter fun p => p < v.kvN).eraseDups).map fun p => (VA.plus v.kvCntVA (4 * p), 4)

/-- LREF and PINC of page n. -/
def State.kvCount (s : State) (c n : Nat) : Nat × Nat :=
  let w := s.hubNum c (VA.plus (s.ctx c).serv.kvCntVA (4 * n)) 4
  (w % 2 ^ 16, w / 2 ^ 16)

/-- The count word of page n written. -/
def State.setKvCount (s : State) (c n lref pinc : Nat) : State :=
  s.hubPut c (VA.plus (s.ctx c).serv.kvCntVA (4 * n)) 4 (lref + pinc * 2 ^ 16)

/-- The serving block changed. -/
def State.updServ (s : State) (c : Nat) (f : Serving → Serving) : State := s.updCtx c fun x => { x with serv := f x.serv }

/-- R244: a page whose counts have both become 0 returns to the top of the free stack. -/
def State.freeKv (s : State) (c n : Nat) : State :=
  if s.kvCount c n = (0, 0) then
    let v := (s.ctx c).serv
    (s.hubPut c (VA.plus v.kvFlVA (4 * v.kvFree)) 4 n).updServ c fun v => { v with kvFree := v.kvFree + 1 }
  else s

/-- The page on top of the free stack, taken. -/
def State.popKv (s : State) (c : Nat) : State × Nat :=
  let v := (s.ctx c).serv
  (s.updServ c fun v => { v with kvFree := v.kvFree - 1 }, s.hubNum c (VA.plus v.kvFlVA (4 * (v.kvFree - 1))) 4)

/-- LREF of a page decreased, and the page freed when both its counts are 0. -/
def State.unlist (s : State) (c n : Nat) : State :=
  let q := s.kvCount c n
  (s.setKvCount c n (q.1 - 1) q.2).freeKv c n

/-- LEN and NPG of a sequence written, modulo 2^32 each. -/
def State.setLenNpg (s : State) (c n len npg : Nat) : State := s.hubPut c ((s.ctx c).seqVA n) 8 (len % 2 ^ 32 + npg % 2 ^ 32 * 2 ^ 32)

/-- n entries of a page list from entry i on. -/
def SeqHdr.listSpan (h : SeqHdr) (i n : Nat) : VA × Nat := (VA.plus h.plva (4 * i), 4 * n)

/-- The pages that a sequence lists. -/
def State.listed (s : State) (c n : Nat) : List Nat := (List.range (s.seqHdr c n).npg).map (s.listEntry c (s.seqHdr c n))

/-! ## Sequence instructions -/

/-- Whether a gust write is still to be handled in this hub cycle (R100, notes/assumptions/88.md). -/
def State.gustsDue (s : State) : Bool := s.agenda.any fun p => match p.2 with
  | .gustWrite _ _ | .gustSlotWrite _ _ | .gustMessage _ _ _ _ _ _ | .gust => true
  | _ => false

/-- TPARK (R102, R246). -/
def execTpark (ph : TPhase) (t : Tli) (s : State) : Out := match ph with
  | .decode => .next (s.decodeTask (.tpark ph t))
  | .run =>
    s.servWork fun s e x =>
      if s.gustsDue then s else
      let c := s.cur.sub.ctx
      let n := (nth 0 e.sc 0).toNat
      s.servRead (x.hdrSpans [n]) fun s =>
      if !s.seqOk c n then s.taskFail 0x82 0
      else
        match x.mbox n with
        | none => s.taskFail 0x82 0
        | some m =>
          match m.st with
          | .becalmed | .waking | .wakefail => s.taskFail 0x82 0
          | .pending =>
            ((s.setMbox c { m with st := .ready }).updCx fun x => x.readyAdd (s.time / 15 + 1) n).taskMade
              [(t.yd.toNat, 1)]
          | .idle | .ready =>
            let m := { m with st := .becalmed, gusts := 0, pt := s.ticks, aged1 := false, skip1 := [], aged2 := false, skip2 := [] }
            ((s.setMbox c m).updCx fun x => x.readyDrop (s.time / 15 + 1) n).taskMade [(t.yd.toNat, 0)]

/-- TSEQNEXT (R200, R246). -/
def execTseqnext (ph : TPhase) (t : Tli) (s : State) : Out := match ph with
  | .decode => .next (s.decodeTask (.tseqnext ph t))
  | .run =>
    s.servWork fun s _ x =>
      match x.readyL with
      | [] => if tliFlag t 0 then s.taskMade [(t.yd.toNat, 0xFFFF_FFFF_FFFF_FFFF)] else s
      | n :: r =>
        let s := s.updCx fun x => { x with readyL := r }
        let s := match x.mbox n with
          | some m => s.setMbox s.cur.sub.ctx { m with st := .idle }
          | none => s
        s.taskMade [(t.yd.toNat, w64 n)]

/-- TSEQDONE (R246). -/
def execTseqdone (ph : TPhase) (t : Tli) (s : State) : Out := match ph with
  | .decode => .next (s.decodeTask (.tseqdone ph t))
  | .run =>
    s.servWork fun s e x =>
      let c := s.cur.sub.ctx
      let n := (nth 0 e.sc 0).toNat
      s.servRead (x.hdrSpans [n]) fun s =>
      if !s.seqOk c n || x.mstate n != .idle then s.taskFail 0x82 0
      else
        let h := s.seqHdr c n
        let spans := h.listSpan 0 h.npg :: x.serv.cntSpans (s.listed c n)
        s.servGo e spans spans fun s =>
          (((s.listed c n).foldl (fun s p => s.unlist c p) s).setLenNpg c n 0 0).taskMade []

/-! ## TKVAPPEND (R247) -/

/-- An entry of a batch. -/
structure KvItem where
  seq : Nat
  adopt : Bool
  resv : Nat
  val : Nat
  deriving DecidableEq, Repr

/-- The entries of a batch from its 8-byte words. -/
def kvItems (b : List Byte) : List KvItem := (leDwords b).map fun w => ⟨w % 2 ^ 16, nbit w 16, bits w 17 15, w / 2 ^ 32⟩

/-- What the checks of a batch carry: len and npg of each sequence, the adoptions of each page, the pages needed. -/
structure KvAcc where
  seqs : SMap (Nat × Nat)
  adds : SMap Nat
  need : Nat
  deriving DecidableEq, Repr

/-- The check of one entry of a batch; none: ILLEGAL. -/
def State.kvCheck (s : State) (c : Nat) (a : KvAcc) (i : KvItem) : Option KvAcc :=
  let x := s.ctx c
  let t := 2 ^ x.serv.kvLtok
  let m := x.mstate i.seq
  if !s.seqOk c i.seq || i.resv != 0 || m == .becalmed || m == .waking || m == .wakefail then none
  else
    let h := s.seqHdr c i.seq
    let q := mget (h.len, h.npg) a.seqs i.seq
    let done (len new : Nat) (a : KvAcc) : Option KvAcc :=
      if h.plcap < q.2 + new then none else some { a with seqs := mput a.seqs i.seq (len, q.2 + new) }
    if i.adopt then
      let k := mget 0 a.adds i.val
      if q.1 % t ≠ 0 ∨ x.serv.kvN ≤ i.val ∨ (s.kvCount c i.val).1 + k = 65535 then none
      else done (q.1 + t) 1 { a with adds := mput a.adds i.val (k + 1) }
    else if i.val = 0 ∨ 2 ^ 32 ≤ q.1 + i.val then none
    else
      let new := ceilDiv (q.1 + i.val) t - ceilDiv q.1 t
      done (q.1 + i.val) new { a with need := a.need + new }

/-- The checks of a batch in order. -/
def State.kvChecks (s : State) (c : Nat) : KvAcc → List KvItem → Option KvAcc
  | a, [] => some a
  | a, i :: is =>
    match s.kvCheck c a i with
    | none => none
    | some a => s.kvChecks c a is

/-- The pages on top of the free stack, first the top, and where they stand. -/
def Serving.topSpan (v : Serving) (n : Nat) : VA × Nat := (VA.plus v.kvFlVA (4 * (v.kvFree - n)), 4 * n)
def State.topPages (s : State) (c n : Nat) : List Nat :=
  let v := (s.ctx c).serv
  (List.range n).map fun i => s.hubNum c (VA.plus v.kvFlVA (4 * (v.kvFree - 1 - i))) 4

/-- The page-list entries and count words that a batch touches (R245, R247), if its checks are met and the free stack covers
it. -/
def State.kvSpans (s : State) (c : Nat) (items : List KvItem) : List (VA × Nat) :=
  match s.kvChecks c ⟨[], [], 0⟩ items with
  | none => []
  | some a =>
    if (s.ctx c).serv.kvFree < a.need then []
    else
      a.seqs.map (fun p => let h := s.seqHdr c p.1; h.listSpan h.npg (p.2.2 - h.npg)) ++
        (s.ctx c).serv.cntSpans (a.adds.map Prod.fst ++ s.topPages c a.need)

/-- What a batch reads: the headers, the counts of the pages that it adopts, and the entries of the free stack that it
takes. -/
def State.kvReads (s : State) (c : Nat) (items : List KvItem) : List (VA × Nat) :=
  let v := (s.ctx c).serv
  v.cntSpans ((items.filter (·.adopt)).map (·.val)) ++
    (match s.kvChecks c ⟨[], [], 0⟩ items with
     | some a => if a.need = 0 ∨ v.kvFree < a.need then [] else [v.topSpan a.need]
     | none => [])

/-- A page appended to the list of sequence n, with its counts. -/
def State.kvList (s : State) (c n page lref pinc : Nat) : State :=
  let h := s.seqHdr c n
  let s := s.hubPut c (VA.plus h.plva (4 * h.npg)) 4 page
  (s.setLenNpg c n h.len (h.npg + 1)).setKvCount c page lref pinc

/-- k new pages appended to the list of sequence n; their data is undefined. -/
def State.kvNew (s : State) (c n : Nat) : Nat → State
  | 0 => s
  | k + 1 =>
    let p := s.popKv c
    let v := (s.ctx c).serv
    ((p.1.undefineVA c (v.kvVA p.2).toNat v.pg).kvList c n p.2 1 0).kvNew c n k

/-- One entry of a batch applied. -/
def State.kvApply (s : State) (c : Nat) (i : KvItem) : State :=
  let t := 2 ^ (s.ctx c).serv.kvLtok
  let h := s.seqHdr c i.seq
  let len := if i.adopt then h.len + t else h.len + i.val
  let s :=
    if i.adopt then
      let q := s.kvCount c i.val
      s.kvList c i.seq i.val (q.1 + 1) q.2
    else s.kvNew c i.seq (ceilDiv len t - ceilDiv h.len t)
  s.setLenNpg c i.seq len (s.seqHdr c i.seq).npg

/-- TKVAPPEND (R247). -/
def execTkvappend (ph : TPhase) (t : Tli) (s : State) : Out := match ph with
  | .decode => .next (s.decodeTask (.tkvappend ph t))
  | .run =>
    s.servWork fun s e x =>
      let c := s.cur.sub.ctx
      s.taskBytes (s.opVA e 0) (e.op 0).len fun s b =>
        let items := kvItems b
        s.servRead (x.hdrSpans (items.map (·.seq))) fun s =>
        s.servGo e (s.kvSpans c items) (s.kvReads c items) fun s =>
          match s.kvChecks c ⟨[], [], 0⟩ items with
          | none => s.taskFail 0x82 0
          | some a =>
            if x.serv.kvFree < a.need then s.taskFail 0x83 0
            else (items.foldl (fun s i => s.kvApply c i) s).taskMade []

/-! ## TKVPIN and TKVUNPIN (R248) -/

/-- Whether each page of a list exists and its PINC stays in range after the list. -/
def State.pinsOk (s : State) (c : Nat) (up : Bool) (ps : List Nat) : Bool :=
  ps.all fun p =>
    p < (s.ctx c).serv.kvN &&
      (let k := ps.count p
       let q := (s.kvCount c p).2
       if up then q + k ≤ 65535 else k ≤ q)

/-- PINC of a page changed by one; a page left with both counts 0 is freed. -/
def State.pinOne (s : State) (c : Nat) (up : Bool) (p : Nat) : State :=
  let q := s.kvCount c p
  if up then s.setKvCount c p q.1 (q.2 + 1) else (s.setKvCount c p q.1 (q.2 - 1)).freeKv c p

/-- The work of TKVPIN and TKVUNPIN. -/
def State.pinWork (s : State) (up : Bool) : Out :=
  s.servWork fun s e x =>
    let c := s.cur.sub.ctx
    s.taskBytes (s.opVA e 0) (e.op 0).len fun s b =>
      let ps := (leWords b).map BitVec.toNat
      s.servGo e (x.serv.cntSpans ps) (x.serv.cntSpans ps) fun s =>
        if s.pinsOk c up ps then (ps.foldl (fun s p => s.pinOne c up p) s).taskMade [] else s.taskFail 0x82 0

/-- TKVPIN (R248). -/
def execTkvpin (ph : TPhase) (t : Tli) (s : State) : Out := match ph with
  | .decode => .next (s.decodeTask (.tkvpin ph t))
  | .run => s.pinWork true

/-- TKVUNPIN (R248). -/
def execTkvunpin (ph : TPhase) (t : Tli) (s : State) : Out := match ph with
  | .decode => .next (s.decodeTask (.tkvunpin ph t))
  | .run => s.pinWork false

/-! ## Prefix table (R249 to R251) -/

/-- An entry of the prefix table (R249). -/
structure PfxEntry where
  hash : Nat
  handle : Nat
  pins : Nat
  age : Nat
  v : Bool
  deriving DecidableEq, Repr

/-- The VA of entry i of the prefix table. -/
def Serving.pfxAt (v : Serving) (i : Nat) : VA := VA.plus v.pfxVA (16 * i)

/-- Entry i of the prefix table. -/
def State.pfx (s : State) (c i : Nat) : PfxEntry :=
  let w := s.hubNum c ((s.ctx c).serv.pfxAt i) 16
  ⟨bits w 0 64, bits w 64 32, bits w 96 16, bits w 112 15, nbit w 127⟩

/-- Entry i of the prefix table written. -/
def State.setPfx (s : State) (c i : Nat) (p : PfxEntry) : State :=
  s.hubPut c ((s.ctx c).serv.pfxAt i) 16
    (p.hash + p.handle * 2 ^ 64 + p.pins * 2 ^ 96 + p.age * 2 ^ 112 + b2n p.v * 2 ^ 127)

/-- The window of a hash (R249). -/
def Serving.window (v : Serving) (h : Nat) : List Nat := (List.range 8).map fun k => (h + k) % 2 ^ v.pfxLog

/-- The entry of a hash's window that holds it. -/
def State.pfxFind (s : State) (c h : Nat) : Option Nat :=
  ((s.ctx c).serv.window h).find? fun i => (s.pfx c i).v && (s.pfx c i).hash == h

/-- AGE := PEPOCH of an entry. -/
def State.pfxTouch (s : State) (c i : Nat) : State := s.setPfx c i { s.pfx c i with age := s.pepoch }

/-- The entries of a hash's window that a search reads: up to the one that holds it. -/
def State.pfxSeen (s : State) (c h : Nat) : List Nat :=
  let w := (s.ctx c).serv.window h
  match s.pfxFind c h with
  | none => w
  | some i => w.takeWhile (· != i) ++ [i]

/-- The entries that the lookup of a list of hashes reads: up to the first hash that is not found (R250). -/
def State.lookReads (s : State) (c : Nat) : List Nat → List (VA × Nat)
  | [] => []
  | h :: hs =>
    (s.pfxSeen c h).map (fun i => ((s.ctx c).serv.pfxAt i, 16)) ++ if (s.pfxFind c h).isSome then s.lookReads c hs else []

/-- The handles of the leading hashes that are found, their entries' AGE renewed (R250). -/
def State.pfxLookup (s : State) (c : Nat) : List Nat → State × List Nat
  | [] => (s, [])
  | h :: hs =>
    match s.pfxFind c h with
    | none => (s, [])
    | some i =>
      let r := (s.pfxTouch c i).pfxLookup c hs
      (r.1, (s.pfx c i).handle :: r.2)

/-- TPFXLOOK (R250). -/
def execTpfxlook (ph : TPhase) (t : Tli) (s : State) : Out := match ph with
  | .decode => .next (s.decodeTask (.tpfxlook ph t))
  | .run =>
    s.servWork fun s e x =>
      let c := s.cur.sub.ctx
      s.taskBytes (s.opVA e 0) (e.op 0).len fun s b =>
        let hs := leDwords b
        s.servGo e [] (if x.serv.pfxVA.toNat = 0 then [] else s.lookReads c hs) fun s => s.taskReady (s.opVA e 1) (e.op 1).len (e.ext 1) fun s =>
          let r := if x.serv.pfxVA.toNat = 0 then (s, []) else s.pfxLookup c hs
          let out := r.2 ++ List.replicate (hs.length - r.2.length) 0xFFFF_FFFF
          r.1.taskWrite (s.opVA e 1) ((out.flatMap fun h => leBytes 4 h).map fun b => (b, false)) (e.ext 1) fun s =>
            s.taskMade [(t.yd.toNat, w64 r.2.length)]

/-- The slot that an insert takes: the first invalid one, else the evictable entry of greatest age, first in probe order. -/
def State.pfxSlot (s : State) (c h : Nat) : Option Nat :=
  let w := (s.ctx c).serv.window h
  let age (i : Nat) : Nat := (s.pepoch + 2 ^ 15 - (s.pfx c i).age) % 2 ^ 15
  (w.find? fun i => !(s.pfx c i).v) <|>
    ((w.filter fun i => (s.pfx c i).pins == 0).foldl
      (fun (r : Option Nat) i => match r with
        | none => some i
        | some j => if age j < age i then some i else some j) none)

/-- R251's insert of hash h with page p: the state, and whether an entry was written. -/
def State.pfxInsert (s : State) (c h p : Nat) : State × Bool :=
  match s.pfxFind c h with
  | some i => (s.pfxTouch c i, false)
  | none =>
    if (s.kvCount c p).2 = 65535 then (s, false)
    else
      match s.pfxSlot c h with
      | none => (s, false)
      | some i =>
        let o := s.pfx c i
        let s :=
          if o.v then
            let s := s.setPfx c i { o with v := false }
            let q := s.kvCount c o.handle
            let s := s.setKvCount c o.handle q.1 (q.2 - 1)
            if o.handle = p then s else s.freeKv c o.handle
          else s
        let s := s.setPfx c i ⟨h, p, 0, s.pepoch, true⟩
        let q := s.kvCount c p
        (s.setKvCount c p q.1 (q.2 + 1), true)

/-- What the inserts of a list of pairs touch: the count words that they change, and the entries and count words that they
read, in order. -/
def State.insTouches (s : State) (c : Nat) : List (Nat × Nat) → List (VA × Nat) × List (VA × Nat)
  | [] => ([], [])
  | (h, p) :: ps =>
    let v := (s.ctx c).serv
    let ents := (s.pfxSeen c h).map fun i => (v.pfxAt i, 16)
    let cs := if (s.pfxFind c h).isSome then []
      else p :: (match s.pfxSlot c h with
        | some i => if (s.pfx c i).v && (s.kvCount c p).2 != 65535 then [(s.pfx c i).handle] else []
        | none => [])
    let r := (s.pfxInsert c h p).1.insTouches c ps
    (v.cntSpans cs ++ r.1, ents ++ v.cntSpans cs ++ r.2)

/-- TPFXINS (R251). -/
def execTpfxins (ph : TPhase) (t : Tli) (s : State) : Out := match ph with
  | .decode => .next (s.decodeTask (.tpfxins ph t))
  | .run =>
    s.servWork fun s e x =>
      let c := s.cur.sub.ctx
      s.taskBytes (s.opVA e 0) (e.op 0).len fun s b =>
        let n := b.length / 16
        let pr := (List.range n).map fun k => leNat ((b.drop (16 * k)).take 16)
        if pr.any fun w => bits w 96 32 != 0 || x.serv.kvN ≤ bits w 64 32 then s.taskFail 0x82 0
        else if x.serv.pfxVA.toNat = 0 then s.taskMade [(t.yd.toNat, 0)]
        else
          let t' := s.insTouches c (pr.map fun w => (bits w 0 64, bits w 64 32))
          s.servGo e t'.1 t'.2 fun s =>
            let r := pr.foldl
              (fun (a : State × Nat) w =>
                let i := a.1.pfxInsert c (bits w 0 64) (bits w 64 32)
                (i.1, a.2 + b2n i.2)) (s, 0)
            r.1.taskMade [(t.yd.toNat, w64 r.2)]

end Sys2Proof.Machine
end

