-- ==== Sys2Proof/Machine/Launch.lean ====
section
/-! DEFINITION. Gangs: the launch record (R159 to R161), its read, the Milliner's placement (R162), the state of a tile
instance at its start with the shape block and the operand block (R119, R164, R165, R235, R410), and the conditions of
issue that come before them (R190, R191, R227). -/
namespace Sys2Proof.Machine

/-! ## Conditions of issue -/

/-- The execution classes of R227. -/
inductive TClass where
  | D | H | E | F
  deriving DecidableEq, Repr

/-- The class of an opcode (R226). -/
def tliClass (opc : Nat) : TClass :=
  match opc with
  | 0x0C | 0x0D | 0x10 | 0x14 | 0x15 | 0x16 | 0x1C | 0x2C => .H
  | 0x18 | 0x22 => .F
  | 0x02 | 0x19 | 0x1D | 0x1E | 0x1F | 0x20 | 0x21 | 0x24 | 0x25 | 0x26 | 0x28 | 0x29 | 0x2A | 0x2D => .E
  | _ => .D

/-- The class of an entry. -/
def Entry.cls (e : Entry) : TClass := tliClass (tliOpc e.tli)

/-- Whether an entry probes operands of its own accord: every one but a TPROBE, which probes them itself (R239). -/
def Entry.probes (e : Entry) : Bool := tliOpc e.tli != 0x1C

/-- The entries of a context that are older than a task. -/
def Context.older (x : Context) (sn : Nat) : List Entry := x.entries.takeWhile fun e => e.sn != sn

/-- Conditions 1 to 4 of R190 for an entry, with R191 and R227. -/
def Context.meets14 (x : Context) (e : Entry) : Bool :=
  let old := x.older e.sn
  let head := e.cls == .E || e.cls == .F || e.ranges.any fun r => r.mode == .EXT
  !(x.entries.any fun f => e.deps.contains f.sn) && (!e.probes || e.ranges.length ≤ e.probed) && (!head || old.isEmpty) &&
    (!(e.ranges.any fun r => r.mode == .OUTP || r.mode == .INOUT) || old.all fun f => f.st == .done) &&
    !(old.any fun f => f.cls == .F)

/-! ## The launch record -/

/-- Field [lo + n − 1 : lo] of the 64-bit word at an offset of a record. -/
def recBits (b : List Byte) (off lo n : Nat) : Nat := bits (leNat ((b.drop off).take 8)) lo n

/-- A word of a record. -/
def recWord (b : List Byte) (off : Nat) : Word := w64 (recBits b off 0 64)

/-- A level word (R160). -/
structure Lev where
  dom : Nat
  scope : Nat
  count : Nat
  resv : Bool
  deriving DecidableEq, Repr

/-- The fields of a level word. -/
def levOf (w : Nat) : Lev := ⟨bits w 0 3, bits w 3 3, bits w 8 16, bits w 6 2 != 0 || bits w 24 40 != 0⟩

/-- NLEV, and the level words below it. -/
def recLevels (b : List Byte) : List Lev := (List.range (recBits b 0 16 4)).map fun k => levOf (recBits b (0x48 + 8 * k) 0 64)

/-- The tiles of a unit of a domain (R160). -/
def domTiles (d : Nat) : Nat :=
  match d with
  | 0 => 512
  | 1 => 128
  | 2 => 32
  | 3 => 4
  | 4 => 2
  | _ => 1

/-- The tiles of an instance of a scope (R6). -/
def scopeTiles (s : Nat) : Nat :=
  match s with
  | 0 => 1
  | 1 => 4
  | 2 => 128
  | _ => 512

/-- The smallest scope whose instance holds a unit of a domain (R160). -/
def domScope (d : Nat) : Nat :=
  match d with
  | 0 => 3
  | 1 | 2 => 2
  | 3 | 4 => 1
  | _ => 0

/-- R160: the levels below a parent, `none` above level 0. -/
def levelsOk : Option Lev → List Lev → Bool
  | _, [] => true
  | p, l :: ls =>
    !l.resv && l.dom != 7 && l.scope ≤ 4 && 1 ≤ l.count && (l.dom != 0 || l.count == 1) &&
      (match p with
       | none => l.dom != 6 && domScope l.dom ≤ l.scope && l.count ≤ scopeTiles l.scope / domTiles l.dom
       | some p =>
         p.dom < l.dom &&
           (if l.dom = 6 then p.dom == 5 && l.count ≤ 8 && ls.isEmpty
            else domScope p.dom ≤ l.scope && l.count ≤ domTiles p.dom / domTiles l.dom)) &&
      levelsOk (some l) ls

/-- SHOFF and SHLEN × 64 (R159). -/
def recShape (b : List Byte) : Nat × Nat := (recBits b 0x40 0 20, recBits b 0x40 32 11 * 64)

/-- R160, R161, R235: whether a record is valid for a TLAUNCH with n operands. -/
def recOk (b : List Byte) (n : Nat) : Bool :=
  let nl := recBits b 0 16 4
  let sh := recShape b
  1 ≤ nl && nl ≤ 7 && recBits b 0 20 12 == 0 && recBits b 0x28 32 32 == 0 && recBits b 0x38 16 48 == 0 &&
    recBits b 0x40 20 12 == 0 && recBits b 0x40 43 21 == 0 && recBits b 8 0 2 == 0 && recBits b 0x10 0 2 == 0 &&
    recBits b 0x18 3 61 == 0 && sh.1 % 64 == 0 && sh.2 ≤ 65536 && sh.1 + sh.2 + 32 * n ≤ 2 ^ 20 &&
    ((List.range (8 - nl)).all fun k => recBits b (0x48 + 8 * (nl + k)) 0 64 == 0) && levelsOk none (recLevels b)

/-- The oldest TLAUNCH whose record is to be read (R159, R190). -/
def Context.toRead (x : Context) : Option Entry :=
  x.entries.find? fun e => e.st == .wait && tliOpc e.tli == 0x14 && x.meets14 e

/-- Whether tasks of a context go on to be read, placed or issued (R197, R199). -/
def Context.issues (x : Context) : Bool := x.st == .run && x.resident && x.fatal.isNone && !x.destroying

/-- LAUNCH_RECORD_READ (R159, R160, R235). -/
def execLaunchRecordRead (s : State) : Out :=
  let c := s.cur.sub.ctx
  let x := s.ctx c
  match x.toRead with
  | none => .next s
  | some e =>
    let t := tliOf e.tli
    let v : VA := ⟨t.w3.truncate 16, tliImm t⟩
    if !x.issues then .next s
    else if v.off.toNat % 64 ≠ 0 then .next (s.failTask c e.sn 0x82 0x1F 0)
    else
      match s.vaRead c none 4 v 256 .r with
      | (s, .error (o, va)) => .next (s.fatalCtx c ((o.fatal true).getD .access) va (x.named e.sn))
      | (s, .ok b) =>
        let bs := b.map Prod.fst
        if b.any Prod.snd then .next ((s.hubConsumed c v 256).failTask c e.sn 0x85 0x1F 0)
        else if !recOk bs e.ranges.length then .next (s.failTask c e.sn 0x82 0x1F 0)
        else .next (s.updEntry c e.sn fun e => { e with st := .place, lrec := bs, placeAt := s.ticks })

/-! ## Placement -/

/-- The tiles of cluster n of a die, in ascending order. -/
def clTiles (d n : Nat) : List Nat := (List.range 4).map fun k => 128 * d + 4 * n + k

/-- The clusters of quad q of a die (R160). -/
def quadClusters (q : Nat) : List Nat :=
  (List.range 32).filter fun n => n % 8 / 4 == q % 2 && n / 8 / 2 == q / 2

/-- The units of a domain in ascending index order, die by die, each with its tiles in ascending order (R162). -/
def unitsOfDom (d : Nat) : List (List Nat) :=
  match d with
  | 0 => [List.range 512]
  | 1 => (List.range 4).map fun k => List.range' (128 * k) 128
  | 2 => (List.range 16).map fun k => (quadClusters (k % 4)).flatMap fun n => clTiles (k / 4) n
  | 3 => (List.range 128).map fun k => List.range' (4 * k) 4
  | 4 => (List.range 256).map fun k => List.range' (2 * k) 2
  | _ => (List.range 512).map fun k => [k]

/-- The units of a domain within a set of tiles. -/
def subUnits (d : Nat) (ts : List Nat) : List (List Nat) := (unitsOfDom d).filter fun u => u.all fun t => ts.contains t

/-- The placement of the levels below a unit with the tiles ts (R162): the tiles with their coordinates, in GRANK order. The
units of one parent are disjoint, so the first COUNT of those that can be placed are the lowest. -/
def placeIn (ok : Nat → Bool) : List Lev → List Nat → Option (List (Nat × List Nat))
  | [], ts =>
    if ts.all ok then some (if ts.length = 1 then ts.map fun t => (t, []) else ts.zipIdx.map fun p => (p.1, [p.2])) else none
  | l :: ls, ts =>
    let us := ((subUnits l.dom ts).filterMap (placeIn ok ls)).take l.count
    if us.length < l.count then none
    else some (us.zipIdx.flatMap fun u => u.1.map fun p => (p.1, u.2 :: p.2))

/-- A gang's placement on tiles that satisfy `ok`: the lowest instance of level 0's LSCOPE that can hold it (R160, R162). A
last level TILE has no implied coordinate. Units of one level compare by their number on the whole part: die by die, in a die cluster by
cluster, in a cluster tile by tile (DESIGN CHOICE, notes/assumptions/104.md). -/
def placeGang (ok : Nat → Bool) (ls : List Lev) : Option (List (Nat × List Nat)) :=
  match ls with
  | [] => none
  | l :: _ =>
    let n := scopeTiles l.scope
    (List.range (512 / n)).findSome? fun k => placeIn ok ls (List.range' (n * k) n)

/-- The placement levels of a record: all but GROUP. -/
def placeLevels (b : List Byte) : List Lev := (recLevels b).filter fun l => l.dom != 6

/-- Whether a tile belongs to a context's partition and has the features of a word (R158, R161). -/
def State.tileFits (s : State) (x : Context) (feat : Word) (t : Nat) : Bool :=
  x.part.contains (t / 4) && (s.tile t).featmask &&& feat == feat

/-- Whether a gang that has not ended, and is not swapped out, has a tile (R163). -/
def State.inGang (s : State) (t : Nat) : Bool := s.ctxs.any fun p => p.2.gangs.any fun g => !g.frozen && g.tiles.contains t

/-- Whether a tile may be handed to a context now (R119, R130, R163): no gang has it, and one that another context held has
no OPS access outstanding. -/
def State.tileFree (s : State) (c t : Nat) : Bool :=
  let x := s.tile t
  x.stat == .idle && !s.inGang t && (x.last == some c || x.last.isNone || (x.copyQ.isEmpty && x.opsIn.isEmpty))

/-- INITn of a TLAUNCH: its record's, or the scalar that replaces it (R235). -/
def initWord (e : Entry) (n : Nat) : Word :=
  if nbit (tliOf e.tli).w3.toNat (15 + n) then nth 0 e.sc (n - 1) else recWord e.lrec (0x80 + 8 * n)

/-- The registers of R165. -/
def initRegs (e : Entry) : SMap Word :=
  (List.range' 1 15).foldl (fun m n => if initWord e n = 0 then m else mput m n (initWord e n)) []

/-- A tile as the Milliner hands it over (R119, R164, R165): what it held in memory stands, to be cleared or undefined. -/
def Tile.handed (x : Tile) (c : Nat) (e : Entry) (rank : Nat) (coords : List Nat) : Tile :=
  let b := e.lrec
  let grp := (recLevels b).findIdx? fun l => l.dom == 6
  { Tile.reset with
    stat := .starting, ctx := c, last := x.last, task := e.sn
    entry := recWord b 8, traph := recWord b 0x10, prebnd := recBits b 0 32 32, feat := recWord b 0x18, wdog := recBits b 0x28 0 32
    xs := initRegs e
    csp := BitVec.ofNat 16 (recBits b 0 0 16)
    asp := (List.range 4).map fun k => (k, BitVec.ofNat 16 (recBits b 0x20 (16 * k) 16))
    featmask := x.featmask
    lvid := coords.zipIdx.map fun p => (p.2, w64 p.1)
    lvGroup := grp
    grank := w64 rank
    seqs := List.replicate 8 ⟨recWord b 8, false, []⟩
    spad := x.spad, spadBad := x.spadBad, spadUndef := x.spadUndef, acc := x.acc, accBad := x.accBad, accUndef := x.accUndef
    copyQ := x.copyQ, copyId := x.copyId, opsIn := x.opsIn }

/-- R119: the memory of a tile at hand-over: undefined where its context held it last, else zero. Its spans in the cluster's
operand buffer go (R128). -/
def State.handMem (s : State) (c t : Nat) : State :=
  let s := s.updCluster (t / 4) fun q => { q with opbuf := q.opbuf.filter fun p => p.1 != t % 4 }
  if (s.tile t).last = some c then (s.undefine (.spad t) 0 (2 ^ 20)).undefine (.acc t) 0 (2 ^ 18)
  else
    s.updTile t fun x =>
      { x with spad := [], spadBad := [], spadUndef := [], acc := [], accBad := [], accUndef := [] }

/-- The hand-over of a placed gang's tiles. -/
def State.handTiles (s : State) (c : Nat) (e : Entry) (ps : List (Nat × List Nat)) : State :=
  ps.zipIdx.foldl
    (fun s p => (s.handMem c p.1.1).updTile p.1.1 fun x => ({ x with last := some c } : Tile).handed c e p.2 p.1.2) s

/-- What the Milliner decides for an entry in PLACE. -/
inductive Placing where
  | gang (ps : List (Nat × List Nat))
  | later
  | never
  deriving DecidableEq, Repr

/-- R162 for one entry. -/
def State.placing (s : State) (c : Nat) (e : Entry) : Placing :=
  let x := s.ctx c
  let ls := placeLevels e.lrec
  let fits := s.tileFits x (recWord e.lrec 0x18)
  match placeGang (fun t => fits t && s.tileFree c t) ls with
  | some ps => .gang ps
  | none => if (placeGang fits ls).isNone then .never else .later

/-- The first entry in PLACE that the Milliner can decide; an older one that has waited 100 µs holds back the younger. -/
def State.nextPlacing (s : State) (c : Nat) : List Entry → Option (Entry × Placing)
  | [] => none
  | e :: es =>
    if e.st != .place || e.placed then s.nextPlacing c es
    else
      match s.placing c e with
      | .later => if e.blocks then none else s.nextPlacing c es
      | p => some (e, p)

/-- GANG_PLACEMENT (R162). -/
def execGangPlacement (s : State) : Out :=
  let c := s.cur.sub.ctx
  let x := s.ctx c
  if s.tripped || !x.issues || x.preempting || x.swapped then .next s
  else
    match s.nextPlacing c x.entries with
    | some (e, .gang ps) =>
      let s := s.handTiles c e ps
      let g : Gang := ⟨e.sn, ps.map Prod.fst, (recLevels e.lrec).map (·.count), false, false, []⟩
      .next ((s.updEntry c e.sn fun e => { e with placed := true }).updCtx c fun x => { x with gangs := x.gangs ++ [g] })
    | some (e, .never) => .next (s.failTask c e.sn 0x84 0x1F 0)
    | _ => .next s

/-- PLACE_WAIT_EXPIRY (R162): an unplaced gang that has waited 100 µs holds back the younger ones from now on. -/
def execPlaceWaitExpiry (s : State) : Out :=
  .next
    (s.updCx fun x =>
      { x with
        entries := x.entries.map fun e =>
          if e.st = .place ∧ !e.placed ∧ e.placeAt + 100 ≤ s.ticks then { e with blocks := true } else e })

/-! ## The start of an instance -/

/-- The operand block (R235). -/
def Context.operandBlock (x : Context) (e : Entry) : List Byte :=
  e.ranges.flatMap fun r =>
    leBytes 16 (x.rangeVA r).toNat ++ leBytes 8 r.len ++
      leBytes 8 (match r.mode with
        | .IN => 0
        | .OUT => 1
        | .OUTP => 2
        | .INOUT => 3
        | .EXT => 4)

/-- The tiles of a gang go when the blocks of all of them are written (R410). -/
def State.startGang (s : State) (c sn : Nat) : State :=
  if s.tiles.any fun p => p.2.ctx == c && p.2.task == sn && p.2.stat == .starting then s
  else
    { s with
      tiles := mmap (fun _ x => if x.ctx = c ∧ x.task = sn ∧ x.stat = .loaded then { x with stat := .running } else x) s.tiles }

/-- R154: what stands in the history of a task has happened for a tile of its gang. -/
def State.launchSees (s : State) (t : Nat) : State := s.tileLearn t fun u => u.tasks.contains (s.tile t).task

/-- TILE_INSTANCE_START (R165, R235): the shape block, then the operand block; poison is carried (R109). -/
def execTileStart (t : Nat) (s : State) : Out :=
  let x := s.tile t
  let c := x.ctx
  match (s.ctx c).entry x.task with
  | none => .next s
  | some e =>
    if x.stat != .starting || e.st != .run || !e.started then .next s
    else
      -- code written before the launch is fetched as written (R153); what came before the task has happened (R154)
      let s := (s.updTile t fun x => { x with icache := [] }).launchSees t
      let sh := recShape e.lrec
      match s.vaRead c none 4 (VA.ofNat (leNat ((e.lrec.drop 0x30).take 10))) sh.2 .r with
      | (s, .error (o, va)) => .next (s.fatalCtx c ((o.fatal true).getD .access) va ((s.ctx c).named e.sn))
      | (s, .ok b) =>
        let ob := ((s.ctx c).operandBlock e).map fun b => (b, false)
        let s := s.storeRaw (.spad t) sh.1 (b ++ ob) c
        .next ((s.updTile t fun x => { x with stat := .loaded }).startGang c e.sn)

end Sys2Proof.Machine
end

