-- ==== Sys2Proof/Machine/Course.lean ====
section
/-! DEFINITION. The course of tasks and contexts: operand probes (R51 to R53, R190), issue (R190, R197), completion and
retire (R192), task faults and fatal context errors (R194, R195), the arbitration of slots (R198), and the loading of a
context (R199). -/
namespace Sys2Proof.Machine

/-! ## Operand probes -/

/-- The kind of an operand probe (R45, R188). -/
def Range.acc (r : Range) : Acc := match r.mode with
  | .IN => .r
  | .OUT | .OUTP => .w
  | .INOUT | .EXT => .rw

/-- The first range of an entry not yet probed, with its number. -/
def Entry.toProbe (e : Entry) : Option (Nat × Range) :=
  if e.st == .wait && e.probes then (e.ranges[e.probed]?).map fun r => (e.probed, r) else none

/-- One operand probe tried (R50, R51, R53): the state, and whether it got anywhere. -/
def State.probeOperand (s : State) (c : Nat) (e : Entry) (k : Nat) (r : Range) : State × Bool :=
  let x := s.ctx c
  let ext := r.mode == .EXT
  match s.hubProbe c (x.rangeVA r) r.len r.acc ext e.sn with
  | (s, .ok) => (s.updEntry c e.sn fun e => { e with probed := e.probed + 1 }, true)
  | (s, .again) => (s, false)
  | (s, .far va) => if s.promoPending c (s.failPage c va) then (s, false) else (s.requestPromotion c va none, true)
  | (s, .fault fva) => (s.failTask c e.sn 0x80 k fva, true)
  | (s, .fatal cause fva) => (s.fatalCtx c cause fva (some (e.addr.toNat, e.sn, k)), true)

/-- The first operand, in entry order, whose probe gets anywhere; one that waits for its page lets the next begin. -/
def State.probeFirst (s : State) (c : Nat) : List Entry → State
  | [] => s
  | e :: es =>
    match e.toProbe with
    | none => s.probeFirst c es
    | some (k, r) =>
      match s.probeOperand c e k r with
      | (s, true) => s
      | (s, false) => s.probeFirst c es

/-- OPERAND_PROBE (R190). -/
def execOperandProbe (s : State) : Out :=
  let x := s.cx
  .next (if x.issues then s.probeFirst s.cur.sub.ctx x.entries else s)

/-! ## Issue -/

/-- Whether an entry meets conditions 1 to 5 of R190. -/
def Context.mayIssue (x : Context) (e : Entry) : Bool :=
  x.meets14 e && ((e.st == .wait && tliOpc e.tli != 0x14) || (e.st == .place && e.placed))

/-- The entry that a context issues next; while it drains, only one whose gang has tiles. -/
def Context.toIssue (x : Context) : Option Entry :=
  if x.issues then x.entries.find? x.mayIssue
  else if x.st == .draining && x.fatal.isNone then x.entries.find? fun e => x.mayIssue e && e.placed
  else none

/-- TASK_ISSUE (R154, R190, R197, R227): a TLI of class D has all of its effect already. -/
def execTaskIssue (s : State) : Out :=
  match s.cx.toIssue with
  | none => .next s
  | some e =>
    .next
      ((s.updCx fun x =>
        { x.updEntry e.sn fun e => { e with st := if e.cls = .D then .done else .run } with defIss := x.defIss - 1 }).taskLearn
          s.cur.sub.ctx e.sn e.deps (e.ranges.any fun r => r.mode == .EXT))

/-! ## Completion -/

/-- Whether a page that a TMIGR waits for is queued or in transit (R240). -/
def State.migrating (s : State) (c : Nat) (e : Entry) : Bool :=
  (s.transit.any fun r => r.ctx == c && e.asked.contains r.va) ||
    (s.promoQ ++ s.stagedQ ++ s.demoQ).any fun q => q.ctx == c && e.asked.contains q.va

/-- Whether the work of a task is complete (R192). -/
def State.workDone (s : State) (c : Nat) (e : Entry) : Bool :=
  e.st == .run && e.started &&
    (match tliOpc e.tli with
     | 0x14 => s.gangEnded c e.sn
     | 0x1D => !s.migrating c e
     | _ => true)

/-- A pending scalar takes a task's value, unless a younger task writes it (R185). -/
def Context.landY (x : Context) (sn : Nat) (p : Nat × Word) : Context :=
  if x.yPend.contains (p.1, sn) then
    { x with yPend := x.yPend.filter (· != (p.1, sn)), dv := { x.dv with ys := mput x.dv.ys p.1 p.2 } }
  else x

/-- TASK_DONE (R185, R192) of task `sub.n`. -/
def execTaskDone (s : State) : Out :=
  let c := s.cur.sub.ctx
  let sn := s.cur.sub.n
  match s.cx.entry sn with
  | none => .next s
  | some e =>
    if !s.workDone c e then .next s
    else
      .next
        (s.updCx fun x =>
          let x := x.updEntry sn fun e => { e with st := .done }
          let x := { x with gangs := x.gangs.filter fun g => g.sn != sn }
          e.res.foldl (fun x p => x.landY sn p) x)

/-! ## Retire -/

/-- A name of RMAP passes to a buffer; the one that it named is superseded. -/
def Context.rebind (x : Context) (n : Nat) (b : Option Binding) : Context :=
  let old := mget? x.rv.map n
  let m := match b with
    | some b => mput x.rv.map n b
    | none => mdel x.rv.map n
  let x := { x with rv := { x.rv with map := m } }
  match old with
  | some o => x.supersede o.buf
  | none => x

/-- The call stack of the retire view after an entry (R184, R232). -/
def Entry.retireStack (e : Entry) (l : List Word) : List Word :=
  match tliOpc e.tli with
  | 0x05 => (e.addr + w64 (16 * tliUnits (tliOf e.tli).opnds.length)) :: l
  | 0x06 => l.tail
  | _ => l

/-- R192's retire of the oldest entry of a context. -/
def Context.retire (x : Context) (e : Entry) : Context :=
  let x := (e.ranges.filter fun r => r.mode == .OUT).foldl (fun x r => x.rebind r.name (some ⟨r.buf, r.len⟩)) x
  let x := match e.dealloc with
    | some n => x.rebind n none
    | none => x
  let ys := e.res.foldl (fun m p => mput m p.1 p.2) x.rv.ys
  let es := x.entries.tail
  let pos := match es with
    | f :: _ => f.addr
    | [] => x.dv.pos
  let x := { x with entries := es, rv := { x.rv with ys := ys, pos := pos, stack := e.retireStack x.rv.stack } }
  let x := e.ranges.foldl Context.endUse x
  { x with
    holds := x.holds.filter fun h => h.sn != e.sn
    st := if tliOpc e.tli = 0x01 then .halted else x.st }

/-- The contents of the buffers of a context that have come to its free lists are undefined (R187). -/
def State.undefFreed (s : State) (c : Nat) (old : Context) : State :=
  let x := s.ctx c
  x.free.foldl
    (fun s p => (p.2.filter fun i => !(old.freeList p.1).contains i).foldl
      (fun s i => s.undefineVA c (x.bufVA ⟨p.1, i⟩).toNat (clsBytes p.1)) s) s

/-- TASK_RETIRE (R192, R199): the oldest entry retires once it is DONE. -/
def execTaskRetire (s : State) : Out :=
  .next
    (match s.cx.entries with
     | [] => s
     | e :: _ =>
       if s.cx.st = .run ∧ s.cx.fatal.isNone ∧ e.st = .done then (s.updCx fun x => x.retire e).undefFreed s.cur.sub.ctx s.cx else s)

/-! ## Task faults -/

/-- R194: one entry discarded: its renamed buffers return in reverse operand order, its uses end. -/
def Context.discard (x : Context) (e : Entry) : Context :=
  let x := ((e.ranges.filter fun r => r.mode == .OUT).reverse).foldl (fun x r => x.pushFree r.buf) x
  e.ranges.foldl Context.endUse x

/-- R194: every entry discarded, youngest first; the decode view is the retire view again, at an address. -/
def Context.rollback (x : Context) (pos : Word) : Context :=
  let x := x.entries.reverse.foldl Context.discard x
  { x with
    entries := [], gangs := [], holds := [], yPend := [], decStop := false
    dv := { x.rv with pos := pos } }

/-- R194: the gangs of a context's entries are ended; the state, and whether each has come to its end. -/
def State.stopGangs (s : State) (c : Nat) : State × Bool :=
  let gs := (s.ctx c).gangs
  let s := (gs.filter fun g => !g.ending).foldl (fun s g => s.killGang c g.sn none) s
  (s, gs.all fun g => s.gangEnded c g.sn)

/-- R50: after a probe fault the firmware promotes the failing page, if it is far; what else its policy may do the host's
commands do (notes/assumptions/78.md). -/
def State.promoteFault (s : State) (c code fva : Nat) : State :=
  if code = 0x80 ∧ ((s.leaf c fva).any fun e => (farOf (pteTier e)).isSome) = true then s.requestPromotion c fva none else s

/-- TAKE_FAULT (R194, R195): the oldest unretired entry is in FAULT: every gang is ended, and once all have come to their
ends the fault takes effect. -/
def execTakeFault (s : State) : Out :=
  let c := s.cur.sub.ctx
  let x := s.ctx c
  match x.entries with
  | [] => .next s
  | e :: _ =>
    match e.fault with
    | none => .next s
    | some (code, opnd, fva) =>
      if x.st != .run || x.fatal.isSome then .next s
      else
        let r := s.stopGangs c
        if !r.2 then .next r.1
        else
          .next
            ((r.1.updCx fun x =>
              { x.rollback e.addr with
                st := .faulted, frec := ⟨e.addr, code, opnd, false, e.sn, fva, e.frameOff, s.ticks⟩ }).promoteFault c code fva)

/-! ## The end of a context -/

/-- FATAL_CONTEXT_ERROR (R194, R195, R199, R380); a DEAD context leaves residency once its tiles are done. -/
def execFatalContextError (s : State) : Out :=
  let c := s.cur.sub.ctx
  let x := s.ctx c
  match x.fatal with
  | none => .next s
  | some (cause, fva, who) =>
    if x.st = .dead then .next (s.leaveDead c)
    else
      let s := (s.stopGangs c).1
      let w := who.getD (0, 0, 0x1F)
      let s := s.updCx fun x =>
        { x.rollback x.rv.pos with
          st := .dead, frec := ⟨w64 w.1, causeCode cause, w.2.2, true, w.2.1, fva, 0, s.ticks⟩ }
      .next (s.leaveDead c)

/-! ## Arbitration (R198) -/

/-- Whether a TLI fetch of a context gets anywhere, and no stall of R183 holds. -/
def State.canDecode (s : State) (c : Nat) : Bool :=
  let x := s.ctx c
  x.decodes && x.fatal.isNone && !(x.entries.any fun e => e.st == .fault) && !s.windowFull c &&
    (match s.fetchTli c with
     | .words ws =>
       match decodeTli ws with
       | .instr i =>
         match s.gate c i with
         | .stall _ => false
         | _ => true
       | _ => true
     | .far va => !s.promoPending c (s.failPage c va)
     | _ => true)

/-- Whether a context may issue a task. -/
def State.canIssue (s : State) (c : Nat) : Bool := (s.ctx c).toIssue.isSome

/-- The resident contexts in ascending order of their slots. -/
def State.residents (s : State) : List Nat :=
  ((s.ctxs.filter fun p => p.2.resident).mergeSort fun a b => a.2.rslot ≤ b.2.rslot).map Prod.fst

/-- Whether a context has a slot left in its turn. -/
def State.hasTurn (s : State) (dec : Bool) (c : Nat) : Bool :=
  if dec then 1 ≤ (s.ctx c).defDec && s.canDecode c else 1 ≤ (s.ctx c).defIss && s.canIssue c

/-- The start of a context's turn: its deficit grows if it is eligible, and is 0 if not. -/
def State.turnStart (s : State) (dec : Bool) (c : Nat) : State :=
  let el := if dec then s.canDecode c else s.canIssue c
  s.updCtx c fun x =>
    let q := nth 0 s.cf x.pclass * x.weight
    if dec then { x with defDec := if el then x.defDec + q else 0 } else { x with defIss := if el then x.defIss + q else 0 }

/-- Turns start along a list until a context has one to use; the rest of the round. -/
def State.turns (s : State) (dec : Bool) : List Nat → State × List Nat
  | [] => (s, [])
  | c :: cs =>
    let s := s.turnStart dec c
    if s.hasTurn dec c then (s, c :: cs) else s.turns dec cs

/-- The next turn of a kind, in a new round if this one is over; nothing while the present turn goes on. -/
def State.nextTurn (s : State) (dec : Bool) : State × List Nat :=
  let l := if dec then s.turnDec else s.turnIss
  if l.head?.any (s.hasTurn dec) then (s, l)
  else
    match s.turns dec l.tail with
    | (s, []) => s.turns dec s.residents
    | r => r

/-- ARBITRATION_ROUND (R198): the next turn of each kind. -/
def execArbitrationRound (s : State) : Out :=
  let r := s.nextTurn true
  let s := { r.1 with turnDec := r.2 }
  let r := s.nextTurn false
  .next { r.1 with turnIss := r.2 }

/-! ## Loading -/

/-- The clusters that contexts hold. -/
def State.heldClusters (s : State) : List Nat := s.ctxs.flatMap fun p => p.2.part

/-- Whether a context's clusters are free. -/
def State.partFree (s : State) (c : Nat) : Bool := (s.ctx c).want.all fun k => !s.heldClusters.contains k

/-- The lowest free resident slot of 64 (R157). -/
def State.freeSlot (s : State) : Option Nat :=
  (List.range 64).find? fun k => !(s.ctxs.any fun p => p.2.resident && p.2.rslot == k)

/-- Whether the pool of window entries takes a context's saved entries beside the reserves of all residents (R181). -/
def State.poolTakes (s : State) (c : Nat) : Bool :=
  (((s.ctxs.filter fun p => p.2.resident).map fun p => max 8 p.2.entries.length).sum + max 8 (s.ctx c).entries.length) ≤ 4096

/-- Whether a QUEUED context can become resident now (R158, R181, R199); and in which slot. -/
def State.loadSlot (s : State) (c : Nat) : Option Nat :=
  if (s.ctx c).st = .queued ∧ (s.ctx c).destroying = false ∧ s.partFree c = true ∧ s.poolTakes c = true then s.freeSlot else none

/-- R199: the FAULTED context that the firmware makes non-resident for a QUEUED one that it keeps out; none of its tiles is
in use (notes/assumptions/78.md). -/
def State.faultedIdle (s : State) (c : Nat) : Option Nat :=
  if (s.ctx c).st = .queued ∧ (s.ctx c).destroying = false then
    s.residents.find? fun k =>
      (s.ctx k).st == .faulted && !s.inUse k && !(s.ctx k).preempting && !(s.ctx k).destroying &&
        (s.freeSlot.isNone || !s.poolTakes c || (s.ctx k).part.any fun n => (s.ctx c).want.contains n)
  else none

/-- CONTEXT_LOAD (R158, R199): a QUEUED context becomes resident with its partition; one whose gangs are swapped out takes
its clusters when its partition resumes. One that cannot yet makes a FAULTED context leave. -/
def execContextLoad (s : State) : Out :=
  let c := s.cur.sub.ctx
  match s.loadSlot c, s.faultedIdle c with
  | some k, _ =>
    .next
      (s.updCx fun x =>
        { x with
          st := .run, resident := true, residentAt := s.time, rslot := k, part := if x.swapped then [] else x.want })
  | none, some k => .next (s.setAside k .faulted)
  | none, none => .next s

end Sys2Proof.Machine
end

