-- ==== Sys2Proof/Machine/Preempt.lean ====
section
/-! DEFINITION. Pre-emption of partitions (R383 to R387): the out-swap of a die's tiles to the shadow store, its drain,
resume, and the reclaiming of clusters for a context of higher priority. -/
namespace Sys2Proof.Machine

/-! ## Out-swap -/

/-- The tiles of a die that hold instances of a context. -/
def State.ctxTiles (s : State) (c d : Nat) : List Nat :=
  (s.tiles.filter fun p => p.2.ctx == c && p.2.stat != .idle && tileDie p.1 == d).map Prod.fst

/-- Whether a tile is ready for the out-swap (R384, R385): it has frozen, or its instance is ending; no transfer accepted
at its router port is still to be made; it has no cause that ends its kernel, and its gang is not being ended. -/
def State.swapReady (s : State) (t : Nat) : Bool :=
  let x := s.tile t
  (x.stat == .frozen || x.stat == .held || x.stat == .ending) && x.opsIn.isEmpty && !(x.copyQ.any fun k => k.phase == 2) &&
    !s.killed t && !(x.raised.any fun r => causeClass r.cause != 2)

/-- Whether the idle tiles of a die in a partition have no copies left. -/
def State.idleQuiet (s : State) (x : Context) (d : Nat) : Bool :=
  !(s.tiles.any fun p => tileDie p.1 == d && x.part.contains (p.1 / 4) && p.2.stat == .idle && !p.2.copyQ.isEmpty)

/-- A tile as it is left when its instance has been saved: its memory stands until it is handed over. -/
def Tile.swappedOut (x : Tile) : Tile :=
  { Tile.reset with
    last := some x.ctx, featmask := x.featmask, copyId := x.copyId
    spad := x.spad, spadBad := x.spadBad, spadUndef := x.spadUndef, acc := x.acc, accBad := x.accBad, accUndef := x.accUndef }

/-- The number of a tile of a task in the context save area, by its GRANK. -/
def savedTile (sn grank : Nat) : Nat := 4096 + 1024 * sn + grank

/-- R385 step 3: tile t's state saved with its gang, and the tile released. -/
def State.saveTile (s : State) (c t : Nat) : State :=
  let x := s.tile t
  let s := s.updCtx c fun q =>
    { q with gangs := q.gangs.map fun g => if g.sn = x.task then { g with frozen := true, saved := g.saved ++ [x] } else g }
  (s.updTile t Tile.swappedOut).retile c t (savedTile x.task x.grank.toNat)

/-- The clusters of a partition saved with their leases and stationary buffers (R386). -/
def State.saveClusters (s : State) (c : Nat) (ks : List Nat) : State :=
  ks.foldl
    (fun s k =>
      if (mget? (s.ctx c).savedCl k).isSome then s
      else (s.updCtx c fun x => { x with savedCl := mput x.savedCl k (s.cluster k) }).updCluster k fun _ => Cluster.reset) s

/-- R197: the entries of the gangs that are swapped out. A gang whose instances have all ended is not. -/
def Context.freezeEntries (x : Context) : Context :=
  { x with
    entries := x.entries.map fun e =>
      if e.st = .run ∧ (x.gang e.sn).any (fun g => g.frozen) = true then { e with st := .frozen } else e }

/-- The pre-emption of a partition ends when no tile holds an instance of its context. -/
def State.swapEnd (s : State) (c : Nat) : State :=
  if s.tiles.any fun p => p.2.ctx == c && p.2.stat != .idle then s
  else
    (s.saveClusters c (s.ctx c).part).updCtx c fun x =>
      { x.freezeEntries with preempting := false, swapped := true, part := [] }

/-- OUT_SWAP (R118, R385, R386): the tiles of a context on a die, once the last of them has frozen and the die's shadow
store is free. The first 16 stand in its slots, further ones in the context save area. -/
def execOutSwap (s : State) : Out :=
  let c := s.cur.sub.ctx
  let d := s.cur.sub.die
  let x := s.ctx c
  let ts := s.ctxTiles c d
  if !x.preempting || x.fatal.isSome || !ts.all s.swapReady || !s.idleQuiet x d then .next s
  else if ts.isEmpty then .next (s.swapEnd c)
  else if (s.die d).shadow.isSome then .next s
  else
    let slots := (ts.take 16).map fun t => (⟨(s.tile t).task, (s.tile t).grank.toNat⟩ : ShadowSlot)
    let s := ts.foldl (fun s t => s.saveTile c t) s
    let s := s.saveClusters c (x.part.filter fun k => k / 32 == d)
    .next ((s.updDie d fun q => { q with shadow := some c, slots := slots }).swapEnd c)

/-- SHADOW_DRAIN (R387): what the shadow store of a die held stands in the context save area; the store is free. -/
def execShadowDrain (s : State) : Out := .next (s.updDie s.cur.sub.die fun q => { q with shadow := none, slots := [] })

/-! ## Resume -/

/-- The gangs of a context that were swapped out and can be placed again now, each by itself, in order (R163, R387): each with its
new tiles in GRANK order. One that finds no room is tried again later. -/
def State.replace (s : State) (c : Nat) (taken : List Nat) : List Gang → List (Gang × List Nat)
  | [] => []
  | g :: gs =>
    match (if g.frozen then (s.ctx c).entry g.sn else none) with
    | none => s.replace c taken gs
    | some e =>
      let x := { s.ctx c with part := (s.ctx c).want }
      let ok (t : Nat) : Bool := s.tileFits x (recWord e.lrec 0x18) t && s.tileFree c t && !taken.contains t
      match placeGang ok (placeLevels e.lrec) with
      | none => s.replace c taken gs
      | some ps => (g, ps.map Prod.fst) :: s.replace c (taken ++ ps.map Prod.fst) gs

/-- A saved tile restored in a tile with these features (R375, R387): one that pre-emption alone had stopped goes on in the
first cycle after the restore; one that was frozen, held or in its end stays so. -/
def Tile.restored (x : Tile) (feats : Word) : Tile :=
  let x := { x with featmask := feats, l1 := [], icache := [], preSig := none }
  if x.stat == .frozen && x.raised.isNone then
    { (({ x with latches := [] } : Tile).redeliver (x.clk + 1) x.latches).resumeAt (x.clk + 1) 0 8 with goesAt := x.clk + 1 }
  else x

/-- A restored tile with what the tile that takes it has still to do: copies that have outlived their instance (R129), before its
own, and OPS writes accepted there (R130). -/
def Tile.over (x old : Tile) : Tile :=
  { x with
    copyQ := old.copyQ ++ x.copyQ.map fun c => { c with id := c.id + old.copyId }
    copyId := old.copyId + x.copyId, opsIn := old.opsIn ++ x.opsIn }

/-- The saved tiles of a gang restored in its new tiles. -/
def State.restoreGang (s : State) (c : Nat) (g : Gang) (ts : List Nat) : State :=
  let s := g.saved.foldl
    (fun s x =>
      let t := nth 0 ts x.grank.toNat
      -- what the operand buffer holds of the tile is gone (R128)
      ((s.setTile t ((x.restored (s.tile t).featmask).over (s.tile t))).updCluster (t / 4) fun k =>
        { k with opbuf := k.opbuf.filter fun e => e.1 != t % 4 }).retile c (savedTile g.sn x.grank.toNat) t) s
  s.updCtx c fun x =>
    { x with gangs := x.gangs.map fun q => if q.sn = g.sn then { q with tiles := ts, frozen := false, saved := [] } else q }

/-- Where each tile that held a lease or waited for one now is: old and new tile. -/
def tileMoves (r : List (Gang × List Nat)) : List (Nat × Nat) := r.flatMap fun p => p.1.tiles.zip p.2

/-- A cluster's saved state for the tiles that have moved from cluster k to cluster n, over what n has of others: a lease
that n already holds leaves this one's holder waiting. -/
def Cluster.moved (q : Cluster) (ms : List (Nat × Nat)) (k n : Nat) (into : Cluster) : Cluster :=
  let here (i : Nat) : Option Nat := (ms.find? fun m => m.1 == 4 * k + i && m.2 / 4 == n).map fun m => m.2 % 4
  let bit (i : Nat) : BitVec 4 := (1 : BitVec 4) <<< i
  let req := (List.range 4).foldl
    (fun (r : BitVec 4) i => if q.req.getLsbD i then (match here i with
      | some j => r ||| bit j
      | none => r) else r) into.req
  match (if q.held then here q.holder else none) with
  | none =>
    -- without the lease, the counts and the last grant of a cluster that has none of its own yet
    if into.held || into.lastGrant.isSome || into.round != 0 || into.mchit != 0 || into.mcmiss != 0 then { into with req := req }
    else
      { into with
        req := req, round := q.round, mchit := q.mchit, mcmiss := q.mcmiss, arrLeft := q.arrLeft
        lastGrant := q.lastGrant.bind here }
  | some j =>
    if into.held then { into with req := req ||| bit j }
    else { q with req := req, holder := j, opbuf := [], sbOwner := q.sbOwner.bind here, lastGrant := some j }

/-- A free lease that a tile waits for is granted to it: the tile that held it is in another cluster now (R175, R180). -/
def Cluster.settled (q : Cluster) : Cluster :=
  if q.held then q
  else
    match ((List.range 4).map fun k => ((q.lastGrant.getD 3) + 1 + k) % 4).find? fun i => q.req.getLsbD i with
    | some i => q.grant i
    | none => q

/-- The clusters' saved state restored with the tiles (R387). -/
def State.restoreClusters (s : State) (c : Nat) (ms : List (Nat × Nat)) : State :=
  let s := (s.ctx c).savedCl.foldl
    (fun s p =>
      (((ms.filter fun m => m.1 / 4 == p.1).map fun m => m.2 / 4).eraseDups).foldl
        (fun s n => s.updCluster n fun into => p.2.moved ms p.1 n into) s) s
  ((ms.map fun m => m.2 / 4).eraseDups).foldl (fun s n => s.updCluster n Cluster.settled) s

/-- The state that a step answers, or another. -/
def nextOr (s : State) : Out → State
  | .next t => t
  | _ => s

/-- R29: an OPS access that waited for tiles to resume is applied to them before their first bundles: the copies that wait to
start do, and what they write lands. -/
def State.applyHeld (s : State) (ts : List Nat) : State :=
  let s := ts.foldl (fun s t => nextOr s (execCopyStart t s)) s
  ts.foldl (fun s t => (List.range (s.tile t).opsIn.length).foldl (fun s _ => nextOr s (execOpsWriteLand t s)) s) s

/-- Whether a context's partition may come back (R163, R387): its clusters are free, or its own already and a gang waits for
room. -/
def State.mayResume (s : State) (c : Nat) : Bool :=
  let x := s.ctx c
  !s.tripped && x.resident && !x.preempting && x.st != .draining && x.st != .dead &&
    (if x.swapped then s.partFree c else x.gangs.any (·.frozen))

/-- PARTITION_RESUME (R163, R387): a partition whose clusters are free comes back, with each gang that can be placed. -/
def execPartitionResume (s : State) : Out :=
  let c := s.cur.sub.ctx
  if !s.mayResume c then .next s
  else
    let r := s.replace c [] (s.ctx c).gangs
    let s := r.foldl (fun s p => s.restoreGang c p.1 p.2) s
    let s := s.restoreClusters c (tileMoves r)
    let s := s.updCx fun x =>
      let whole := !(x.gangs.any (·.frozen))
      { x with
        part := x.want, swapped := false, savedCl := if whole then [] else x.savedCl
        entries := x.entries.map fun e => if e.st = .frozen ∧ (x.gang e.sn).any (fun g => g.frozen) = false then { e with st := .run } else e }
    let s := if (s.ctx c).gangs.any (·.frozen) then s
      else { s with dies := mmap (fun _ d => if d.shadow = some c then { d with shadow := none, slots := [] } else d) s.dies }
    .next (s.applyHeld (r.flatMap Prod.snd))

/-! ## Reclaiming -/

/-- Whether a context waits for clusters that are not free (R383): to leave QUEUED or to resume. -/
def State.waitsForPart (s : State) (c : Nat) : Bool :=
  let x := s.ctx c
  (x.st == .queued || (x.swapped && x.resident)) && !s.partFree c

/-- The partition that is pre-empted first for a context: of the greatest class, then of the longest resident. -/
def State.victim (s : State) (c : Nat) : Option Nat :=
  let cl := (s.ctx c).pclass
  (s.ctxs.foldl
    (fun (r : Option (Nat × Nat × Nat)) p =>
      if !p.2.resident || p.2.part.isEmpty || p.2.pclass ≤ cl then r
      else
        match r with
        | none => some (p.1, p.2.pclass, p.2.residentAt)
        | some q => if q.2.1 < p.2.pclass ∨ (q.2.1 = p.2.pclass ∧ p.2.residentAt < q.2.2) then
            some (p.1, p.2.pclass, p.2.residentAt) else r) none).map Prod.fst

/-- CLUSTER_RECLAIM (R383): one partition at a time. -/
def execClusterReclaim (s : State) : Out :=
  let c := s.cur.sub.ctx
  if !s.waitsForPart c || (s.ctxs.any fun p => p.2.preempting) then .next s
  else
    match s.victim c with
    | none => .next s
    | some v => .next (s.updCtx v fun x => { x with preempting := true })

end Sys2Proof.Machine
end

