-- ==== Sys2Proof/Machine/Host.lean ====
section
/-! DEFINITION. The host ports: command mailboxes and their protocol (R389 to R391), the commands of contexts (R186, R196,
R199, R377, R378, R392), and the end of a context (R17, R199). -/
namespace Sys2Proof.Machine

/-! ## Mailboxes -/

/-- A command mailbox: m of port p has number 16 × p + m. -/
def State.mbx (s : State) (m : Nat) : Mailbox := mget Mailbox.reset s.mbxs m

/-- The state with a mailbox changed. -/
def State.updMbx (s : State) (m : Nat) (f : Mailbox → Mailbox) : State := { s with mbxs := mput s.mbxs m (f (s.mbx m)) }

/-- ARGk of a mailbox. -/
def Mailbox.arg (m : Mailbox) (k : Nat) : Word := mget 0 m.args k

/-- Bytes of a mailbox's payload. -/
def Mailbox.bytes (m : Mailbox) (off n : Nat) : List Byte := Memory.read m.payload off n

/-- A write to a mailbox register (R390). -/
def Mailbox.put (m : Mailbox) (off : Nat) (v : Word) : Mailbox :=
  if off = 0 then { m with opc := v.truncate 16, ien := v.getLsbD 16, ctx := (v >>> 32).truncate 16 }
  else if off < 0x40 then { m with args := mput m.args (off / 8 - 1) v }
  else if 0x100 ≤ off ∧ off < 0x1000 then { m with payload := Memory.write m.payload (off - 0x100) (leBytes 8 v.toNat) }
  else m

/-- The STATUS codes (R390). -/
def Status.code (c : Status) : Nat :=
  match c with
  | .ok => 0
  | .busy => 1
  | .reject => 2
  | .noctx => 3
  | .badcmd => 4
  | .auth => 5

/-- What the host reads at a mailbox register (R390); none where R390 gives it nothing to read. -/
def Mailbox.get (m : Mailbox) (off : Nat) : Option Word :=
  if off = 0 then some (w64 (m.opc.toNat + b2n m.ien * 2 ^ 16 + m.ctx.toNat * 2 ^ 32))
  else if off < 0x40 then some (m.arg (off / 8 - 1))
  else if off = 0x40 then some (w64 (m.status.code + b2n m.run * 2 ^ 8))
  else if 0x48 ≤ off ∧ off < 0x68 then some (mget 0 m.res ((off - 0x48) / 8))
  else if 0x100 ≤ off ∧ off < 0x1000 then some (w64 (leNat (m.bytes (off - 0x100) 8)))
  else none

/-- REGISTER_WRITE (R390, R391): GO submits the command, and is ignored and logged while one is being executed. A number
from 32 on stands for a write of 8 bytes to BAR2 of port mb − 32: one to the NOTIFY window is not of its size, and is
discarded and logged; the status records are read-only (R393). A write to a gust slot is GUST_SLOT_WRITE's. -/
def execRegisterWrite (mb off : Nat) (v : BitVec 64) (s : State) : Out :=
  if 32 ≤ mb then .next (if off < 0x10 then s.logMgmt 0xFFFF off else s)
  else if off = 0x80 then
    if !v.getLsbD 0 then .next s
    else if (s.mbx mb).run then .next (s.logMgmt 0xFFFF mb)
    else .next (({ s with submitted := s.submitted ++ [mb] } : State).updMbx mb fun m => { m with run := true })
  else .next (s.updMbx mb fun m => m.put off v)

/-- The completion of a command (R391): results, STATUS, RUN, then the vector. A result that the command does not give is a
free value (R8). -/
def State.cmdEnd (s : State) (mb : Nat) (st : Status) (res : List Word) : State :=
  let r := (List.range 4).map fun k => (k, (res[k]?).getD (s.free (900 + k)))
  let s := s.updMbx mb fun m => { m with res := r, status := st, run := false, waiting := false }
  let s := { s with submitted := s.submitted.filter (· != mb) }
  if (s.mbx mb).ien then s.raiseMsix (mb / 16) (mb % 16) else s

/-- A command that must wait keeps its mailbox in RUN and holds back no other (R391). -/
def State.cmdWait (s : State) (mb : Nat) : State :=
  { s.updMbx mb fun m => { m with waiting := true } with submitted := s.submitted.filter (· != mb) }

/-- The codes of the commands that recovery mode admits (R422). -/
def recoveryOk (opc : Nat) : Bool := opc == 0x51 || opc == 0x52

/-- R391: the commands that the firmware may serve now: the oldest submitted; and while a SHR command waits for its turn at the
shared-range table (R18), that one and the oldest of the others. -/
def State.servable (s : State) : List Nat :=
  if none ∈ s.ownQ then (s.submitted.filter s.shCmd).take 1 ++ (s.submitted.filter fun m => !s.shCmd m).take 1
  else s.submitted.take 1

/-- A command of the step's mailbox, submitted with an OPC, that the firmware may serve (R391); in recovery mode it completes with
AUTH (R422). -/
def State.command (s : State) (opc : Nat) (k : State → Mailbox → State) : Out :=
  let mb := s.cur.sub.mb
  let m := s.mbx mb
  if !m.run || m.waiting || m.opc.toNat != opc || !s.servable.contains mb then .next s
  else if s.sec.recovery && !recoveryOk opc then .next (s.cmdEnd mb .auth [])
  else .next (k s m)

/-- The completion of the step's command with a status, all else as it was. -/
def State.refuse (s : State) (st : Status) : State := s.cmdEnd s.cur.sub.mb st []

/-- The completion of the step's command with OK. -/
def State.done (s : State) (res : List Word) : State := s.cmdEnd s.cur.sub.mb .ok res

/-- A command on a live context c (R391). -/
def State.ctxCommand (s : State) (opc : Nat) (k : State → Mailbox → Nat → Context → State) : Out :=
  s.command opc fun s m =>
    match mget? s.ctxs m.ctx.toNat with
    | none => s.refuse .noctx
    | some x => if x.destroying then s.refuse .noctx else k s m m.ctx.toNat x

/-- The OPCs that R392 assigns. -/
def assignedCommands : List Nat :=
  [0x01, 0x02, 0x03, 0x04, 0x05, 0x06, 0x07, 0x08, 0x10, 0x11, 0x12, 0x18, 0x19, 0x1A, 0x1B, 0x20, 0x21, 0x22, 0x23, 0x24,
    0x25, 0x28, 0x29, 0x30, 0x31, 0x32, 0x38, 0x39, 0x40, 0x41, 0x42, 0x48, 0x50, 0x51, 0x52]

/-- BADCMD (R391, R422): an unassigned OPC; in recovery mode it completes with AUTH. -/
def execBadcmd (s : State) : Out :=
  let mb := s.cur.sub.mb
  let m := s.mbx mb
  if !m.run || m.waiting || assignedCommands.contains m.opc.toNat || !s.servable.contains mb then .next s
  else .next (s.cmdEnd mb (if s.sec.recovery then .auth else .badcmd) [])

/-! ## Host memory and arguments -/

/-- A host address's bytes. -/
def State.hostRead (s : State) (a : Word) (n : Nat) : List Byte := Memory.read s.host a.toNat n

/-- Bytes written to host memory. -/
def State.hostWrite (s : State) (a : Word) (bs : List Byte) : State := { s with host := Memory.write s.host a.toNat bs }

/-- The VA of arguments k and k + 1; none where a reserved bit of its R10 form is set (R7, R10). -/
def Mailbox.va (m : Mailbox) (k : Nat) : Option VA :=
  if (m.arg (k + 1)).toNat < 2 ^ 16 then some ⟨(m.arg (k + 1)).truncate 16, m.arg k⟩ else none

/-! ## CTX_CREATE -/

/-- The clusters of a mask of 128 bits. -/
def maskClusters (w : Nat) : List Nat := (List.range 128).filter fun k => nbit w k

/-- An entry of the arena table (R186); none where a reserved bit is set or the arena is not allowed. -/
def arenaOf (k : Nat) (b : List Byte) : Option (VA × Nat) :=
  let w := leNat b
  let base := bits w 0 80
  let n := bits w 128 32
  let sp := base / 2 ^ 64
  if bits w 80 48 ≠ 0 ∨ bits w 160 96 ≠ 0 ∨ 262144 < n ∨ base % clsBytes k ≠ 0 then none
  else if n ≠ 0 ∧ (sp = 0 ∨ 0x8000 * 2 ^ 64 < base + n * clsBytes k) then none
  else some (VA.ofNat base, n)

/-- The arena table, if every entry is allowed. -/
def arenasOf (b : List Byte) : Option (List (VA × Nat)) :=
  (List.range 24).mapM fun k => arenaOf k ((b.drop (32 * k)).take 32)

/-- Whether no two arenas overlap. -/
def arenasApart (l : List (VA × Nat)) : Bool :=
  let rs := l.zipIdx.map fun p => (p.1.1.toNat, p.1.2 * clsBytes p.2)
  rs.zipIdx.all fun p => rs.zipIdx.all fun q => p.2 == q.2 || !meets p.1.1 p.1.2 q.1.1 q.1.2 || p.1.2 == 0 || q.1.2 == 0

/-- The tier-policy block (R81); none where a reserved bit or code is set (R7). -/
def tierOf (b : List Byte) : Option TierPol :=
  let w := leNat b
  let rows (off : Nat) : List Nat := (List.range 5).map fun i => bits w (off + 32 * i) 32
  let cs := rows 128
  let bs := rows 288
  if bits w 68 60 ≠ 0 ∨ bits w 66 2 = 3 ∨ cs.any (fun c => 2 ^ 23 ≤ c) ∨ bs.any (fun c => 2 ^ 16 ≤ c) ∨ bits w 448 64 ≠ 0 then none
  else some ⟨bits w 0 32, bits w 32 32, nbit w 64, nbit w 65, bits w 66 2, cs, bs⟩

/-- The lowest handle that no live context has and no invalidation still names (R37). -/
def State.freeHandle (s : State) : Option Nat :=
  (List.range' 1 0xFFFE).find? fun h => (mget? s.ctxs h).isNone && !(s.invQ.any fun q => q.asid == h)

/-- The buffer descriptors in use in the package (R186). -/
def State.bufsInUse (s : State) : Nat := (s.ctxs.map fun p => (p.2.arenas.map Prod.snd).sum).sum

/-- A new context (R184, R186, R199). -/
def newContext (port cap : Nat) (want : List Nat) (m : Mailbox) (tt : VA) (ar : List (VA × Nat)) (tp : TierPol) : Context :=
  let a4 := (m.arg 4).toNat
  { Context.reset with
    st := .created, port := port, nodeCap := cap, want := want, pclass := a4 % 4, weight := bits a4 4 4
    sigreq := nbit a4 16, ttbase := tt, arenas := ar, tier := tp
    free := (ar.zipIdx.filter fun p => p.1.2 != 0).map fun p => (p.2, List.range p.1.2) }

/-- CTX_CREATE (R186, R392). -/
def execCtxCreate (s : State) : Out :=
  s.command 0x01 fun s m =>
    let mask := leNat (m.bytes 0 16)
    let want := maskClusters mask
    let a4 := (m.arg 4).toNat
    let blk := s.hostRead (m.arg 5) 832
    let bad :=
      m.arg 1 != 0 || m.arg 6 != 0 || bits a4 2 2 != 0 || bits a4 8 8 != 0 || bits a4 17 47 != 0 || bits a4 4 4 == 0 ||
        bits mask 0 128 != bits mask 0 (32 * s.form.dies) || (want.any fun k => s.heldClusters.contains k)
    match m.va 2, arenasOf (blk.take 768), tierOf (blk.drop 768), s.freeHandle with
    | some tt, some ar, some tp, some h =>
      if bad || tt.off.toNat % 64 != 0 || !arenasApart ar || 262144 < s.bufsInUse + (ar.map Prod.snd).sum then s.refuse .reject
      else
        let s' := s.setCtx h (newContext (s.cur.sub.mb / 16) (m.arg 0).toNat want m tt ar tp)
        match s'.newNode h with
        | none => s.refuse .reject
        | some (s', root) => (s'.updCtx h fun x => { x with root := root }).done [w64 h, w64 (0x400000 + 64 * h)]
    | _, _, _, _ => s.refuse .reject

/-! ## States of a context -/

/-- CTX_START (R199, R222); reserved address bits are looked at before the state, and that before alignment (DESIGN CHOICE,
notes/assumptions/95.md). -/
def execCtxStart (s : State) : Out :=
  s.ctxCommand 0x03 fun s m c x =>
    match m.va 0 with
    | none => s.refuse .reject
    | some v =>
      if x.st != .created && x.st != .halted then s.refuse .busy
      else if v.off.toNat % 16 ≠ 0 then s.refuse .reject
      else
        (s.updCtx c fun x =>
          { x with
            st := if x.st = .created then .queued else .run
            space := v.space, dv := { x.dv with pos := v.off }, rv := { x.rv with pos := v.off }, decStop := false }).done []

/-- CTX_RESUME (R196, R199), its checks in the order of CTX_START's (DESIGN CHOICE, notes/assumptions/95.md). -/
def execCtxResume (s : State) : Out :=
  s.ctxCommand 0x05 fun s m c x =>
    match m.va 0 with
    | none => s.refuse .reject
    | some v =>
      if x.st != .faulted && x.st != .suspended then s.refuse .busy
      else if v.off.toNat % 16 ≠ 0 then s.refuse .reject
      else
        (s.updCtx c fun x =>
          let x := { x with st := if x.st = .faulted ∧ x.resident = true then .run else .queued }
          if v.toNat = 0 then x
          else
            { x with
              space := v.space, dv := { x.dv with pos := v.off }, decStop := false
              rv := { x.rv with pos := if x.entries.isEmpty then v.off else x.rv.pos } }).done []

/-- CTX_SUSPEND (R199): decode stops; the command waits for SUSPENDED. -/
def execCtxSuspend (s : State) : Out :=
  s.ctxCommand 0x04 fun s _ c x =>
    if x.st != .run then s.refuse .busy else (s.updCtx c fun x => { x with st := .draining }).cmdWait s.cur.sub.mb

/-- CTX_PREEMPT (R199, R383). -/
def execCtxPreempt (s : State) : Out :=
  s.ctxCommand 0x06 fun s _ c x =>
    if x.st != .run then s.refuse .busy
    else (s.updCtx c fun x => { x with preempting := x.preempting || !x.swapped }).done []

/-- R194, R199: every entry of a context that is to be destroyed is stopped and discarded; the command waits for the ends of
its gangs. -/
def State.beginDestroy (s : State) (c : Nat) : State :=
  (s.stopGangs c).1.updCtx c fun x => { x.rollback x.rv.pos with destroying := true }

/-- CTX_DESTROY (R199). -/
def execCtxDestroy (s : State) : Out :=
  s.ctxCommand 0x02 fun s _ c _ => (s.beginDestroy c).cmdWait s.cur.sub.mb

/-! ## The end of a context -/

/-- R398: a SEND of a port that has closed or failed since it was pushed: its parameters are in order no more, which raises
ENGINE when it is next looked at (R329). -/
def Cmd.unlink (k : Nat) (c : Cmd) : Cmd :=
  match c.i with
  | .send _ _ _ _ =>
    if bits (nth 0 c.stg 15).toNat 0 5 = k then { c with stg := setNth c.stg 15 (nth 0 c.stg 15 ||| 0x8000000000000000) } else c
  | _ => c

/-- R398: a RECV that waits at a port that has closed or failed: it names no port from now on, which raises ENGINE. -/
def WaitRec.unlink (k : Nat) (w : WaitRec) : WaitRec :=
  match w.w with
  | .recv p strm off len => if p = k then { w with w := .recv 32 strm off len } else w
  | .recvRest p strm off len => if p = k then { w with w := .recvRest 32 strm off len } else w
  | _ => w

/-- R398 for the queued and waiting SENDs and RECVs of a tile. -/
def Tile.unlink (k : Nat) (x : Tile) : Tile :=
  let wait (g : Group) : Group := { g with waits := g.waits.map (WaitRec.unlink k) }
  { x with
    qD := { x.qD with q := x.qD.q.map (Cmd.unlink k) }
    copyQ := x.copyQ.map fun c => { c with cmd := c.cmd.unlink k }
    groups := x.groups.map wait
    outer := x.outer.map fun o => { o with groups := o.groups.map wait } }

/-- R398: every SEND and RECV of a port that is queued or waits, in tiles and in those that are swapped out, raises ENGINE. -/
def State.dropLink (s : State) (k : Nat) : State :=
  { s with
    tiles := mmap (fun _ x => x.unlink k) s.tiles
    ctxs := mmap (fun _ x => { x with gangs := x.gangs.map fun g => { g with saved := g.saved.map (Tile.unlink k) } }) s.ctxs }

/-- R398: a port that is closed or has failed discards what it holds. -/
def State.closePort (s : State) (k : Nat) : State := (s.dropLink k).setPort k Port.reset

/-- The registration of a queue for a context ends (R430); with the last, the queue. -/
def State.dropReg (s : State) (c qid : Nat) : State :=
  match s.queue? qid with
  | none => s
  | some q =>
    match q.regs.filter fun r => r.1 != c with
    | [] => { s.queueUnmap qid with queues := mdel s.queues qid }
    | r =>
      if q.regs.head?.map Prod.fst = some c then
        -- the image is reached through a registration that remains
        let s := s.queueUnmap qid
        s.setQueue qid { (s.queue? qid).getD q with regs := r }
      else s.setQueue qid { q with regs := r }

/-- Whether a context that is being destroyed has come to its end (R17, R129, R199). -/
def State.destroyDone (s : State) (c : Nat) : Bool := (s.ctx c).destroying && !s.inUse c

/-- R199: a context removed, with its ranges (R17), queues, ports, units, breakpoints, frames and far units. -/
def State.removeCtx (s : State) (c : Nat) : State :=
  let s := (s.unmapQueues c).returnRanges c
  let s := s.unseenLost c 0 (2 ^ 64)
  let s := (s.queues.map Prod.fst).foldl (fun s q => s.dropReg c q) s
  let s := ((s.ports.filter fun p => p.2.ctx == some c).map Prod.fst).foldl (fun s k => s.closePort k) s
  let runs := s.transit.filter fun r => r.ctx == c
  let s := runs.foldl
    (fun s r => match r.st with
      | .promoting => s
      | _ => s.freeUnits r.target r.unit) s
  let far (f : Far) : List Nat :=
    ((s.ctx c).nodes.flatMap fun n => (List.range 4096).filterMap fun i =>
      let e := s.num .phys (n + 16 * i) 16
      if pteV e && pteLeaf e && farOf (pteTier e) == some f then some (pteFrame e) else none)
  let s := (far .cxm).foldl (fun s u => s.freeUnits .cxm u) s
  let s := (far .flt).foldl (fun s u => s.freeUnits .flt u) s
  let x := s.ctx c
  let keep (q : FReq) : Bool := q.ctx != c
  { s with
    ctxs := mdel s.ctxs c
    units := s.units.filter fun p => p.2.ctx != some c
    ranges := s.ranges.filter fun r => r.ctx != c
    frames := s.frames.filter fun f => f.ctx != c
    nodeFrames := s.nodeFrames.filter fun f => !x.nodes.contains f
    transit := s.transit.filter fun r => r.ctx != c
    collapses := s.collapses.filter fun r => r.ctx != c
    promoQ := s.promoQ.filter keep, stagedQ := s.stagedQ.filter keep, demoQ := s.demoQ.filter keep
    cntPages := s.cntPages.filter fun p => p.1 != c
    turnDec := s.turnDec.filter (· != c), turnIss := s.turnIss.filter (· != c)
    dies := mmap (fun _ d => { d with
      missQ := d.missQ.filter fun p => p.1 != c
      shadow := if d.shadow = some c then none else d.shadow
      slots := if d.shadow = some c then [] else d.slots }) s.dies
    tiles := mmap (fun _ t => if t.last = some c then { t with last := some 0x10000 } else t) s.tiles
    invQ := s.invQ ++ [⟨c, none⟩] }

/-- Whether a draining context is SUSPENDED (R199): no issued entry is still at work. -/
def Context.drained (x : Context) : Bool :=
  x.st == .draining && !x.preempting && x.entries.all fun e => e.st != .run && !(e.st == .place && e.placed)

/-- R199: a drained context leaves residency. -/
def State.suspended (s : State) (c : Nat) : State := s.setAside c .suspended

/-- What the peer answers to a gust message (R394): OK or REJECT, with the MSTATE reached. -/
def State.peerAnswer (s : State) : Status × Word :=
  (if (s.free 910).getLsbD 0 then .ok else .reject, s.free 911 % 6)

/-! ## Queries, breakpoints -/

/-- The R199 state code (notes/assumptions/17.md). -/
def CtxSt.code (c : CtxSt) : Nat :=
  match c with
  | .created => 0
  | .queued => 1
  | .run => 2
  | .draining => 3
  | .suspended => 4
  | .faulted => 5
  | .halted => 6
  | .dead => 7

/-- The status record of a handle in BAR2 (R393): SYNCCNT, the R199 state code, the event count. -/
def State.statusRecord (s : State) (c : Nat) : List Byte :=
  let x := s.ctx c
  leBytes 8 x.syncCnt.toNat ++ leBytes 8 x.st.code ++ leBytes 8 x.events.toNat ++ List.replicate 40 0

/-- The task fault record in memory (R195). -/
def FaultRec.bytes (f : FaultRec) : List Byte :=
  leBytes 8 f.taddr.toNat ++ leBytes 8 (f.cause % 256 + f.opnd % 32 * 2 ^ 8 + b2n f.fatal * 2 ^ 13 + f.tseq % 2 ^ 32 * 2 ^ 32) ++
    leBytes 16 f.fva ++ leBytes 8 f.frameOff ++ leBytes 8 f.ftime ++ leBytes 16 0

/-- CTX_QUERY (R183, R195, R199): the order is that of R392's list, and the bytes after it are free (R8). -/
def execCtxQuery (s : State) : Out :=
  s.ctxCommand 0x07 fun s m _ x =>
    let head := x.frec.bytes ++ ((List.range 4).flatMap fun k => leBytes 8 (nth 0 x.stalls k)) ++ leBytes 8 x.syncCnt.toNat
    let rest := (List.range (512 - head.length)).map fun k => s.freeB (1000 + k)
    (s.hostWrite (m.arg 0) (head ++ rest)).done [w64 x.st.code]

/-- A memory error record in memory (R108). -/
def LogRec.bytes (r : LogRec) : List Byte :=
  leBytes 8 (r.kind % 256 + r.unit % 256 * 2 ^ 8 + r.asid % 2 ^ 16 * 2 ^ 16) ++ leBytes 8 r.addr ++ leBytes 8 r.time ++
    leBytes 8 r.more

/-- MC_READ (R381): the records copied leave the queue. -/
def execMcRead (s : State) : Out :=
  s.ctxCommand 0x08 fun s m c x =>
    let n := min (m.arg 1).toNat x.mcq.length
    let s := s.hostWrite (m.arg 0) ((x.mcq.take n).flatMap LogRec.bytes)
    (s.updCtx c fun x => { x with mcq := x.mcq.drop n }).done [w64 n, w64 x.mclost]

/-- DBG_BREAK (R378). -/
def execDbgBreak (s : State) : Out :=
  s.ctxCommand 0x40 fun s m c _ =>
    let k := (m.arg 0).toNat
    if 4 ≤ k then s.refuse .reject
    else
      (s.updCtx c fun x => { x with brks := if m.arg 1 = 0 then mdel x.brks k else mput x.brks k (m.arg 1) }).done []

/-- The tiles of a context that BREAK holds. -/
def State.heldTiles (s : State) (c : Nat) : List Nat := (s.tiles.filter fun p => p.2.ctx == c && p.2.stat == .held).map Prod.fst

/-- DBG_CONT (R377): the tiles that a breakpoint holds resume. -/
def execDbgCont (s : State) : Out :=
  s.ctxCommand 0x41 fun s _ c _ => ((s.heldTiles c).foldl (fun s t => s.firmwareResume t) s).done []

/-- DBG_KILL (R377): the kernels of the tiles that a breakpoint holds end. -/
def execDbgKill (s : State) : Out :=
  s.ctxCommand 0x42 fun s _ c _ =>
    ((s.heldTiles c).foldl
      (fun s t => match (s.tile t).raised with
        | some r => s.endKernel t r
        | none => s) s).done []

end Sys2Proof.Machine
end

