-- ==== Sys2Proof/Machine/HostMem.lean ====
section
/-! DEFINITION. Commands on memory: MAP, UNMAP and REPLICATE (R35 to R39, R55, R429), shared ranges and the host's access
to them (R15 to R20), the counter page (R83 to R85), CXM (R90). -/
namespace Sys2Proof.Machine

/-! ## Tables -/

/-- The PA of the entry of a level that an address selects, with the nodes above it built (R37): none where a leaf stands
above it or no node can be had. A node's number of levels is `f`. -/
def State.entryIn (s : State) (c va lev : Nat) : Nat → Nat → Option (State × Nat)
  | k, node =>
    let pa := node + walkIndex va k * 16
    if k = lev then some (s, pa)
    else
      let e := s.num .phys pa 16
      match k with
      | 0 => none
      | j + 1 =>
        if pteV e then (if pteLeaf e then none else s.entryIn c va lev j (pteFrame e * 4096))
        else
          match s.newNode c with
          | none => none
          | some (s, n) => (s.putPte pa (1 + n)).entryIn c va lev j n

/-- A table node that a leaf replaces (R37) goes back. -/
def State.dropNode (s : State) (c pa : Nat) : State :=
  let e := s.num .phys pa 16
  if pteV e && !pteLeaf e then
    let n := pteFrame e * 4096
    { s.updCtx c fun x => { x with nodes := x.nodes.filter (· != n) } with nodeFrames := s.nodeFrames.filter (· != n) }
  else s

/-- A leaf written into every entry of its run, with the nodes that it needs (R36, R429). -/
def State.installLeaf (s : State) (c va e : Nat) : Option State :=
  match s.entryIn c va (leafLevel (pteSize e)) 5 (s.ctx c).root with
  | none => none
  | some (s, pa) =>
    let s := if leafLevel (pteSize e) = 0 then s else
      ((List.range (runLen (pteSize e))).foldl (fun s i => s.dropNode c (pa + 16 * i)) s).invalidate
        ⟨c, some (va, pageBytes (pteSize e))⟩
    some ((List.range (runLen (pteSize e))).foldl (fun s i => s.putPte (pa + 16 * i) e) s)

/-- Whether a range of VAs keeps to the spaces that MAP and UNMAP may touch (R13, R15, R429). -/
def privateRange (va n : Nat) : Bool := 2 ^ 64 ≤ va && va + n ≤ 0x8000 * 2 ^ 64

/-- The frames of a resident page: not a replicated page's, not a table node's (R429). Another mapping of them may carry
another HS, which R47 answers where they are read. -/
def State.mayName (s : State) (pa n : Nat) : Bool :=
  !(s.frames.any fun f => f.repl && meets pa n f.pa f.len) && !(s.nodeFrames.any fun f => meets pa n f 65536) &&
    !(s.form.hasLpm && meets pa n remapBase (2 ^ 39 - remapBase))

/-- R80: whether a mapping may hold n bytes of frames at a PA: it allocates those that no mapping holds, whose HBM blocks must
be FREE or of its class. Frames that another mapping holds are not allocated anew, and R47 answers for them. -/
def State.mayAllocate (s : State) (pa n hs c : Nat) : Bool :=
  (s.frames.any fun f => f.pa ≤ pa && pa + n ≤ f.pa + f.len) || s.classOk hs c pa n

/-- The leaf of a page that a MAP names at a PA, or at a far location in 4 KiB units (R429). -/
def mapLeaf (e loc : Nat) : Nat := putBits e 12 40 (if pteTier e = 0 then loc / 4096 else loc)

/-- R429's refusals for one page of a MAP, and what the page holds from then on: its frames or its far units. A page is placed in a
far tier only where the context's enable bit is 1 (R92; DEDUCED, notes/assumptions/112.md). -/
def State.mapHold (s : State) (c va e0 loc : Nat) : Option State :=
  let n := pageBytes (pteSize e0)
  let e := mapLeaf e0 loc
  if malformedPte s e (leafLevel (pteSize e)) || 2 ^ (if pteTier e = 0 then 52 else 40) ≤ loc ||
      (pteTier e == 0 && loc % 4096 != 0) then none
  else if !(s.pagesIn c va n).isEmpty || (s.transitAt c va n).isSome then none
  else
    match farOf (pteTier e) with
    | some f => if s.farAvailable c f then some (s.takeUnits f loc n) else none
    | none => if s.mayName loc n && s.mayAllocate loc n (pteHS e) c then some (s.takeFrames loc n (pteHS e) c) else none

/-- One page of a MAP: what it holds, then its leaf (R429). -/
def State.mapPage (s : State) (c va e0 loc : Nat) : Option State :=
  (s.mapHold c va e0 loc).bind fun s => s.installLeaf c va (mapLeaf e0 loc)

/-- The pages of a MAP, k of them from an address and a place on. -/
def mapRun (e : Nat) : Nat → Nat → Nat → List (Nat × Nat)
  | 0, _, _ => []
  | k + 1, va, loc =>
    let n := pageBytes (pteSize e)
    (va, loc) :: mapRun e k (va + n) (loc + if pteTier e = 0 then n else n / 4096)

/-- The pages of a MAP: every frame is held before a table node is taken, so that none becomes a node (R429). -/
def State.mapPages (s : State) (c e k va loc : Nat) : Option State :=
  let ps := mapRun e k va loc
  (ps.foldl (fun s p => s.bind fun s => s.mapHold c p.1 e p.2) (some s)).bind fun s =>
    ps.foldl (fun s p => s.bind fun s => s.installLeaf c p.1 (mapLeaf e p.2)) (some s)

/-- MAP (R429). -/
def execMapPages (s : State) : Out :=
  s.ctxCommand 0x10 fun s m c _ =>
    let e := (m.arg 3).toNat
    let k := (m.arg 4).toNat
    let n := pageBytes (pteSize e)
    match m.va 0 with
    | none => s.refuse .reject
    | some v =>
      let va := v.toNat
      if k = 0 ∨ pteV e = false ∨ pteLeaf e = false ∨ pteFrame e ≠ 0 ∨ pteRepl e = true ∨ 12 ≤ pteSize e ∨ va % n ≠ 0 ∨
          privateRange va (k * n) = false then s.refuse .reject
      else
        match s.mapPages c e k va (m.arg 2).toNat with
        | none => s.refuse .reject
        | some s => s.done []

/-- What an UNMAP of k pages meets (R429): its pages, a busy page, or one that is not there. -/
def State.toUnmap (s : State) (c : Nat) : Nat → Nat → Except Status (List (Nat × Nat))
  | 0, _ => .ok []
  | k + 1, va =>
    if !privateRange va 1 then .error .reject
    else
      match s.transit.find? fun r => r.ctx == c && r.va ≤ va && va < r.va + r.len with
      | some _ => .error .busy
      | none =>
        match s.leaf c va with
        | none => .error .reject
        | some e =>
          if pageBase va e ≠ va then .error .reject
          else if (s.collapseOf c va).isSome then .error .busy
          else
            match s.toUnmap c k (va + pageBytes (pteSize e)) with
            | .ok l => .ok ((va, e) :: l)
            | .error x => .error x

/-- One page unmapped (R39, R429): its entries invalid, its translations gone, its frames or far units free. -/
def State.unmapPage (s : State) (c va e : Nat) : State :=
  let n := pageBytes (pteSize e)
  let s := (s.writeRun c va (pteSize e) 0).invalidate ⟨c, some (va, n)⟩
  let keep (q : FReq) : Bool := !(q.ctx == c && q.va == va)
  let s := { s with
    promoQ := s.promoQ.filter keep, stagedQ := s.stagedQ.filter keep, demoQ := s.demoQ.filter keep
    cntPages := s.cntPages.filter fun p => !(p.1 == c && p.2.toNat == va) }
  match farOf (pteTier e) with
  | some f => s.freeUnits f (pteFrame e)
  | none => (if pteRepl e then s.freeReplicas e else s).dropFrames (pteFrame e * 4096) (pteHS e) c

/-- UNMAP (R39, R429). -/
def execUnmapPages (s : State) : Out :=
  s.ctxCommand 0x11 fun s m c _ =>
    let k := (m.arg 4).toNat
    match m.va 0 with
    | none => s.refuse .reject
    | some v =>
      if k = 0 then s.refuse .reject
      else
        match s.toUnmap c k v.toNat with
        | .error st => s.refuse st
        | .ok l => (l.foldl (fun s p => s.unmapPage c p.1 p.2) s).done []

/-! ## REPLICATE -/

/-- A free run for a copy on die d: in its HBM, aligned to the page, of the page's hash class (R55, R80). -/
def State.copyFrame (s : State) (c hs n d : Nat) : Option Nat := s.findFrame hs c n (d * 2 ^ 37) ((d + 1) * 2 ^ 37)

/-- Copies of n bytes at pa for dies d, d + 1, …: the frames taken, each with the page's bytes. -/
def State.takeCopies (s : State) (c hs pa n : Nat) : List Nat → Option (State × List Nat)
  | [] => some (s, [])
  | d :: ds =>
    match s.copyFrame c hs n d with
    | none => none
    | some f =>
      let s := (((s.takeFrames f n hs c).copyBytes .phys pa .phys f n).countRun c hs pa n).countRun c hs f n
      (s.takeCopies c hs pa n ds).map fun r => (r.1, f :: r.2)

/-- The replicated leaf with its copies on dies 1 to 3 (R35, R55). -/
def pteWithCopies (e : Nat) (fs : List Nat) : Nat :=
  let frm (d : Nat) : Nat := (nth 0 fs (d - 1) - d * 2 ^ 37) / 65536
  e % 2 ^ 64 + 2 ^ 10 + frm 1 * 2 ^ 64 + frm 2 * 2 ^ 85 + frm 3 * 2 ^ 106

/-- Whether another PTE maps one of a page's frames: another mapping holds frames there (R55). -/
def State.sharedFrames (s : State) (pa n : Nat) : Bool := 1 < (s.frames.filter fun f => meets pa n f.pa f.len).length

/-- REPLICATE (R55): a page that the walk would find malformed with copies, one that is replicated already, or one without
room for its copies, is refused. -/
def execReplicate (s : State) : Out :=
  s.ctxCommand 0x12 fun s m c _ =>
    match m.va 0 with
    | none => s.refuse .reject
    | some v =>
      match s.leaf c v.toNat with
      | none => s.refuse .reject
      | some e =>
        let n := pageBytes (pteSize e)
        let pa := pteFrame e * 4096
        if pteTier e ≠ 0 ∨ pteRepl e = true ∨ s.form.dies < 4 ∨ pageBase v.toNat e ≠ v.toNat ∨ s.sharedFrames pa n = true then
          s.refuse .reject
        else
          match s.takeCopies c (pteHS e) pa n [1, 2, 3] with
          | none => s.refuse .reject
          | some (s', fs) =>
            let e' := pteWithCopies e fs
            if malformedPte s' e' (leafLevel (pteSize e')) then s.refuse .reject
            else
              let s' := s'.rewrite c v.toNat (pteSize e) e'
              let here (f : FrameRun) : Bool := f.ctx == c && (f.pa == pa || fs.contains f.pa)
              ({ s' with frames := s'.frames.map fun f => if here f then { f with repl := true } else f } : State).done []

/-! ## Shared ranges -/

/-- A free run of n bytes of device memory for a shared range (R15). -/
def State.rangeFrame (s : State) (c n : Nat) : Option Nat :=
  lowest (((s.frameStarts 0).map fun a => alignUp a 65536).filter fun a =>
    a + n ≤ 2 ^ 39 && !s.frameBusy a n && s.classOk 0 c a n)

/-- The SIZE code of the largest page that n bytes at a, backed from PA p on, can begin with (R36). -/
def pageFor (a n p : Nat) : Nat :=
  ((List.range 12).filter fun z => a % pageBytes z == 0 && p % pageBytes z == 0 && pageBytes z ≤ n).getLastD 0

/-- The pages of n bytes at host address a, backed from PA p on: each one's VA and SIZE code. -/
def rangePages (p : Nat) : Nat → Nat → Nat → List (Nat × Nat)
  | 0, _, _ => []
  | k + 1, a, n =>
    if n = 0 then []
    else
      let z := pageFor a n p
      (a, z) :: rangePages (p + pageBytes z) k (a + pageBytes z) (n - pageBytes z)

/-- The pages of a shared range; host memory has no PA, so nothing but the host address aligns them. -/
def ShRange.pages (r : ShRange) : List (Nat × Nat) := rangePages (if r.devMem then r.frame else 0) (r.len / 4096) r.base r.len

/-- The leaf of a page of a shared range (R15, R46; notes/assumptions/83.md): readable and writable, not executable,
EXTW = 0; FRAME names the device memory, or is 0 where host memory backs the page, which is then UNCACHED. -/
def ShRange.leaf (r : ShRange) (va z : Nat) : Nat :=
  3 + z * 2 ^ 4 + 2 ^ 52 + 2 ^ 53 + if r.devMem then r.frame + (va - r.base) else 2 * 2 ^ 55

/-- R15: the firmware installs the page-table entries of a range; none where it cannot obtain the nodes. -/
def State.installRange (s : State) (r : ShRange) : Option State :=
  r.pages.foldl (fun s p => s.bind fun s => s.installLeaf r.ctx p.1 (r.leaf p.1 p.2)) (some s)

/-- R15, R39: the firmware removes the page-table entries of a range, and its translations. -/
def State.removeRange (s : State) (r : ShRange) : State :=
  (r.pages.foldl (fun s p => s.writeRun r.ctx p.1 p.2 0) s).invalidate ⟨r.ctx, some (r.base, r.len)⟩

/-- A range entered in the shared-range table with its page-table entries, or REJECT where they cannot be made. -/
def State.registerRange (s : State) (r : ShRange) : State :=
  match ({ s with ranges := s.ranges ++ [r] } : State).installRange r with
  | some s => s.done []
  | none => s.refuse .reject

/-- SHR_REGISTER (R15, R16). A range that passes 2^64 is refused too, which R16 does not say (notes/assumptions/83.md). -/
def execShrRegister (s : State) : Out :=
  s.ctxCommand 0x18 fun s m c _ =>
    let base := (m.arg 0).toNat
    let n := (m.arg 1).toNat
    let dev := m.arg 2 == 1
    let mine := s.ranges.filter fun r => r.ctx == c
    if base % 4096 ≠ 0 ∨ n % 4096 ≠ 0 ∨ n = 0 ∨ 2 ^ 48 < n ∨ 2 ^ 64 < base + n ∨ (m.arg 2).toNat > 1 ∨
        (mine.any fun r => meets base n r.base r.len) = true ∨ 1024 ≤ mine.length ∨ 16384 ≤ s.ranges.length then
      s.refuse .reject
    else if dev then
      match s.rangeFrame c n with
      | none => s.refuse .reject
      | some pa =>
        match (s.takeFrames pa (alignUp n 65536) 0 c).registerRange ⟨c, base, n, true, .host, pa⟩ with
        | u => if (u.shAt c base).isSome then u else s.refuse .reject
    else s.registerRange ⟨c, base, n, false, .host, 0⟩

/-- A command on the shared range that a context has registered at A0. -/
def State.shCommand (s : State) (opc : Nat) (k : State → ShRange → State) : Out :=
  s.ctxCommand opc fun s m c _ =>
    match s.shAt c (m.arg 0).toNat with
    | none => s.refuse .reject
    | some r => k s r

/-- A command on a range's state is served by the table in its turn (R18); else it joins the table's line and stays
submitted. -/
def State.shTurn (s : State) (k : State → State) : State :=
  if s.ownTurn none then k (s.ownTaken none) else s.ownWaits none

/-- SHR_UNREGISTER (R15, R17). -/
def execShrUnregister (s : State) : Out :=
  s.shCommand 0x19 fun s r => s.shTurn fun s =>
    if r.own = .device then s.refuse .busy
    else
      let s := s.removeRange r
      let s := if r.devMem then s.dropFrames r.frame 0 r.ctx else s
      ({ s with ranges := s.ranges.erase r } : State).done []

/-- SHR_ACQUIRE (R17). -/
def execShrAcquire (s : State) : Out :=
  s.shCommand 0x1A fun s r => s.shTurn fun s => if r.own = .device then s.refuse .busy else (s.setOwn r.ctx r.base .host).done []

/-- SHR_RELEASE (R17). -/
def execShrRelease (s : State) : Out :=
  s.shCommand 0x1B fun s r => s.shTurn fun s => if r.own = .device then s.refuse .busy else (s.setOwn r.ctx r.base .none).done []

/-- One byte of the host-shared window as the host reads it: a byte that a device wrote, in a context that satisfies a test,
and that no release at SYSTEM scope has followed is a free value (R21). -/
def State.hostSees (s : State) (p : Nat → Bool) (l : Loc) (a ha : Nat) : Byte × Bool :=
  if s.unseen.any fun u => p u.ctx && u.lo ≤ ha && ha < u.hi then (s.freeB (2 ^ 65 + ha), false)
  else (s.byte l a, s.poisoned l a 1)

/-- HOST_CXL_MEM_ACCESS (R20): the host reads from ha to the end of its 64-byte line, or writes bytes at ha. Device memory in a range in HOST is the
host's to read and write; in NONE and DEVICE the access is recorded, a read completes with poison, a write is discarded.
Other memory is the host's own: its write stands at once, and a device read finds it before or after (R20). Of two ranges
with one host address the first registered is taken (notes/assumptions/83.md). -/
def execHostCxlMem (ha : Nat) (wr : Option (List Byte)) (s : State) : Out :=
  let n := 64 - ha % 64
  match s.ranges.find? fun r => r.devMem && r.base ≤ ha && ha < r.base + r.len with
  | none =>
    let mine (c : Nat) : Bool := s.hostBacked c ha
    match wr with
    | some bs => .next ((s.write .host ha bs 0xFFFF).unseenCut mine ha (ha + bs.length))
    | none => .next { s with cxlResp := (List.range n).map fun k => s.hostSees mine .host (ha + k) (ha + k) }
  | some r =>
    let pa := r.frame + (ha - r.base)
    let left := r.base + r.len - ha
    match r.own, wr with
    | .host, some bs =>
      let k := (bs.take left).length
      .next (((s.write .phys pa (bs.take left) 0xFFFF).countRun 0xFFFF 0 pa k).unseenCut (· == r.ctx) ha (ha + k))
    | .host, none =>
      .next
        { s.countRun 0xFFFF 0 pa (min n left) with
          cxlResp := (List.range (min n left)).map fun k => s.hostSees (· == r.ctx) .phys (pa + k) (ha + k) }
    | _, some _ => .next (s.logMgmt r.ctx r.base)
    | _, none => .next { s.logMgmt r.ctx r.base with cxlResp := List.replicate (min n left) (0, true) }

/-! ## Counters, CXM -/

/-- The PA of the counter page's frame, allocated and cleared when it is first mapped (R84). -/
def State.cntPA (s : State) : Option (State × Nat) :=
  match s.cntFrame with
  | some pa => some (s, pa)
  | none => (s.findFrame 0 0xFFFF 65536 0 nodeBase).map fun pa =>
    ({ ((s.takeFrames pa 65536 0 0xFFFF).zeroBytes .phys pa 65536).countRun 0xFFFF 0 pa 65536 with cntFrame := some pa }, pa)

/-- The leaf of the counter page: 64 KiB, readable, PIN = 1, UNCACHED (R84). -/
def cntLeaf : Nat := 3 + 2 * 2 ^ 4 + 2 ^ 52 + 2 * 2 ^ 55 + 2 ^ 57

/-- CNT_MAP (R84), with the refusals of MAP. -/
def execCntMap (s : State) : Out :=
  s.ctxCommand 0x30 fun s m c _ =>
    match m.va 0, s.cntPA with
    | some v, some (s', pa) =>
      if v.toNat % 65536 ≠ 0 ∨ privateRange v.toNat 65536 = false then s.refuse .reject
      else
        match s'.mapPage c v.toNat cntLeaf pa with
        | none => s.refuse .reject
        | some s' => ({ s' with cntPages := s'.cntPages ++ [(c, v)] } : State).done []
    | _, _ => s.refuse .reject

/-- CNT_ATTRIB (R84, R85): the set counts the new ASID from the next snapshot point. -/
def execCntAttrib (s : State) : Out :=
  s.command 0x31 fun s m =>
    let j := (m.arg 0).toNat
    if j = 0 ∨ 3 < j ∨ 2 ^ 17 ≤ (m.arg 1).toNat then s.refuse .reject
    else ({ s with attr := mput s.attr j (m.arg 1) } : State).done []

/-- CXM_CONFIG (R90). -/
def execCxmConfig (s : State) : Out :=
  s.command 0x32 fun s m =>
    let n := (m.arg 1).toNat
    if n = 0 ∨ 2 ^ 32 < n ∨ (m.arg 0).toNat % 4096 ≠ 0 then s.refuse .reject
    else if !s.cxmUnits.isEmpty then s.refuse .busy
    else ({ s with cxmBase := (m.arg 0).toNat, cxmLen := n * 4096 } : State).done []

end Sys2Proof.Machine
end

