-- ==== Sys2Proof/Machine/HostUnits.lean ====
section
/-! DEFINITION. Commands and register windows of the serving state (R244, R245, R249), wake mailboxes and gust writes (R48,
R99, R102, R393, R394), pipe queues (R178, R179, R393, R430), and the Hiphor ports (R395 to R398). -/
namespace Sys2Proof.Machine

/-! ## Serving state -/

/-- Whether n bytes at an address lie wholly on mapped pages that satisfy a test. -/
def State.onPages (s : State) (c : Nat) (v : VA) (n : Nat) (p : Nat → Bool) : Bool :=
  n == 0 || ((vaPieces v n).all fun q => match s.leaf c q.va with
    | some e => p e
    | none => false)

/-- A pinned page that only EXT issuers write (R45, R48). -/
def pinnedExtw (e : Nat) : Bool := ptePin e && pteExtw e && ptePW e

/-- The serving block of a payload (R244); none where a reserved bit is set or a field is out of its range. -/
def servOf (b : List Byte) : Option Serving :=
  let w := leNat b
  let v : Serving :=
    { seqVA := VA.ofNat (bits w 0 80), seqN := bits w 128 17, kvBase := VA.ofNat (bits w 192 80), kvSize := bits w 320 4
      kvLtok := bits w 328 4, kvN := bits w 384 32, kvFree := bits w 384 32, kvFlVA := VA.ofNat (bits w 448 80)
      kvCntVA := VA.ofNat (bits w 576 80), pfxVA := VA.ofNat (bits w 704 80), pfxLog := bits w 832 5 }
  let resv :=
    [(80, 48), (145, 47), (272, 48), (324, 4), (332, 52), (528, 48), (656, 48), (784, 48), (837, 59), (911, 113)].any
      fun p => bits w p.1 p.2 != 0
  if resv || 65536 < v.seqN || 10 < v.kvSize || v.kvLtok < 4 || 12 < v.kvLtok ||
      (v.pfxVA.toNat != 0 && (v.pfxLog < 6 || 24 < v.pfxLog)) || v.kvBase.toNat % pageBytes v.kvSize != 0 ||
      v.pfxVA.toNat % 65536 != 0 then none
  else some v

/-- Whether a serving block's tables lie where R244 has them. -/
def State.servPages (s : State) (c : Nat) (v : Serving) : Bool :=
  s.onPages c v.seqVA (64 * v.seqN) pinnedExtw && s.onPages c v.kvFlVA (4 * v.kvN) pinnedExtw &&
    s.onPages c v.kvCntVA (4 * v.kvN) pinnedExtw &&
    (v.pfxVA.toNat == 0 || s.onPages c v.pfxVA (16 * 2 ^ v.pfxLog) pinnedExtw) &&
    s.onPages c v.kvBase (v.kvN * pageBytes v.kvSize) fun e => ptePR e && ptePW e

/-- SRV_CONFIG (R244): the free stack and the count words are set up. -/
def execSrvConfig (s : State) : Out :=
  s.ctxCommand 0x20 fun s m c x =>
    match servOf (m.bytes 0 128) with
    | none => s.refuse .reject
    | some v =>
      if x.st == .run || !s.servPages c v then s.refuse .reject
      else
        let s := s.updCtx c fun x => { x with serv := v }
        let fl := (List.range v.kvN).flatMap fun i => leBytes 4 (v.kvN - 1 - i)
        ((s.hubStore c v.kvFlVA fl).hubStore c v.kvCntVA (List.replicate (4 * v.kvN) 0)).done []

/-- SEQ_CONFIG (R245): the header bytes 0x08 to 0x2F of a sequence with NPG = 0. A table that the hub cannot reach ends the
context (R41, R50). -/
def execSeqConfig (s : State) : Out :=
  s.ctxCommand 0x21 fun s m c x =>
    let n := (m.arg 0).toNat
    let b := m.bytes 0 40
    let w := leNat b
    if x.serv.seqN ≤ n ∨ bits w 144 48 ≠ 0 ∨ bits w 272 48 ≠ 0 then s.refuse .reject
    else
      match s.vaRead c none 4 (x.seqVA n) 64 .r with
      | (s', .error (o, va)) => (s'.fatalCtx c ((o.fatal true).getD .access) va none).refuse .reject
      | (s', .ok _) =>
        if (s.seqHdr c n).npg ≠ 0 then s'.refuse .reject
        else
          match s'.vaWrite c none 4 (VA.plus (x.seqVA n) 8) (b.map fun b => (b, false)) true with
          | (s', .ok _) => s'.done []
          | (s', .error (o, va)) => (s'.fatalCtx c ((o.fatal true).getD .access) va none).refuse .reject

/-- PFX_PIN (R249). A table that the hub cannot reach ends the context (R41, R50). -/
def execPfxPin (s : State) : Out :=
  s.ctxCommand 0x25 fun s m c x =>
    let i := (m.arg 0).toNat
    let up := m.arg 1 == 1
    let p := s.pfx c i
    if x.serv.pfxVA.toNat = 0 ∨ 2 ^ x.serv.pfxLog ≤ i ∨ (up = false ∧ m.arg 1 ≠ 0xFFFF_FFFF_FFFF_FFFF) then s.refuse .reject
    else
      match s.vaRead c none 4 (x.serv.pfxAt i) 16 .r with
      | (s', .error (o, va)) => (s'.fatalCtx c ((o.fatal true).getD .access) va none).refuse .reject
      | (s', .ok _) =>
        if p.v = false ∨ (up = true ∧ p.pins = 65535) ∨ (up = false ∧ p.pins = 0) then s'.refuse .reject
        else (s'.setPfx c i { p with pins := if up then p.pins + 1 else p.pins - 1 }).done []

/-! ## Wake mailboxes -/

/-- The lowest gust slot without a mailbox (R393). -/
def State.freeGust (s : State) : Option Nat := (List.range 65536).find? fun k => (s.slotOwner k).isNone

/-- A sequence's mailbox at an address, its state that of the one it replaces, or IDLE (R99, R102). -/
def Context.newMbox (x : Context) (n slot : Nat) (v : VA) : Mbox :=
  match x.mbox n with
  | some m => { m with va := v }
  | none => ⟨n, slot, v, .idle, 0, 0, 0, false, [], 0, false, [], 0⟩

/-- MBX_REGISTER (R48, R99). -/
def execMbxRegister (s : State) : Out :=
  s.ctxCommand 0x22 fun s m c x =>
    let n := (m.arg 0).toNat
    match m.va 1, (x.mbox n).map (·.slot) <|> s.freeGust with
    | some v, some slot =>
      if x.serv.seqN ≤ n ∨ v.off.toNat % 64 ≠ 0 ∨ s.onPages c v 64 pinnedExtw = false ∨
          (x.mboxes.any fun b => b.va == v && b.sn != n) = true then s.refuse .reject
      else
        let b := x.newMbox n slot v
        let s := s.updCtx c fun x => { x with mboxes := (x.mboxes.filter fun q => q.sn != n) ++ [b] }
        let s := s.hubPut c (VA.plus (x.seqVA n) 0x30) 16 v.toNat
        (s.setMbox c b).done [w64 slot]
    | _, _ => s.refuse .reject

/-- The reply buffer of a mailbox, and its size (R99). -/
def State.mboxBuf (s : State) (c : Nat) (m : Mbox) : VA × Nat :=
  (VA.ofNat (s.hubNum c (VA.plus m.va 0x10) 10), s.hubNum c (VA.plus m.va 0x20) 4)

/-- R394's steps 1 and 3: the reply bytes cut at BUFLEN, then the gust write; none where the buffer is not as it must be. A walk
for the mailbox or for the buffer that reads poison ends the context (R41; notes/assumptions/107.md). -/
def State.gustDeliver (s : State) (slot rlen off : Nat) (bs : List Byte) (last : Bool) : Option (State × Nat) :=
  match s.slotOwner slot with
  | none => none
  | some (c, m) =>
    let b := s.mboxBuf c m
    let n := min bs.length (b.2 - off)
    let w := (s.gustSeen c (VA.plus m.va 0x10) 0x14).gustPut c (VA.plus b.1 off) (bs.take n)
    let ended := (s.ctx c).fatal.isNone && (w.1.ctx c).fatal.isSome
    if !ended && !s.onPages c (VA.plus b.1 off) n fun e => ptePin e && ptePW e then none
    else
      let s := if last then w.1.gustDo c m ((rlen + off) % 2 ^ 32) else w.1
      some (s, ((s.ctx c).mstate m.sn).code)

/-- GUST (R394); a command for a peer waits for its answer. -/
def execGust (s : State) : Out :=
  s.command 0x23 fun s m =>
    let n := (m.arg 1).toNat
    let a2 := (m.arg 2).toNat
    let a3 := (m.arg 3).toNat
    if 18 < a3 then s.refuse .reject
    else if a3 ≠ 0 then s.cmdWait s.cur.sub.mb
    else if 3840 < n ∨ bits a2 1 31 ≠ 0 then s.refuse .reject
    else
      match s.gustDeliver (m.arg 0).toNat n (a2 / 2 ^ 32) (m.bytes 0 n) (nbit a2 0) with
      | none => s.refuse .reject
      | some (s, st) => if nbit a2 0 then s.done [w64 st] else s.done []

/-- GUST_MESSAGE (R394): a peer's gust message, on a port of this chip. -/
def execGustMessage (port slot rlen off : Nat) (bytes : List Byte) (last : Bool) (s : State) : Out :=
  if (s.port port).failed ∨ 3840 < rlen then .next s
  else
    match s.gustDeliver slot rlen off (bytes.take rlen) last with
    | none => .next s
    | some (s, _) => .next s

/-- GUST_SLOT_WRITE (R393): a write with bit 0 clear or a reserved bit set is discarded and logged, one to a slot without a
mailbox discarded. -/
def execGustSlotWrite (slot : Nat) (word : BitVec 64) (s : State) : Out :=
  if word.toNat % 2 ^ 32 ≠ 1 then .next (s.logMgmt 0xFFFF slot)
  else
    match s.slotOwner slot with
    | none => .next s
    | some (c, m) => .next (s.gustDo c m (word.toNat / 2 ^ 32))

/-- WAKE_RETRY (R102). -/
def execWakeRetry (s : State) : Out :=
  s.ctxCommand 0x24 fun s m c x =>
    match (x.mbox (m.arg 0).toNat).filter fun b => b.st == .wakefail with
    | none => s.refuse .reject
    | some b => (((s.setMbox c { b with st := .waking }).stagePromotion c b.sn).wakeCheck c).done []

/-! ## Pipe queues -/

/-- Where the bytes of an image lie: by pieces of a page. -/
def State.imageAt (s : State) (c : Nat) (v : VA) (n : Nat) : Option (List (Loc × Nat × Nat)) :=
  match (s.translateAll c none 4 .rw true (vaPieces v n)).2 with
  | .ok gs => some (gs.map fun g => (g.l, g.a, g.len))
  | .error _ => none

/-- QUEUE_REG (R178, R430). -/
def execQueueReg (s : State) : Out :=
  s.ctxCommand 0x28 fun s m c _ =>
    let qid := (m.arg 0).toNat
    let a3 := (m.arg 3).toNat
    let q : PQueue := { PQueue.none with ldepth := bits a3 0 5, esize := bits a3 5 2 }
    match m.va 1 with
    | none => s.refuse .reject
    | some v =>
      if 2 ^ 32 ≤ qid ∨ 2 ^ 7 ≤ a3 ∨ q.ldepth < 4 ∨ 16 < q.ldepth ∨ v.off.toNat % 64 ≠ 0 ∨
          (s.onPages c v q.imageBytes fun e => pinnedExtw e && ptePR e) = false then s.refuse .reject
      else
        match s.queue? qid with
        | none =>
          let s := s.setQueue qid { q with regs := [(c, v)] }
          let w0 := qid + q.ldepth * 2 ^ 32 + q.esize * 2 ^ 37
          (s.imgWrite { q with regs := [(c, v)] } 0 (leBytes 8 w0 ++ List.replicate 56 0)).done []
        | some o =>
          let same := match o.regs with
            | [] => false
            | r :: _ => s.imageAt c v q.imageBytes == s.imageAt r.1 r.2 q.imageBytes
          if o.regFor c || o.ldepth != q.ldepth || o.esize != q.esize || !same then s.refuse .reject
          else (s.setQueue qid { o with regs := o.regs ++ [(c, v)] }).done []

/-- Whether a command in a D queue names a queue. -/
def Cmd.onQueue (k : Cmd) (qid : Nat) : Bool := match k.i with
  | .qpush _ _ _ _ => (nth 0 k.xv 0).toNat % 2 ^ 32 == qid
  | _ => false

/-- Whether a waiting instruction is a QPOP of a queue. -/
def WaitRec.onQueue (w : WaitRec) (qid : Nat) : Bool := match w.w with
  | .qpop q _ => q.toNat == qid
  | _ => false

/-- Whether a tile has a push or a pop of a queue under way, one of the program that a handler interrupts among them. -/
def Tile.onQueue (x : Tile) (qid : Nat) : Bool :=
  (x.qD.q.any fun k => k.onQueue qid) || x.allGroups.any fun g => g.waits.any fun w => w.onQueue qid

/-- R430: whether a party of a context waits on a queue, or has an operation of it in progress. -/
def State.queueBusy (s : State) (c qid : Nat) : Bool :=
  (s.tiles.any fun p => p.2.stat != .idle && p.2.ctx == c && p.2.onQueue qid) ||
    ((s.ctx c).gangs.any fun g => g.saved.any fun x => x.onQueue qid) ||
    (s.ctx c).entries.any fun e =>
      e.st == .run && !e.started && (tliOpc e.tli == 0x20 || tliOpc e.tli == 0x21) && queueId (tliOf e.tli) e.sc == qid

/-- QUEUE_UNREG (R430). -/
def execQueueUnreg (s : State) : Out :=
  s.ctxCommand 0x29 fun s m c _ =>
    let qid := (m.arg 0).toNat
    match (s.queue? qid).filter fun q => q.regFor c with
    | none => s.refuse .reject
    | some _ => if s.queueBusy c qid then s.refuse .busy else (s.dropReg c qid).done []

/-- NOTIFY (R178, R393): a write to an unregistered QID is discarded and logged. -/
def execNotify (qid : BitVec 32) (val : BitVec 64) (s : State) : Out :=
  match s.queue? qid.toNat with
  | none => .next (s.logMgmt 0xFFFF qid.toNat)
  | some _ => .next (s.queueNotify qid.toNat val)

/-- QUEUE_UNMAP (R179). -/
def execQueueUnmap (qid : BitVec 32) (s : State) : Out := .next (s.queueUnmap qid.toNat)

/-! ## Hiphor ports -/

/-- LINK_OPEN (R395); the bytes of a port that the context holds stay queued (R399). -/
def execLinkOpen (s : State) : Out :=
  s.ctxCommand 0x38 fun s m c _ =>
    let k := (m.arg 0).toNat
    let p := s.port k
    if 18 ≤ k then s.refuse .reject
    else if p.ctx.isSome && p.ctx != some c then s.refuse .busy
    else
      let q := if p.ctx = some c then { p with failed := false } else { Port.reset with peerOpen := p.peerOpen }
      (s.setPort k { q with ctx := some c, peer := m.arg 1, pctx := m.arg 2 }).done []

/-- LINK_CLOSE (R398). -/
def execLinkClose (s : State) : Out :=
  s.ctxCommand 0x39 fun s m c _ =>
    let k := (m.arg 0).toNat
    if 18 ≤ k ∨ (s.port k).ctx ≠ some c then s.refuse .reject else (s.closePort k).done []

/-- LINK_FAILURE (R398). -/
def execLinkFailure (port : Nat) (s : State) : Out :=
  .next ((s.dropLink port).setPort port { s.port port with failed := true, peerOpen := none, rx := [], tx := [] })

/-- PEER_LINK_OPEN (R395): the peer chip opens the port from its context, bits [15:0] of the number, toward the context here
of bits [31:16]. -/
def execPeerLinkOpen (port : Nat) (chip : BitVec 64) (pctx : Nat) (s : State) : Out :=
  .next (s.setPort port { s.port port with peerOpen := some (chip, w64 (pctx % 2 ^ 16), pctx / 2 ^ 16) })

/-- STREAM_BYTES_ARRIVE (R396): bytes for the context bound to an open port, within the stream's 64 KiB. -/
def execStreamBytesArrive (port strm : Nat) (bytes : List Byte) (s : State) : Out :=
  let p := s.port port
  let q := mget [] p.rx strm
  match p.ctx with
  | none => .next s
  | some c =>
    if !p.openFor c || 65536 < q.length + bytes.length then .next s
    else .next (s.setPort port { p with rx := mput p.rx strm (q ++ bytes) })

/-- RECEIVE_QUEUE_CREDIT (R396): the peer's RECVs have removed n bytes. -/
def execReceiveQueueCredit (port strm n : Nat) (s : State) : Out :=
  let p := s.port port
  .next (s.setPort port { p with tx := mput p.tx strm ((mget [] p.tx strm).drop n) })

end Sys2Proof.Machine
end

