-- ==== Sys2Proof/Machine/Crypto.lean ====
section
/-! DEFINITION. SHA-384 and ECDSA over brainpoolP384r1, as R401 and R422 name them (RFC 5639; the hash's constants are
those of its published standard, notes/assumptions/18.md). -/
namespace Sys2Proof.Machine

/-! ## SHA-384 -/

/-- Round constants 0 to 19. -/
def shaK0 : List (BitVec 64) :=
  [0x428A2F98D728AE22, 0x7137449123EF65CD, 0xB5C0FBCFEC4D3B2F, 0xE9B5DBA58189DBBC, 0x3956C25BF348B538,
    0x59F111F1B605D019, 0x923F82A4AF194F9B, 0xAB1C5ED5DA6D8118, 0xD807AA98A3030242, 0x12835B0145706FBE,
    0x243185BE4EE4B28C, 0x550C7DC3D5FFB4E2, 0x72BE5D74F27B896F, 0x80DEB1FE3B1696B1, 0x9BDC06A725C71235,
    0xC19BF174CF692694, 0xE49B69C19EF14AD2, 0xEFBE4786384F25E3, 0x0FC19DC68B8CD5B5, 0x240CA1CC77AC9C65]

/-- Round constants 20 to 39. -/
def shaK1 : List (BitVec 64) :=
  [0x2DE92C6F592B0275, 0x4A7484AA6EA6E483, 0x5CB0A9DCBD41FBD4, 0x76F988DA831153B5, 0x983E5152EE66DFAB,
    0xA831C66D2DB43210, 0xB00327C898FB213F, 0xBF597FC7BEEF0EE4, 0xC6E00BF33DA88FC2, 0xD5A79147930AA725,
    0x06CA6351E003826F, 0x142929670A0E6E70, 0x27B70A8546D22FFC, 0x2E1B21385C26C926, 0x4D2C6DFC5AC42AED,
    0x53380D139D95B3DF, 0x650A73548BAF63DE, 0x766A0ABB3C77B2A8, 0x81C2C92E47EDAEE6, 0x92722C851482353B]

/-- Round constants 40 to 59. -/
def shaK2 : List (BitVec 64) :=
  [0xA2BFE8A14CF10364, 0xA81A664BBC423001, 0xC24B8B70D0F89791, 0xC76C51A30654BE30, 0xD192E819D6EF5218,
    0xD69906245565A910, 0xF40E35855771202A, 0x106AA07032BBD1B8, 0x19A4C116B8D2D0C8, 0x1E376C085141AB53,
    0x2748774CDF8EEB99, 0x34B0BCB5E19B48A8, 0x391C0CB3C5C95A63, 0x4ED8AA4AE3418ACB, 0x5B9CCA4F7763E373,
    0x682E6FF3D6B2B8A3, 0x748F82EE5DEFB2FC, 0x78A5636F43172F60, 0x84C87814A1F0AB72, 0x8CC702081A6439EC]

/-- Round constants 60 to 79. -/
def shaK3 : List (BitVec 64) :=
  [0x90BEFFFA23631E28, 0xA4506CEBDE82BDE9, 0xBEF9A3F7B2C67915, 0xC67178F2E372532B, 0xCA273ECEEA26619C,
    0xD186B8C721C0C207, 0xEADA7DD6CDE0EB1E, 0xF57D4F7FEE6ED178, 0x06F067AA72176FBA, 0x0A637DC5A2C898A6,
    0x113F9804BEF90DAE, 0x1B710B35131C471B, 0x28DB77F523047D84, 0x32CAAB7B40C72493, 0x3C9EBE0A15C9BEBC,
    0x431D67C49C100D4C, 0x4CC5D4BECB3E42B6, 0x597F299CFC657E2A, 0x5FCB6FAB3AD6FAEC, 0x6C44198C4A475817]

/-- The initial hash value. -/
def shaIv : List (BitVec 64) :=
  [0xCBBB9D5DC1059ED8, 0x629A292A367CD507, 0x9159015A3070DD17, 0x152FECD8F70E5939,
    0x67332667FFC00B31, 0x8EB44A8768581511, 0xDB0C2E0D64F98FA7, 0x47B5481DBEFA4FA4]

/-- A big-endian number of bytes. -/
def beNat : List Byte → Nat
  | [] => 0
  | b :: bs => b.toNat * 256 ^ bs.length + beNat bs

/-- The n bytes of a number, big-endian. -/
def beBytes (n v : Nat) : List Byte := (leBytes n v).reverse

/-- The 64-bit big-endian words of a block. -/
def beWords : List Byte → List (BitVec 64)
  | a :: b :: c :: d :: e :: f :: g :: h :: bs => BitVec.ofNat 64 (beNat [a, b, c, d, e, f, g, h]) :: beWords bs
  | _ => []

/-- One more word of the schedule, of which the last 16 are given, newest first. -/
def shaNext (w : List (BitVec 64)) : BitVec 64 :=
  let w2 := nth 0 w 1
  let w15 := nth 0 w 14
  let s0 := w15.rotateRight 1 ^^^ w15.rotateRight 8 ^^^ (w15 >>> 7)
  let s1 := w2.rotateRight 19 ^^^ w2.rotateRight 61 ^^^ (w2 >>> 6)
  nth 0 w 15 + s0 + nth 0 w 6 + s1

/-- The schedule's words, newest first, after n more. -/
def shaWords : Nat → List (BitVec 64) → List (BitVec 64)
  | 0, w => w
  | n + 1, w => shaWords n (shaNext w :: w)

/-- One round over the eight working words. -/
def shaRound (h : List (BitVec 64)) (kw : BitVec 64 × BitVec 64) : List (BitVec 64) :=
  match h with
  | [a, b, c, d, e, f, g, i] =>
    let s1 := e.rotateRight 14 ^^^ e.rotateRight 18 ^^^ e.rotateRight 41
    let t1 := i + s1 + ((e &&& f) ^^^ (~~~e &&& g)) + kw.1 + kw.2
    let s0 := a.rotateRight 28 ^^^ a.rotateRight 34 ^^^ a.rotateRight 39
    let t2 := s0 + ((a &&& b) ^^^ (a &&& c) ^^^ (b &&& c))
    [t1 + t2, a, b, c, d + t1, e, f, g]
  | _ => h

/-- One block of 128 bytes. -/
def shaBlock (h : List (BitVec 64)) (b : List Byte) : List (BitVec 64) :=
  let w := (shaWords 64 (beWords b).reverse).reverse
  List.zipWith (· + ·) h (((shaK0 ++ shaK1 ++ shaK2 ++ shaK3).zip w).foldl shaRound h)

/-- The blocks of a padded message, n of them. -/
def shaBlocks : Nat → List (BitVec 64) → List Byte → List (BitVec 64)
  | 0, h, _ => h
  | n + 1, h, b => shaBlocks n (shaBlock h (b.take 128)) (b.drop 128)

/-- SHA-384 of bytes: 48 bytes. -/
def sha384 (b : List Byte) : List Byte :=
  let n := b.length
  let z := (239 - n % 128) % 128
  let m := b ++ [0x80] ++ List.replicate z 0 ++ beBytes 16 (8 * n)
  ((shaBlocks (m.length / 128) shaIv m).take 6).flatMap fun w => beBytes 8 w.toNat

/-! ## brainpoolP384r1 -/

/-- The field's prime p (RFC 5639). -/
def curveP : Nat :=
  0x8CB91E82A3386D280F5D6F7E50E641DF152F7109ED5456B412B1DA197FB71123ACD3A729901D1A71874700133107EC53

/-- The coefficient A. -/
def curveA : Nat :=
  0x7BC382C63D8C150C3C72080ACE05AFA0C2BEA28E4FB22787139165EFBA91F90F8AA5814A503AD4EB04A8C7DD22CE2826

/-- The coefficient B. -/
def curveB : Nat :=
  0x4A8C7DD22CE28268B39B55416F0447C2FB77DE107DCD2A62E880EA53EEB62D57CB4390295DBC9943AB78696FA504C11

/-- The base point. -/
def curveG : Nat × Nat :=
  (0x1D1C64F068CF45FFA2A63A81B7C13F6B8847A3E77EF14FE3DB7FCAFE0CBD10E8E826E03436D646AAEF87B2E247D4AF1E,
   0x8ABE1D7520F9C2A45CB1EB8E95CFD55262B70B29FEEC5864E19C054FF99129280E4646217791811142820341263C5315)

/-- The order q of the base point. -/
def curveQ : Nat :=
  0x8CB91E82A3386D280F5D6F7E50E641DF152F7109ED5456B31F166E6CAC0425A7CF3AB6AF6B7FC3103B883202E9046565

/-- b to the power e modulo m, over n bits of e. -/
def powMod (m : Nat) : Nat → Nat → Nat → Nat
  | 0, _, _ => 1
  | n + 1, b, e => let r := powMod m n (b * b % m) (e / 2); if e % 2 = 1 then b * r % m else r

/-- The inverse modulo a prime m of 384 bits. -/
def invMod (m a : Nat) : Nat := powMod m 384 (a % m) (m - 2)

/-- The sum of two points; none is the point at infinity. -/
def pointAdd : Option (Nat × Nat) → Option (Nat × Nat) → Option (Nat × Nat)
  | none, t => t
  | u, none => u
  | some u, some t =>
    let p := curveP
    if u.1 = t.1 ∧ (u.2 + t.2) % p = 0 then none
    else
      let l :=
        if u.1 = t.1 then (3 * u.1 * u.1 + curveA) * invMod p (2 * u.2) % p
        else (t.2 + p - u.2) * invMod p (t.1 + p - u.1) % p
      let x := (l * l + 2 * p - u.1 - t.1) % p
      some (x, (l * (u.1 + p - x) + p - u.2) % p)

/-- A point in Jacobian coordinates: (X, Y, Z) stands for (X ÷ Z², Y ÷ Z³), and Z = 0 for the point at infinity. -/
structure Jac where
  x : Nat
  y : Nat
  z : Nat
  deriving DecidableEq, Repr

/-- a − b in the field. -/
def fieldSub (a b : Nat) : Nat := (a + curveP - b % curveP) % curveP

/-- Twice a point. -/
def Jac.double (u : Jac) : Jac :=
  let p := curveP
  let yy := u.y * u.y % p
  let w := 4 * u.x * yy % p
  let zz := u.z * u.z % p
  let m := (3 * u.x * u.x + curveA * (zz * zz % p)) % p
  let x := fieldSub (m * m) (2 * w)
  ⟨x, fieldSub (m * fieldSub w x) (8 * yy * yy), 2 * u.y * u.z % p⟩

/-- The sum of two points. -/
def Jac.add (u t : Jac) : Jac :=
  if u.z = 0 then t
  else if t.z = 0 then u
  else
    let p := curveP
    let uz := u.z * u.z % p
    let tz := t.z * t.z % p
    let a := u.x * tz % p
    let b := u.y * (tz * t.z % p) % p
    let h := fieldSub (t.x * uz) a
    let r := fieldSub (t.y * (uz * u.z % p)) b
    if h = 0 then (if r = 0 then u.double else ⟨1, 1, 0⟩)
    else
      let hh := h * h % p
      let v := a * hh % p
      let x := fieldSub (r * r) (hh * h + 2 * v)
      ⟨x, fieldSub (r * fieldSub v x) (b * (hh * h % p)), h * (u.z * t.z % p) % p⟩

/-- k times a point, over n bits of k. -/
def Jac.mul : Nat → Nat → Jac → Jac
  | 0, _, _ => ⟨1, 1, 0⟩
  | n + 1, k, u =>
    let r := Jac.mul n (k / 2) u.double
    if k % 2 = 1 then u.add r else r

/-- k times a point, over n bits of k. -/
def pointMul (n k : Nat) (u : Option (Nat × Nat)) : Option (Nat × Nat) :=
  match u with
  | none => none
  | some u =>
    let j := Jac.mul n k ⟨u.1, u.2, 1⟩
    if j.z = 0 then none
    else
      let i := invMod curveP j.z
      let ii := i * i % curveP
      some (j.x * ii % curveP, j.y * (ii * i % curveP) % curveP)

/-- A key's uncompressed point. -/
def pointBytes (u : Nat × Nat) : List Byte := 4 :: (beBytes 48 u.1 ++ beBytes 48 u.2)

/-- The point of 97 bytes, if it is on the curve. -/
def bytesPoint (b : List Byte) : Option (Nat × Nat) :=
  let x := beNat ((b.drop 1).take 48)
  let y := beNat (b.drop 49)
  if b.length = 97 ∧ b.head? = some 4 ∧ x < curveP ∧ y < curveP ∧ (y * y) % curveP = (x * x * x + curveA * x + curveB) % curveP
  then some (x, y) else none

/-- ECDSA: whether (r, s) signs the hash number e under a key. -/
def ecdsaOk (u : Nat × Nat) (e r s : Nat) : Bool :=
  if r = 0 ∨ curveQ ≤ r ∨ s = 0 ∨ curveQ ≤ s then false
  else
    let w := invMod curveQ s
    match pointAdd (pointMul 384 (e * w % curveQ) (some curveG)) (pointMul 384 (r * w % curveQ) (some u)) with
    | none => false
    | some v => v.1 % curveQ == r

/-- ECDSA: the signature (r, s) of the hash number e under the key d with the per-signature number k. -/
def ecdsaSign (d k e : Nat) : Nat × Nat :=
  let r := match pointMul 384 k (some curveG) with
    | some u => u.1 % curveQ
    | none => 0
  (r, invMod curveQ k * (e + r * d) % curveQ)

/-- SIGR and SIGS of a message under the key d (R425). -/
def signature (d k : Nat) (msg : List Byte) : List Byte :=
  let g := ecdsaSign d k (beNat (sha384 msg))
  beBytes 48 g.1 ++ beBytes 48 g.2

/-- The per-signature number of this step, which ECDSA leaves free: 1 to q − 1 (R8). -/
def State.freeScalar (s : State) : Nat :=
  1 + ((List.range 6).foldl (fun n i => n * 2 ^ 64 + (s.free (940 + i)).toNat) 0) % (curveQ - 1)

/-- The identifier of a key (R422): the first 16 bytes of the hash of its uncompressed point. -/
def keyId (u : List Byte) : List Byte := (sha384 u).take 16

/-- The parts of a signature block of R401: identifier, r, s. -/
def sigParts (b : List Byte) : List Byte × Nat × Nat := (b.take 16, beNat ((b.drop 16).take 48), beNat ((b.drop 64).take 48))

/-- A signature by the key that it names among some keys (R401, R423). -/
def signedBy (keys : List (List Byte)) (msg sig : List Byte) : Bool :=
  let g := sigParts sig
  keys.any fun k => keyId k == g.1 && (match bytesPoint k with
    | some u => ecdsaOk u (beNat (sha384 msg)) g.2.1 g.2.2
    | none => false)

/-- The points with a given x. -/
def pointsAt (x : Nat) : List (Nat × Nat) :=
  let z := (x * x * x + curveA * x + curveB) % curveP
  let y := powMod curveP 384 z ((curveP + 1) / 4)
  if curveP ≤ x ∨ y * y % curveP ≠ z then [] else [(x, y), (x, (curveP - y) % curveP)]

/-- Every key under which (r, s) signs the hash number e: R422 gives hashes of keys, not the keys. -/
def signers (e r s : Nat) : List (Nat × Nat) :=
  let w := invMod curveQ r
  (pointsAt r ++ pointsAt (r + curveQ)).filterMap fun u =>
    let v := pointAdd (pointMul 384 (s * w % curveQ) (some u))
      (pointMul 384 ((curveQ - e % curveQ) * w % curveQ) (some curveG))
    v.filter fun v => ecdsaOk v e r s

/-- A signature by a key with a fused hash (R422): the identifier, the key's hash and the signature agree. -/
def signedByFused (hashes : List (List Byte)) (msg sig : List Byte) : Bool :=
  let g := sigParts sig
  hashes.any (fun h => h.take 16 == g.1) &&
    (signers (beNat (sha384 msg)) g.2.1 g.2.2).any fun u =>
      let h := sha384 (pointBytes u)
      h.take 16 == g.1 && hashes.contains h

end Sys2Proof.Machine
end

