-- ==== Sys2Proof/Machine/Image.lean ====
section
/-! DEFINITION. Breo images: their form (R400, R401) and their loading (R402). -/
namespace Sys2Proof.Machine

/-! ## The file -/

/-- An entry of the section table (R400). -/
structure Section where
  type : Nat
  foff : Nat
  fsize : Nat
  loff : Nat
  ok : Bool
  deriving DecidableEq, Repr

/-- The alignment of a section's load offset (R400). -/
def sectionAlign (type : Nat) : Nat :=
  if type = 1 ∨ type = 2 ∨ type = 3 ∨ type = 5 ∨ type = 6 ∨ type = 7 then 64 else if type = 8 then 16 else 1

/-- The entry of 32 bytes, with what R400 asks of its own fields. -/
def sectionOf (b : List Byte) : Section :=
  let w := leNat b
  let ty := bits w 0 8
  let g := bits w 8 8
  { type := ty, foff := bits w 64 64, fsize := bits w 128 64, loff := bits w 192 64
    ok := 1 ≤ ty && ty ≤ 10 && (if ty = 2 then decide (g < 8) else bits w 8 24 == 0) && bits w 32 32 == 0 &&
      bits w 192 64 % sectionAlign ty == 0 }

/-- A number of n bytes at an offset of a file. -/
def fileNum (f : List Byte) (off n : Nat) : Nat := leNat ((f.drop off).take n)

/-- The sections of a file. -/
def sectionsOf (f : List Byte) : List Section :=
  (List.range (fileNum f 6 2)).map fun k => sectionOf ((f.drop (fileNum f 0x10 8 + 32 * k)).take 32)

/-- Whether the reserved byte of each entry of a synchronisation table is 0 (R7, R400). -/
def syncOk (f : List Byte) (c : Section) : Bool :=
  c.type != 4 || (List.range (c.fsize / 16)).all fun k => nth 0 f (c.foff + 16 * k + 3) == 0

/-- R402 step 2: the header, the section table and the reserved fields of the tables. -/
def imageOk (f : List Byte) : Bool :=
  let n := f.length
  0x40 ≤ n && fileNum f 0 4 == 0x4F45_5242 && fileNum f 4 2 == 1 && 1 ≤ fileNum f 6 2 && fileNum f 6 2 ≤ 4096 &&
    fileNum f 8 8 < 8 && fileNum f 0x10 8 % 8 == 0 && fileNum f 0x10 8 + 32 * fileNum f 6 2 ≤ n && fileNum f 0x28 24 == 0 &&
    (sectionsOf f).all fun c => c.ok && c.foff + c.fsize ≤ n && c.loff + c.fsize ≤ fileNum f 0x20 8 && syncOk f c

/-- R402 step 3: the signature of an image, by one of some keys (R401, R423). -/
def imageSigned (keys : List (List Byte)) (f : List Byte) : Bool :=
  let o := fileNum f 0x18 8
  o != 0 && o + 112 == f.length && signedBy keys (f.take o) (f.drop o)

/-- R402 step 4: every launch record's FEAT is the header's. -/
def featsAgree (f : List Byte) : Bool :=
  ((sectionsOf f).filter fun c => c.type == 5).all fun c =>
    (List.range (c.fsize / 256)).all fun k => fileNum f (c.foff + 256 * k + 0x18) 8 == fileNum f 8 8

/-! ## Loading -/

/-- What R402 asks of the pages that a section lies on. -/
def sectionPage (type e : Nat) : Bool :=
  (!(1 ≤ type && type ≤ 3) || ptePX e) && (!(3 ≤ type && type ≤ 7) || ptePin e)

/-- The firmware's write of one piece of a page (R402): to wherever the page is (R33, R90), whatever it permits; counted at its
channels (R83). -/
def State.firmPut (s : State) (c va : Nat) (bs : List Byte) : State :=
  match s.leaf c va with
  | none => s
  | some e =>
    let o := va % pageBytes (pteSize e)
    match farOf (pteTier e) with
    | none => (s.write .phys (pteFrame e * 4096 + o) bs c).countRun c (pteHS e) (pteFrame e * 4096 + o) bs.length
    | some f => s.write f.loc (s.farAt f (pteFrame e) + o) bs c

/-- The firmware's write of the pieces of a range; a page in demotion stays (R97), a replicated one is collapsed (R56). -/
def State.firmWrite (s : State) (c : Nat) : List Piece → List Byte → State
  | [], _ => s
  | p :: ps, bs =>
    let s := s.cancelDemotions c p.va p.len
    let s := match s.leaf c p.va with
      | some e => s.settle c ⟨.phys, 0, p.len, e, p.va⟩
      | none => s
    (s.firmPut c p.va (bs.take p.len)).firmWrite c ps (bs.drop p.len)

/-- R402 step 5: the sections copied in order, up to one whose pages are not mapped so. -/
def State.loadSections (s : State) (c : Nat) (f : List Byte) (at_ : VA) : List Section → State × Bool
  | [] => (s, true)
  | q :: qs =>
    let v := VA.plus at_ q.loff
    -- a page in demotion has its leaf again once its demotion is cancelled
    let s := s.cancelDemotions c v.toNat q.fsize
    if s.onPages c v q.fsize (sectionPage q.type) then
      (s.firmWrite c (vaPieces v q.fsize) ((f.drop q.foff).take q.fsize)).loadSections c f at_ qs
    else (s, false)

/-- IMG_LOAD (R402): R0 is the address of the task-stream section. -/
def execImgLoad (s : State) : Out :=
  s.ctxCommand 0x48 fun s m c x =>
    if x.st != .created && x.st != .halted && x.st != .suspended then s.refuse .busy
    else
      let f := s.hostRead (m.arg 0) (m.arg 1).toNat
      if !imageOk f || 2 ^ 16 ≤ (m.arg 2).toNat then s.refuse .reject
      else if (x.sigreq || fileNum f 0x18 8 != 0) && !imageSigned s.sec.running.keys f then s.refuse .auth
      else if !featsAgree f then s.refuse .reject
      else
        match s.loadSections c f ⟨(m.arg 2).truncate 16, m.arg 3⟩ (sectionsOf f) with
        | (s, false) => s.refuse .reject
        | (s, true) =>
          s.done (match (sectionsOf f).find? fun q => q.type == 8 with
            | some q => [m.arg 3 + w64 q.loff]
            | none => [])

end Sys2Proof.Machine
end

