-- ==== Sys2Proof/Machine/Platform.lean ====
section
/-! DEFINITION. The platform: commands of security and identity (R422 to R425), queries (R392), the completion of commands
that wait (R391), the counter snapshot and telemetry (R85, R426), clock steps and the thermal trip (R420, R421), cold
reset (R422), the debug lock, JTAG and function-level reset (R427). -/
namespace Sys2Proof.Machine

/-! ## Firmware images -/

/-- A firmware image of bytes, with at most eight image keys (R423). -/
def firmwareOf (b : List Byte) : FwImage := ⟨b, Config.fwVersion b, (Config.fwKeys b).take 8⟩

/-- R422 step 3 without the version: the signature of R401 over all the bytes before it, by one of up to four fused keys. -/
def Security.signed (k : Security) (b : List Byte) : Bool :=
  112 ≤ b.length && signedByFused (k.keyHashes.take 4) (b.take (b.length - 112)) (b.drop (b.length - 112))

/-- R422 step 3. -/
def Security.boots (k : Security) (i : FwImage) : Bool := k.signed i.bytes && k.svn ≤ i.version

/-- FW_UPDATE (R424): the command waits for the writing and verifying; another one while it runs is BUSY. -/
def execFwUpdate (s : State) : Out :=
  s.command 0x51 fun s _ =>
    if s.sec.updating.isSome then s.refuse .busy
    else (({ s with sec := { s.sec with updating := some s.cur.sub.mb } } : State)).cmdWait s.cur.sub.mb

/-- The end of a FW_UPDATE (R424): a verified image stands in the slot that is not active. -/
def State.fwUpdateEnd (s : State) (mb : Nat) : State :=
  let m := s.mbx mb
  let b := s.hostRead (m.arg 0) (m.arg 1).toNat
  let i := firmwareOf b
  let s : State := { s with sec := { s.sec with updating := none } }
  if !s.sec.signed b then s.cmdEnd mb .auth []
  else if i.version < s.sec.svn then s.cmdEnd mb .reject []
  else
    ({ s with sec := { s.sec with slots := setNth s.sec.slots (1 - s.sec.active) i, pendingBoot := true } } : State).cmdEnd mb .ok
      []

/-- Bytes 0x00 to 0x7F of the report of R425. -/
def Security.report (k : Security) (nonce : List Byte) : List Byte :=
  leBytes 8 (1 + b2n k.debugSeen * 2 ^ 16 + b2n k.recovery * 2 ^ 17) ++ leBytes 16 k.chipId ++
    leBytes 8 (k.running.version % 2 ^ 32 + k.svn % 2 ^ 32 * 2 ^ 32) ++ sha384 k.running.bytes ++ nonce

/-- The device identity key of this boot (R425), from the fused secret and the running firmware's hash. -/
def Security.idKey (k : Security) : Nat := 1 + Config.idKey k.idSecret (sha384 k.running.bytes) % (curveQ - 1)

/-- ATTEST (R425): the report with its signature by the identity key, whose per-signature number is free (R8). -/
def execAttest (s : State) : Out :=
  s.command 0x50 fun s m =>
    let body := s.sec.report (s.hostRead (m.arg 0) 48)
    (s.hostWrite (m.arg 1) (body ++ signature s.sec.idKey s.freeScalar body)).done []

/-- The tiers of R2 that the device has: bit k is Tk. T2 exists where a host provides it (R2, R90). -/
def State.tiersPresent (s : State) : Nat := 1 + b2n s.form.hasLpm * 2 + b2n (s.cxmLen != 0) * 4 + b2n s.form.hasLpm * 8

/-- The ports whose links are up (R395, R398). -/
def State.linksUp (s : State) : Nat := ((s.ports.filter fun p => !p.2.failed && p.2.peerOpen.isSome).map fun p => 2 ^ p.1).sum

/-- QUERY (R2, R392): no rule gives the places of the figures. R0[3:0] reports the tiers present, R1 the links that are up,
R2 the FEATMASK of the tile that A0 numbers (notes/assumptions/74.md); all else is free (R8). -/
def execQuery (s : State) : Out :=
  s.command 0x52 fun s m =>
    s.done [s.free 900 <<< 4 ||| w64 s.tiersPresent, w64 s.linksUp, (s.tile (m.arg 0).toNat).featmask]

/-! ## Commands that wait -/

/-- Whether a CTX_DESTROY of a context waits in a mailbox. -/
def State.destroyWaits (s : State) (c : Nat) : Bool :=
  s.mbxs.any fun p => p.2.run && p.2.waiting && p.2.opc == 0x02 && p.2.ctx.toNat == c

/-- COMMAND_COMPLETION (R391): a command that waits completes, if what it waits for has come; a context that a
function-level reset destroys (R427) goes without one. -/
def execCommandCompletion (s : State) : Out :=
  let mb := s.cur.sub.mb
  let m := s.mbx mb
  let c := m.ctx.toNat
  if !m.run || !m.waiting then
    let d := s.cur.sub.ctx
    .next (if s.destroyDone d && !s.destroyWaits d then s.removeCtx d else s)
  else
    match m.opc.toNat with
    | 0x02 =>
      .next
        (if (mget? s.ctxs c).isNone then s.cmdEnd mb .ok []
         else if s.destroyDone c then (s.removeCtx c).cmdEnd mb .ok []
         else s)
    | 0x04 =>
      let x := s.ctx c
      if (mget? s.ctxs c).isNone then .next (s.cmdEnd mb .noctx [])
      else if x.st = .dead then .next (s.cmdEnd mb .busy [])
      else if x.drained && !x.destroying then .next ((s.suspended c).cmdEnd mb .ok [])
      else .next s
    | 0x23 =>
      let r := s.peerAnswer
      .next (s.cmdEnd mb r.1 [r.2])
    | 0x51 => .next (s.fwUpdateEnd mb)
    | _ => .next s

/-! ## Snapshot -/

/-- The limit of a compute die's rail in 1/16 W (R419), and the sensor readings in 1/16 °C of R421. -/
def dieLimit : Nat := 380 * 16
def hotTemp : Nat := 95 * 16
def coolTemp : Nat := 90 * 16
def tripTemp : Nat := 115 * 16

/-- Whether a die's clock must come down (R421). -/
def Die.hot (d : Die) : Bool := dieLimit < d.power || hotTemp ≤ d.temp

/-- Whether a die is below 90 % of its limit and below 90 °C (R421). -/
def Die.cool (d : Die) : Bool := d.power * 10 < dieLimit * 9 && d.temp < coolTemp

/-- The sensors of die k sampled: free values; a sample that is not cool begins its 10 ms again (R421). -/
def State.sample (s : State) (k : Nat) : State :=
  s.updDie k fun d =>
    let d := { d with temp := (s.free (920 + k)).toNat % 2 ^ 16, power := (s.free (930 + k)).toNat % 2 ^ 32 }
    if d.cool then d else { d with coolSince := s.time }

/-- The telemetry block (R426). -/
def State.telemetry (s : State) : SMap Word :=
  let dies := (List.range 4).map fun k => (8 + 8 * k, w64 ((s.die k).temp + (s.die k).step * 2 ^ 16))
  let rails := (List.range 7).map fun k => (0x30 + 8 * k, w64 (if k < 4 then (s.die k).power else mget 0 s.railPower k))
  [(0, s.snapSeq)] ++ dies ++ [(0x28, w64 s.hubTemp)] ++ rails ++ [(0x68, w64 s.modPower)]

/-- The counter page at a snapshot point (R84, R85): counter j of set k of channel n stands at 8 × (16n + 4k + j). -/
def State.cntWrite (s : State) (pa : Nat) : State :=
  let s := (s.zeroBytes .phys pa 0x9000).countRun 0xFFFF 0 pa 0x9028
  let s := s.chanCnt.foldl (fun s p => s.write .phys (pa + 8 * p.1) (leBytes 8 p.2) 0xFFFF) s
  let ws := [s.snapSeq, w64 s.snapTime, mget 0 s.attr 1, mget 0 s.attr 2, mget 0 s.attr 3]
  s.write .phys (pa + 0x9000) (ws.flatMap fun w => leBytes 8 w.toNat) 0xFFFF

/-- The tick of the last snapshot point has passed (R85). -/
def State.snapDue (s : State) : Bool := s.snapAt + 18000 ≤ s.time

/-- COUNTER_SNAPSHOT (R85, R426). -/
def execCounterSnapshot (s : State) : Out :=
  if !s.snapDue then .next s
  else
    let s : State := { s with snapAt := s.ticks * 18000, snapTime := s.ticks, snapSeq := s.snapSeq + 2 }
    let s := (List.range s.form.dies).foldl (fun s k => s.sample k) s
    let s : State :=
      { s with
        railPower := [4, 5, 6].map fun k => (k, (s.free (930 + k)).toNat % 2 ^ 32)
        hubTemp := (s.free 924).toNat % 2 ^ 16
        modPower := if s.form = .en4m then (s.free 937).toNat % 2 ^ 32 else 0 }
    let s : State := { s with telem := s.telemetry, attrNow := s.attr }
    .next (match s.cntFrame with
      | some pa => s.cntWrite pa
      | none => s)

/-! ## Power and temperature -/

/-- The period of a die's clock in units of 1/18 ns (R420). -/
def stepPeriod (k : Nat) : Nat :=
  match k with
  | 0 => 10
  | 1 => 12
  | 2 => 15
  | _ => 20

/-- Whether a frame of the clock at step k begins now (R131): the frames of each clock are counted from power-on. -/
def State.frameEdge (s : State) (k : Nat) : Bool := s.time % (32 * stepPeriod k) == 0

/-- Whether the firmware lowers die k's clock now (R421): once for a sample, at a boundary of the die's NoC frame, where a frame
of the new clock begins too, so that dies at one clock keep one phase (R131, R420; notes/assumptions/9.md). -/
def State.stepsDown (s : State) (k : Nat) : Bool :=
  let d := s.die k
  d.hot && d.step < 3 && d.coolSince ≤ s.time && d.phase == 0 && s.frameEdge (d.step + 1)

/-- CLOCK_STEP_DOWN (R420, R421) of die `sub.die`. -/
def execClockStepDown (s : State) : Out :=
  .next
    (if s.stepsDown s.cur.sub.die then
      s.updDie s.cur.sub.die fun d => { d with step := d.step + 1, coolSince := max (s.snapAt + 18000) (s.time + 1) }
     else s)

/-- Whether the firmware raises die k's clock now (R421): it has been cool for 10 ms, and a NoC frame begins at the die's old
clock and at its new one (R131, R420; notes/assumptions/9.md). -/
def State.stepsUp (s : State) (k : Nat) : Bool :=
  let d := s.die k
  d.cool && 0 < d.step && d.coolSince + 180_000_000 ≤ s.time && d.phase == 0 && s.frameEdge (d.step - 1)

/-- CLOCK_STEP_UP (R420, R421) of die `sub.die`. -/
def execClockStepUp (s : State) : Out :=
  .next
    (if s.stepsUp s.cur.sub.die then
      s.updDie s.cur.sub.die fun d => { d with step := d.step - 1, coolSince := s.time }
     else s)

/-- A tile whose state is gone: all cleared but its fused features (R119). -/
def Tile.cleared (x : Tile) : Tile := { Tile.reset with featmask := x.featmask, copyId := x.copyId }

/-- Every tile and cluster cleared. -/
def State.clearTiles (s : State) : State := { s with tiles := mmap (fun _ x => x.cleared) s.tiles, clusters := [] }

/-- R421: a resident context dies with the dies. -/
def State.tripCtx (s : State) (c : Nat) : State :=
  let s := s.updCtx c fun x => { x.rollback x.rv.pos with st := .dead, fatal := none }
  s.leaveDead c

/-- Whether a die, the hub's among them, has reached the temperature of the trip (R421, R426). -/
def State.tripDue (s : State) : Bool :=
  !s.tripped && (tripTemp ≤ s.hubTemp || s.dies.any fun p => p.1 < 4 && tripTemp ≤ p.2.temp)

/-- THERMAL_TRIP (R421). -/
def execThermalTrip (s : State) : Out :=
  if !s.tripDue then .next s
  else
    let s := { s.clearTiles with tripped := true }
    let s := s.residents.foldl (fun s c => s.tripCtx c) s
    let s : State := { s with dies := mmap (fun _ d => { d with shadow := none, slots := [], missQ := [] }) s.dies }
    .next (s.logMgmt 0xFFFF 0)

/-! ## Cold reset -/

/-- R422 steps 1 to 5: the slot that boots, if one does; an image newly written goes first (R424). -/
def Security.boot (k : Security) : Security :=
  let order := if k.pendingBoot then [1 - k.active, k.active] else [k.active, 1 - k.active]
  let img (n : Nat) : FwImage := nth ⟨[], 0, []⟩ k.slots n
  let k := { k with debugOpen := false, debugSeen := false, recovery := false, pendingBoot := false, updating := none }
  match order.find? fun n => k.boots (img n) with
  | some n => { k with active := n, running := img n, svn := max k.svn (img n).version }
  | none => { k with recovery := true, running := ⟨[], 0, []⟩ }

/-- How many slots of a table of 2-bit codes hold a code. -/
def slotCount (slots w code : Nat) : Nat := (List.range slots).countP fun i => bits w (2 * i) 2 == code

/-- R131: a frame of 28 DATA, 2 CTRL, 1 MGMT and 1 MIG slots. -/
def netFrameOk (w : BitVec 64) : Bool :=
  slotCount 32 w.toNat 0 == 28 && slotCount 32 w.toNat 1 == 2 && slotCount 32 w.toNat 2 == 1 && slotCount 32 w.toNat 3 == 1

/-- R78: a channel frame without reserved codes, of at least 4 REF slots and 1 MIG slot. -/
def chanFrameOk (w : BitVec 128) : Bool :=
  4 ≤ slotCount 64 w.toNat 2 && 1 ≤ slotCount 64 w.toNat 1 && slotCount 64 w.toNat 3 == 0

/-- R5, R78, R88, R131, R198: the firmware that runs loads its tables and control values, those of its image; a table that it
refuses leaves the default in force. -/
def State.loadTables (s : State) : State :=
  let b := s.sec.running.bytes
  if s.sec.recovery then s
  else
    { s with
      netFrame := if netFrameOk (Config.fwNetFrame b) then Config.fwNetFrame b else s.netFrame
      chanTables := ((List.range 9).map fun k => (k, Config.fwChanFrame b k)).filter fun p => chanFrameOk p.2
      chanPhase := (List.range 288).map fun k => (k, Config.fwChanPhase b k % 64)
      routing := Config.fwRouting b
      swth := Config.fwSwth b % 2 ^ 16
      epoch := Config.fwEpoch b % 2 ^ 16
      cf := (List.range 4).map fun k => let f := Config.fwCf b k; if 1 ≤ f ∧ f ≤ 15 then f else nth 1 s.cf k }

/-- The channel frame of a stack (8: the LPDDR 6 controller): the table loaded, or the default (R78). -/
def State.chanTable (s : State) (k : Nat) : BitVec 128 := mget s.chanFrame s.chanTables k

/-- The type code of the slot that a channel is in at a cycle of the frame's clock (R78): slots of 32 cycles, read with the
channel's phase. -/
def State.chanSlot (s : State) (ch cycle : Nat) : Nat :=
  bits (s.chanTable (if ch < 256 then ch / 32 else 8)).toNat (2 * ((cycle / 32 + mget 0 s.chanPhase ch) % 64)) 2

/-- COLD_RESET (R422): what is fused or outside the chip stays; the firmware loads its tables (R5). -/
def execColdReset (s : State) : Out :=
  .next <| State.loadTables
    { State.reset with
      form := s.form, host := s.host, freeCtr := s.freeCtr, sec := s.sec.boot
      hostBad := s.hostBad, hostUndef := s.hostUndef
      fltUndef := [⟨0, 2 ^ 45, s.freeCtr⟩]
      tiles := s.tiles.map fun p => (p.1, { Tile.reset with featmask := p.2.featmask }) }

/-! ## Debug and reset of a port -/

/-- An unlock token (R427): the chip ID, then a signature of R401 over it by a fused key. -/
def Security.tokenOk (k : Security) (b : List Byte) : Bool :=
  b.length == 128 && leNat (b.take 16) == k.chipId && signedByFused (k.keyHashes.take 4) (b.take 16) (b.drop 16)

/-- DEBUG_UNLOCK (R427): every context is destroyed and every tile cleared. -/
def execDebugUnlock (token : List Byte) (s : State) : Out :=
  if !s.sec.tokenOk token then .next s
  else
    let s : State := { s.clearTiles with sec := { s.sec with debugOpen := true, debugSeen := true } }
    .next ((mkeys s.ctxs).foldl (fun s c => s.removeCtx c) s)

/-- Whether the lock is open and an OPS address names a byte of a window that R23 gives. -/
def State.jtagReaches (s : State) (oa : Nat) : Bool :=
  let p := opsParts oa
  s.sec.debugOpen && p.tile < 128 * s.form.dies && p.off < winExtent p.win && (p.win != 6 || p.tile % 4 == 0)

/-- JTAG_OPS_ACCESS (R427): a read of one byte, whose answer at the port is zero while the lock is closed, or a write of
one to a window that R23 lets be written. A byte of a window of words is written with the rest of its word. -/
def execJtagOps (oa : Nat) (wr : Option Byte) (s : State) : Out :=
  let p := opsParts oa
  match wr with
  | none => .next { s with jtagResp := [if s.jtagReaches oa then ((s.opsRead oa 1).headD (0, false)).1 else 0] }
  | some b =>
    if !s.jtagReaches oa || 3 ≤ p.win then .next s
    else if p.win = 2 then
      let old := leBytes 8 ((s.tile p.tile).regWord (p.off / 8)).toNat
      .next (s.opsWrite p.tile 2 (p.off / 8 * 8) ((setNth old (p.off % 8) b).map fun b => (b, false)))
    else .next (s.opsWrite p.tile p.win p.off [(b, false)])

/-- FUNCTION_LEVEL_RESET (R427): every context that was created through the port is destroyed. -/
def execFunctionLevelReset (port : Nat) (s : State) : Out :=
  .next ((s.ctxs.filter fun p => p.2.port == port && !p.2.destroying).foldl (fun s p => s.beginDestroy p.1) s)

end Sys2Proof.Machine
end

