-- ==== Sys2Proof/Machine/Bundle.lean ====
section
/-! DEFINITION. Bundles: their form (R252 to R255), their fetch (R54), the checks before issue (R257 to R259, R277), what
holds one back (R260, R261, R264, R266), and what its issue sets (R256). -/
namespace Sys2Proof.Machine

/-! ## Form -/

/-- A header syllable (R253), with the length of its bundle (R252). -/
structure Header where
  stop : Bool
  slots : Nat
  long : Nat
  scope : Nat
  iqlev : Nat
  gap : Nat
  rsvd : Nat
  len : Nat
  deriving DecidableEq, Repr

/-- The header of a word. -/
def headerOf (h : Nat) : Header :=
  ⟨nbit h 31, bits h 23 8, bits h 15 8, bits h 12 3, bits h 9 3, bits h 5 4, bits h 0 5, bundleLen h⟩

/-- The slots of a header, ascending. -/
def Header.slotList (h : Header) : List Nat := (List.range 8).filter (nbit h.slots)

/-- The slot syllables of a bundle (R252): one for each slot, with its immediate word where LONG has its bit. -/
def sylsOf (long : Nat) : List Nat → List (BitVec 32) → List (Nat × Syl)
  | [], _ => []
  | _, [] => []
  | k :: ks, w :: ws =>
    if nbit long k then (k, ⟨w, some (ws.headD 0)⟩) :: sylsOf long ks (ws.drop 1) else (k, ⟨w, none⟩) :: sylsOf long ks ws

/-- A bundle. -/
structure Bundle where
  h : Header
  syls : List (Nat × Syl)
  deriving DecidableEq, Repr

/-- The bundle of bytes. -/
def bundleOf (b : List Byte) : Bundle :=
  let h := headerOf (leNat (b.take 4))
  ⟨h, sylsOf h.long h.slotList (leWords (b.drop 4))⟩

/-- What the fetch of a bundle comes to: a cause and the address that failed, or the bundle. -/
inductive Fetched where
  | fails (c : Cause) (va : Nat) (why : ProbeWhy)
  | bundle (b : Bundle)
  deriving DecidableEq, Repr

/-- The fetch of the bundle at an address (R54): all its lines translate; poison among its bytes is consumed (R109). -/
def State.fetchBundle (s : State) (t : Nat) (a : Word) : State × Fetched :=
  match s.codeRead t a 4 with
  | (s, .error (o, va)) => (s, .fails (fetchCause o va) (lineOf va) o.why)
  | (s, .ok b) =>
    match s.codeRead t a (headerOf (leNat (b.map Prod.fst))).len with
    | (s, .error (o, va)) => (s, .fails (fetchCause o va) (lineOf va) o.why)
    | (s, .ok b) =>
      if b.any Prod.snd then (s, .fails .poison (s.codeVA t a).toNat .none) else (s, .bundle (bundleOf (b.map Prod.fst)))

/-! ## Checks (R277) -/

/-- The iteration qualifier of a syllable (R254). -/
def sylIq (y : Syl) : Nat := bits y.w.toNat 29 2

/-- R255: STOP of the last slot syllable and of no other. -/
def stopsOk : List (Nat × Syl) → Bool
  | [] => true
  | [p] => p.2.w.getLsbD 31
  | p :: q :: r => !p.2.w.getLsbD 31 && stopsOk (q :: r)

/-- R255. -/
def Bundle.formed (b : Bundle) : Bool :=
  b.h.stop == (b.h.slots == 0) && b.h.slots ||| b.h.long == b.h.slots && stopsOk b.syls

/-- Check 5 of a syllable for a tile with required features: the instruction, if it is one. -/
def sylInstr (feat : Word) (y : Syl) : Option Instr :=
  match decodeSyl y with
  | .ok i => if i.featNeed &&& feat == i.featNeed then some i else none
  | .error _ => none

/-- Check 6 of a syllable: its slot, and its qualifier against the group's open levels (R173, R258). -/
def slotOk (b : Bundle) (depth k : Nat) (y : Syl) (i : Instr) : Bool :=
  (slotMask i).getLsbD k && (sylIq y == 0 || b.h.iqlev < depth)

/-- The destinations that R259 compares. -/
def Dest.compared (d : Dest) : Bool :=
  match d with
  | .x r => r != 0
  | .csr _ => false
  | _ => true

/-- The `x` registers that syllables read (R259): each once, without `x0`. -/
def readRegs (is : List Instr) : List Nat := (((is.flatMap sources).map (·.toNat)).filter (· != 0)).eraseDups

/-- R259. -/
def crossOk (is : List Instr) : Bool :=
  let ds := is.flatMap fun i => ((dests i).filter Dest.compared).eraseDups
  let bs := is.filterMap bankOf
  (is.countP seqClass ≤ 1) && ds.eraseDups.length == ds.length && (readRegs is).length ≤ 16 && bs.eraseDups.length == bs.length

/-- Instructions that stand only in a lockstep tile (R167, R170). -/
def lockstepOnly (i : Instr) : Bool :=
  match i with
  | .fork _ _ | .exit _ => true
  | _ => false

/-- The first slot whose syllable fails a test. -/
def firstBad (p : Nat × Syl → Bool) (l : List (Nat × Syl)) : Option Nat := (l.find? fun y => !p y).map Prod.fst

/-- What the checks of R277 after the first come to: a cause with its slot, or the instructions by slot. -/
def checkBundle (x : Tile) (q : Group) (b : Bundle) : Except (Cause × Nat) (List (Nat × Instr)) :=
  let ok (p : Nat × Syl) : Bool := (sylInstr x.feat p.2).isSome
  let depth := (x.groupSeq q).loops.length
  let first := q.slotList.headD 0
  if b.h.rsvd ≠ 0 ∨ 4 < b.h.scope ∨ b.h.iqlev = 6 then .error (.illegal, first)
  else if !b.formed then .error (.bundle, first)
  else if !x.lockstep && !(b.h.slotList.all q.hasSlot) then .error (.bundle, first)
  else
    match firstBad ok b.syls with
    | some k => .error (.illegal, k)
    | none =>
      let is := b.syls.filterMap fun p => (sylInstr x.feat p.2).map fun i => (p.1, p.2, i)
      match is.find? fun p => !slotOk b depth p.1 p.2.1 p.2.2 with
      | some p => .error (.bundle, p.1)
      | none =>
        let js := is.map fun p => (p.1, p.2.2)
        if !crossOk (js.map Prod.snd) || (!x.lockstep && js.any fun p => lockstepOnly p.2) then .error (.bundle, first)
        else .ok js

/-! ## What holds a bundle back -/

/-- The step's place set to a slot of its bundle. -/
def State.atSlot (s : State) (k : Nat) : State := { s with cur := { s.cur with slot := k } }

/-- Whether an instruction reads or writes a register that waits for an interlocked result (R264). -/
def Tile.heldBy (x : Tile) (i : Instr) : Bool :=
  ((sources i) ++ (dests i).filterMap fun d => match d with
    | .x r => some r
    | _ => none).any fun r => r != 0 && x.interlocked r

/-- Whether a queue or a tag of the step's tile has no room for a syllable of slot k (R120, R121, R261): the copies that wait
in the D queue have their place in the copy queue. -/
def State.noRoom (s : State) (k : Nat) (i : Instr) : Bool :=
  let x := s.here
  (queued i && 16 ≤ (x.queue (slotEng k)).q.length) ||
    (isCopy i && 32 ≤ x.copyQ.length + x.qD.q.countP fun c => isCopy c.i) ||
    (queued i && (match s.issueTag i with
      | some g => 255 ≤ x.tagCount g
      | none => false))

/-- Whether a SETC, an RGET or a FORK of the step's group waits for what comes before it (R139, R147, R151): the first two
are releases, at TILE and PACKAGE scope, with a result of their own. -/
def State.releaseHeld (s : State) (i : Instr) : Bool :=
  let x := s.here
  let g := s.cur.group
  match i with
  | .setc _ _ => x.relPending g x.pseq 0
  | .rget _ _ _ => x.relPending g x.pseq 3 || x.writesOut g x.pseq
  | .fork _ _ => x.mems.any fun w => sameGrp w.grp g
  | _ => false

/-- The bytes of memory that an LDC reads, as 80-bit addresses. -/
def State.ldcBytes (s : State) (i : Instr) : Option (Nat × Nat) :=
  match i with
  | .ldc _ _ a sz _ _ spc => some ((s.aspVA spc (s.readX a)).toNat, szBytes sz)
  | .ldcLong _ _ a sz _ _ spc imm => some ((s.aspVA spc (s.readX a + immOf imm)).toNat, szBytes sz)
  | _ => none

/-- Byte k from an 80-bit address on, within its space. -/
def vaByte (va k : Nat) : Nat := va / 2 ^ 64 * 2 ^ 64 + (va + k) % 2 ^ 64

/-- The PA of a byte of the step's context, while its page is resident. -/
def State.byteHome (s : State) (va : Nat) : Option Nat :=
  match s.leaf s.here.ctx va with
  | some e => if pteTier e = 0 then some (copyBase e (tileDie s.cur.tile) + va % pageBytes (pteSize e)) else none
  | none => none

/-- Whether two ranges of the step's context share a byte, under one address or under two (R31). -/
def State.shareByte (s : State) (a n b m : Nat) : Bool :=
  (List.range n).any fun j => (List.range m).any fun k =>
    vaByte a j == vaByte b k || (s.byteHome (vaByte a j)).isSome && s.byteHome (vaByte a j) == s.byteHome (vaByte b k)

/-- The syllables beside those of R315 that access memory in their own step. -/
def directSyl (i : Instr) : Bool :=
  match i with
  | .loop _ _ _ _ _ _ | .hashb _ _ _ _ | .qpop _ _ _ | .recv _ => true
  | _ => false

/-- Whether a record of the step's group holds back a syllable (R133, R135, R142, R143, R315): an acquire fence and a full
one hold every access; a release fence, the syllables that write memory and have no record of their own; an acquire
that has yet to return, and an AMO with AQ, every memory syllable; a write to scratchpad that waits, every scratchpad access but
one that waits behind it; a write to memory that waits, an LDC of its bytes. -/
def State.heldByMem (s : State) (i : Instr) (w : MemWait) : Bool :=
  match w.op with
  | .acq | .full | .tot => memSyl i || directSyl i
  | .gate => memSyl i
  | .rel => (match i with
    | .qpop _ _ _ | .recv _ => true
    | _ => false)
  | .st _ _ _ => (match i with
    | .loop _ _ _ _ _ _ | .waitf _ _ _ | .flagtest _ _ _ _ _ | .ldB _ _ _ _ _ _ | .ldH _ _ _ _ _ _ | .ldW _ _ _ _ _ _
    | .ldD _ _ _ _ _ | .ldBLong _ _ _ _ _ _ | .ldHLong _ _ _ _ _ _ | .ldWLong _ _ _ _ _ _ | .ldDLong _ _ _ _ _
    | .hashb _ _ _ _ | .qpop _ _ _ | .recv _ => true
    | _ => false)
  | .stc va sz _ => (match s.ldcBytes i with
    | some (a, n) => s.shareByte a n va.toNat (szBytes sz)
    | none => false)
  | .amo _ va _ n _ _ aq => (aq && memSyl i) || (match s.ldcBytes i with
    | some (a, m) => s.shareByte a m va.toNat (n / 8)
    | none => false)

/-- Whether a syllable of the step's bundle waits for a record of its group. -/
def State.memHeld (s : State) (i : Instr) : Bool :=
  s.here.mems.any fun w => sameGrp w.grp s.cur.group && s.heldByMem i w

/-- Whether a syllable of slot k of the step's bundle, whose qualifier holds (R173), stalls its group now (R266). -/
def State.sylStalls (s : State) (k : Nat) (i : Instr) : Bool :=
  s.here.heldBy i || s.noRoom k i || s.releaseHeld i || s.memHeld i

/-- Whether a syllable of a bundle stalls its group now: one whose qualifier does not hold has no effect, and waits for
nothing (R173). -/
def State.bundleStalls (s : State) (b : Bundle) (is : List (Nat × Instr)) : Bool :=
  (b.syls.zip is).any fun p =>
    (s.atSlot p.2.1).qualified (BitVec.ofNat 2 (sylIq p.1.2)) && s.sylStalls p.2.1 p.2.2

/-- R260: whether the read ports left in this cycle suffice for a group of a forked tile. -/
def Tile.portsOk (x : Tile) (is : List (Nat × Instr)) : Bool :=
  x.lockstep || (x.ports ++ readRegs (is.map Prod.snd)).eraseDups.length ≤ 16

/-- The write that a syllable of slot L makes in memory, if it makes one now, and whether it is a release. -/
def State.writeOf (s : State) (i : Instr) : Option (Bool × MemOp) :=
  match i with
  | .stc q xs a sz rl spc => if s.qualified q then some (rl, .stc (s.aspVA spc (s.readX a)) sz (s.readX xs)) else none
  | .stcLong q xs a sz rl spc imm =>
    if s.qualified q then some (rl, .stc (s.aspVA spc (s.readX a + immOf imm)) sz (s.readX xs)) else none
  | .amo q xdp a op sz aq rl spc =>
    let va := s.aspVA spc (s.readX a)
    let n := if sz then 64 else 32
    if s.qualified q && s.here.mayWrite s.cur.group (.x (BitVec.ofNat 7 (2 * xdp.toNat))) && va.off.toNat % (n / 8) == 0 then
      some (rl, .amo 0 va op.toNat n 0 0 aq)
    else none
  | _ => none

/-- R56: what a syllable's write, if it does not wait, joins. -/
def State.sylCollapse (s : State) (i : Instr) : Option State :=
  (s.writeOf i).bind fun p => if s.defers p.1 then none else s.joinsCollapse p.2

/-- What the next bundle of a group of a tile comes to in this cycle. -/
inductive Turn where
  | stall
  | ports
  | joins
  | bad (c : Cause)
  | brk
  | empty
  | run (is : List (Nat × Instr))
  deriving DecidableEq, Repr

/-- The step's place set to the bundle at a group's address. -/
def State.atBundle (s : State) (t : Nat) (q : Group) (b : Bundle) : State :=
  { s with
    cur :=
      { s.cur with
        tile := t, group := q.num, slot := q.slotList.headD 0, addr := ((s.tile t).groupSeq q).addr, len := b.h.len
        scope := b.h.scope, iqlev := b.h.iqlev, gap := b.h.gap } }

/-- The next bundle of a ready group: fetched, checked, and looked at for what holds it back. -/
def State.turnOf (s : State) (t : Nat) (q : Group) : State × Turn :=
  match s.fetchBundle t ((s.tile t).groupSeq q).addr with
  | (s, .fails c _ _) => (s.atBundle t q ⟨headerOf 0, []⟩, .bad c)
  | (s, .bundle b) =>
    let s := s.atBundle t q b
    match checkBundle (s.tile t) q b with
    | .error (c, k) => ({ s with cur := { s.cur with slot := k } }, .bad c)
    | .ok is =>
      if (s.breakAt t q).isSome then (s, .brk)
      else if is.isEmpty then (s, .empty)
      else if s.bundleStalls b is then (s, .stall)
      else if !(s.tile t).portsOk is then (s, .ports)
      else
        match is.findSome? fun p => s.sylCollapse p.2 with
        | some u => if u.collapses = s.collapses then (s, .stall) else (u, .joins)
        | none => (s, .run is)

/-- Whether a group does something in this cycle. -/
def Turn.acts (u : Turn) : Bool :=
  match u with
  | .stall | .ports => false
  | _ => true

/-- The groups of a tile in the order in which ports are granted (R260). -/
def Tile.portOrder (x : Tile) : List Group :=
  x.groups.filter (fun g => x.refused.contains g.num) ++ x.groups.filter fun g => !x.refused.contains g.num

/-- The first group of a list that is ready and does something. -/
def State.firstTurn (s : State) (t : Nat) : List Group → Option (State × Group × Turn)
  | [] => none
  | q :: r =>
    if (s.tile t).ready q then
      match s.turnOf t q with
      | (s', u) => if u.acts then some (s', q, u) else s.firstTurn t r
    else s.firstTurn t r

/-- The first tile of a list with a group that does something. -/
def State.firstIssue (s : State) : List Nat → Option (State × Group × Turn)
  | [] => none
  | t :: r =>
    match s.firstTurn t (s.tile t).portOrder with
    | some u => some u
    | none => s.firstIssue r

/-- What the tiles do next in this cycle. -/
def State.nextIssue (s : State) : Option (State × Group × Turn) :=
  if s.tripped then none else s.firstIssue (mkeys s.tiles)

/-! ## Issue -/

/-- The issue of the step's bundle (R256, R378, R382): where it lies, when the group's next bundle may issue. -/
def State.openBundle (s : State) : State :=
  (s.updGrp fun g =>
    { g with
      baddr := s.cur.addr, blen := s.cur.len, opened := true, goto := none, brkPass := false
      nextIssue := s.here.clk + 1 + s.cur.gap }).updHere Tile.wdTouch

/-- The read ports that a bundle takes (R260). -/
def State.takePorts (s : State) (is : List (Nat × Instr)) : State :=
  s.updHere fun x => if x.lockstep then x else { x with ports := (x.ports ++ readRegs (is.map Prod.snd)).eraseDups }

/-- Whether a sequencer-class syllable is a LOOP in a slot before L beside an access of slot L: its read of the shape record
comes before that access (R132, R133). -/
def loopFirst (is : List (Nat × Instr)) : Bool :=
  is.any (fun p => p.1 < 2 && (match p.2 with
    | .loop _ _ _ _ _ _ => true
    | _ => false)) && is.any fun p => slotMask p.2 == 0x04

/-- The syllables of a bundle in the order in which their effects are made: ascending slots, but a sequencer-class one
comes last (R283, R285, R287), or, where it is a LOOP that reads before slot L, before slot L. -/
def issueOrder (is : List (Nat × Instr)) : List (Nat × Instr) :=
  let js := is.filter fun p => !seqClass p.2
  let ks := is.filter fun p => seqClass p.2
  if loopFirst is then js.filter (fun p => p.1 < 2) ++ ks ++ js.filter fun p => 2 ≤ p.1 else js ++ ks

/-- HEADER_ONLY_BUNDLE (R255): a bundle without syllables occupies 1 + GAP cycles of its group. -/
def execHeaderOnlyBundle (gap : BitVec 4) (s : State) : Out :=
  .next (({ s with cur := { s.cur with gap := gap.toNat } } : State).openBundle.finish s.cur.tile)

/-- NOT_AN_INSTRUCTION (R277): the bundle has no effect, and its cause is raised; a failing fetch names its line (R54). -/
def execNotAnInstruction (c : Cause) (s : State) : Out :=
  match (s.fetchBundle s.cur.tile s.cur.addr).2 with
  | .fails _ va why =>
    let s := if c = .poison then s.hubConsumed s.here.ctx (s.codeVA s.cur.tile s.cur.addr) 68 else s
    .next (s.raiseWhy c va 0 none why)
  | .bundle _ => .next (s.raise c)

end Sys2Proof.Machine
end

