-- ==== Sys2Proof/Machine/Dispatch.lean ====
section
/-! DEFINITION. One arm per step of the opcode table. -/
namespace Sys2Proof.Machine

/-- The meaning of a step of the table. -/
def exec (i : Instr) (s : State) : Host.Outcome State Fault Refusal :=
  match i with
  | .nop q => Sys2Proof.Machine.execNop q s
  | .br q off => Sys2Proof.Machine.execBr q off s
  | .brc q c neg off => Sys2Proof.Machine.execBrc q c neg off s
  | .brx q a => Sys2Proof.Machine.execBrx q a s
  | .ret q => Sys2Proof.Machine.execRet q s
  | .call q off => Sys2Proof.Machine.execCall q off s
  | .loop q lev a min endOff short => Sys2Proof.Machine.execLoop q lev a min endOff short s
  | .brkl q lev cond c neg => Sys2Proof.Machine.execBrkl q lev cond c neg s
  | .fork q off => Sys2Proof.Machine.execFork q off s
  | .join q mask id => Sys2Proof.Machine.execJoin q mask id s
  | .halt q => Sys2Proof.Machine.execHalt q s
  | .exit q => Sys2Proof.Machine.execExit q s
  | .trap q code => Sys2Proof.Machine.execTrap q code s
  | .eret q => Sys2Proof.Machine.execEret q s
  | .setc q c => Sys2Proof.Machine.execSetc q c s
  | .clrc q c => Sys2Proof.Machine.execClrc q c s
  | .waitc q c neg => Sys2Proof.Machine.execWaitc q c neg s
  | .preemptpt q => Sys2Proof.Machine.execPreemptpt q s
  | .csrr q x csr => Sys2Proof.Machine.execCsrr q x csr s
  | .csrw q x csr => Sys2Proof.Machine.execCsrw q x csr s
  | .srstateWrite tile => Sys2Proof.Machine.execSrstateWrite tile s
  | .spretWrite tile => Sys2Proof.Machine.execSpretWrite tile s
  | .getid q d sel => Sys2Proof.Machine.execGetid q d sel s
  | .rget q d a => Sys2Proof.Machine.execRget q d a s
  | .add q d a b => Sys2Proof.Machine.execAdd q d a b s
  | .addLong q d a imm => Sys2Proof.Machine.execAddLong q d a imm s
  | .sub q d a b => Sys2Proof.Machine.execSub q d a b s
  | .subLong q d a imm => Sys2Proof.Machine.execSubLong q d a imm s
  | .mul q d a b => Sys2Proof.Machine.execMul q d a b s
  | .mulLong q d a imm => Sys2Proof.Machine.execMulLong q d a imm s
  | .mulh q d a b uns => Sys2Proof.Machine.execMulh q d a b uns s
  | .madd q d a b => Sys2Proof.Machine.execMadd q d a b s
  | .and q d a b => Sys2Proof.Machine.execAnd q d a b s
  | .andLong q d a imm => Sys2Proof.Machine.execAndLong q d a imm s
  | .or q d a b => Sys2Proof.Machine.execOr q d a b s
  | .orLong q d a imm => Sys2Proof.Machine.execOrLong q d a imm s
  | .xor q d a b => Sys2Proof.Machine.execXor q d a b s
  | .xorLong q d a imm => Sys2Proof.Machine.execXorLong q d a imm s
  | .andn q d a b => Sys2Proof.Machine.execAndn q d a b s
  | .andnLong q d a imm => Sys2Proof.Machine.execAndnLong q d a imm s
  | .shl q d a b => Sys2Proof.Machine.execShl q d a b s
  | .shlLong q d a imm => Sys2Proof.Machine.execShlLong q d a imm s
  | .shr q d a b => Sys2Proof.Machine.execShr q d a b s
  | .shrLong q d a imm => Sys2Proof.Machine.execShrLong q d a imm s
  | .sra q d a b => Sys2Proof.Machine.execSra q d a b s
  | .sraLong q d a imm => Sys2Proof.Machine.execSraLong q d a imm s
  | .rotr q d a b => Sys2Proof.Machine.execRotr q d a b s
  | .rotrLong q d a imm => Sys2Proof.Machine.execRotrLong q d a imm s
  | .min q d a b => Sys2Proof.Machine.execMin q d a b s
  | .minLong q d a imm => Sys2Proof.Machine.execMinLong q d a imm s
  | .max q d a b => Sys2Proof.Machine.execMax q d a b s
  | .maxLong q d a imm => Sys2Proof.Machine.execMaxLong q d a imm s
  | .minu q d a b => Sys2Proof.Machine.execMinu q d a b s
  | .minuLong q d a imm => Sys2Proof.Machine.execMinuLong q d a imm s
  | .maxu q d a b => Sys2Proof.Machine.execMaxu q d a b s
  | .maxuLong q d a imm => Sys2Proof.Machine.execMaxuLong q d a imm s
  | .cmp q c a b p => Sys2Proof.Machine.execCmp q c a b p s
  | .cmpLong q c a p imm => Sys2Proof.Machine.execCmpLong q c a p imm s
  | .sel q d a c neg => Sys2Proof.Machine.execSel q d a c neg s
  | .li q d imm => Sys2Proof.Machine.execLi q d imm s
  | .liLong q d imm => Sys2Proof.Machine.execLiLong q d imm s
  | .liHi q d imm => Sys2Proof.Machine.execLiHi q d imm s
  | .addi q d a imm => Sys2Proof.Machine.execAddi q d a imm s
  | .addiLong q d a imm => Sys2Proof.Machine.execAddiLong q d a imm s
  | .ext q d a b => Sys2Proof.Machine.execExt q d a b s
  | .ins q d a b => Sys2Proof.Machine.execIns q d a b s
  | .popc q d a => Sys2Proof.Machine.execPopc q d a s
  | .clz q d a => Sys2Proof.Machine.execClz q d a s
  | .hashb q d a b => Sys2Proof.Machine.execHashb q d a b s
  | .stg q e n a => Sys2Proof.Machine.execStg q e n a s
  | .stgi q e n imm => Sys2Proof.Machine.execStgi q e n imm s
  | .stgr q e n d => Sys2Proof.Machine.execStgr q e n d s
  | .stgl q e n imm => Sys2Proof.Machine.execStgl q e n imm s
  | .fadd q d a b p => Sys2Proof.Machine.execFadd q d a b p s
  | .fsub q d a b p => Sys2Proof.Machine.execFsub q d a b p s
  | .fmul q d a b p => Sys2Proof.Machine.execFmul q d a b p s
  | .fma q d a b p => Sys2Proof.Machine.execFma q d a b p s
  | .fmin q d a b p => Sys2Proof.Machine.execFmin q d a b p s
  | .fmax q d a b p => Sys2Proof.Machine.execFmax q d a b p s
  | .fcmp q c a b r p => Sys2Proof.Machine.execFcmp q c a b r p s
  | .fcvt q d a conv rm p => Sys2Proof.Machine.execFcvt q d a conv rm p s
  | .fabs q d a p => Sys2Proof.Machine.execFabs q d a p s
  | .fneg q d a p => Sys2Proof.Machine.execFneg q d a p s
  | .frcp q d a p => Sys2Proof.Machine.execFrcp q d a p s
  | .frsq q d a p => Sys2Proof.Machine.execFrsq q d a p s
  | .fexp2 q d a p => Sys2Proof.Machine.execFexp2 q d a p s
  | .flog2 q d a p => Sys2Proof.Machine.execFlog2 q d a p s
  | .fdiv q d a b p => Sys2Proof.Machine.execFdiv q d a b p s
  | .fsqrt q d a rm p => Sys2Proof.Machine.execFsqrt q d a rm p s
  | .fclass q d a p => Sys2Proof.Machine.execFclass q d a p s
  | .ldB q d a sx aq off => Sys2Proof.Machine.execLdB q d a sx aq off s
  | .ldBLong q d a sx aq imm => Sys2Proof.Machine.execLdBLong q d a sx aq imm s
  | .ldH q d a sx aq off => Sys2Proof.Machine.execLdH q d a sx aq off s
  | .ldHLong q d a sx aq imm => Sys2Proof.Machine.execLdHLong q d a sx aq imm s
  | .ldW q d a sx aq off => Sys2Proof.Machine.execLdW q d a sx aq off s
  | .ldWLong q d a sx aq imm => Sys2Proof.Machine.execLdWLong q d a sx aq imm s
  | .ldD q d a aq off => Sys2Proof.Machine.execLdD q d a aq off s
  | .ldDLong q d a aq imm => Sys2Proof.Machine.execLdDLong q d a aq imm s
  | .stB q xs a rl off => Sys2Proof.Machine.execStB q xs a rl off s
  | .stBLong q xs a rl imm => Sys2Proof.Machine.execStBLong q xs a rl imm s
  | .stH q xs a rl off => Sys2Proof.Machine.execStH q xs a rl off s
  | .stHLong q xs a rl imm => Sys2Proof.Machine.execStHLong q xs a rl imm s
  | .stW q xs a rl off => Sys2Proof.Machine.execStW q xs a rl off s
  | .stWLong q xs a rl imm => Sys2Proof.Machine.execStWLong q xs a rl imm s
  | .stD q xs a rl off => Sys2Proof.Machine.execStD q xs a rl off s
  | .stDLong q xs a rl imm => Sys2Proof.Machine.execStDLong q xs a rl imm s
  | .ldc q d a sz sx aq spc => Sys2Proof.Machine.execLdc q d a sz sx aq spc s
  | .ldcLong q d a sz sx aq spc imm => Sys2Proof.Machine.execLdcLong q d a sz sx aq spc imm s
  | .stc q xs a sz rl spc => Sys2Proof.Machine.execStc q xs a sz rl spc s
  | .stcLong q xs a sz rl spc imm => Sys2Proof.Machine.execStcLong q xs a sz rl spc imm s
  | .amo q xdp a op sz aq rl spc => Sys2Proof.Machine.execAmo q xdp a op sz aq rl spc s
  | .flagset q a b => Sys2Proof.Machine.execFlagset q a b s
  | .waitf q d a => Sys2Proof.Machine.execWaitf q d a s
  | .flagtest q d a c aq => Sys2Proof.Machine.execFlagtest q d a c aq s
  | .probe q a b wr spc => Sys2Proof.Machine.execProbe q a b wr spc s
  | .pref q a b l1 spc => Sys2Proof.Machine.execPref q a b l1 spc s
  | .fence q kind => Sys2Proof.Machine.execFence q kind s
  | .cpyin q acq rel tagv tag lin spc => Sys2Proof.Machine.execCpyin q acq rel tagv tag lin spc s
  | .cpyout q acq rel tagv tag lin spc => Sys2Proof.Machine.execCpyout q acq rel tagv tag lin spc s
  | .cpyss q acq rel tagv tag => Sys2Proof.Machine.execCpyss q acq rel tagv tag s
  | .cpyr q acq tagv tag => Sys2Proof.Machine.execCpyr q acq tagv tag s
  | .mcast q acq rel tagv tag lin spc tmask => Sys2Proof.Machine.execMcast q acq rel tagv tag lin spc tmask s
  | .bind q acq rel n => Sys2Proof.Machine.execBind q acq rel n s
  | .unbind q acq rel n => Sys2Proof.Machine.execUnbind q acq rel n s
  | .sadv q acq rel n k => Sys2Proof.Machine.execSadv q acq rel n k s
  | .idxld q acq rel tagv tag spc => Sys2Proof.Machine.execIdxld q acq rel tagv tag spc s
  | .waitta q a => Sys2Proof.Machine.execWaitta q a s
  | .waittl q a => Sys2Proof.Machine.execWaittl q a s
  | .ffrt q d a clr => Sys2Proof.Machine.execFfrt q d a clr s
  | .tagclr q a => Sys2Proof.Machine.execTagclr q a s
  | .qpush q acq xq xs => Sys2Proof.Machine.execQpush q acq xq xs s
  | .qpop q xq xs => Sys2Proof.Machine.execQpop q xq xs s
  | .dsig q d => Sys2Proof.Machine.execDsig q d s
  | .dwaitDist q e k => Sys2Proof.Machine.execDwaitDist q e k s
  | .dwaitReg q e x => Sys2Proof.Machine.execDwaitReg q e x s
  | .send q acq tagv tag => Sys2Proof.Machine.execSend q acq tagv tag s
  | .recv q => Sys2Proof.Machine.execRecv q s
  | .chain q acq rel qo qa qb p sr => Sys2Proof.Machine.execChain q acq rel qo qa qb p sr s
  | .vred q acq rel qo qa p f => Sys2Proof.Machine.execVred q acq rel qo qa p f s
  | .vgath q acq rel qo qb p => Sys2Proof.Machine.execVgath q acq rel qo qb p s
  | .vscat q acq rel qa qb p f => Sys2Proof.Machine.execVscat q acq rel qa qb p f s
  | .vcvt q acq rel qo qa p sr => Sys2Proof.Machine.execVcvt q acq rel qo qa p sr s
  | .vqnt q acq rel qo qa sr => Sys2Proof.Machine.execVqnt q acq rel qo qa sr s
  | .vfill q acq rel qo p f => Sys2Proof.Machine.execVfill q acq rel qo p f s
  | .vtrn q acq rel qo qa p => Sys2Proof.Machine.execVtrn q acq rel qo qa p s
  | .lease q => Sys2Proof.Machine.execLease q s
  | .rels q => Sys2Proof.Machine.execRels q s
  | .mma q acq rel qa qb bank => Sys2Proof.Machine.execMma q acq rel qa qb bank s
  | .mmab q acq rel qa qb bank loadb => Sys2Proof.Machine.execMmab q acq rel qa qb bank loadb s
  | .mz q acq rel bank => Sys2Proof.Machine.execMz q acq rel bank s
  | .dotk q acq rel qq qk qo => Sys2Proof.Machine.execDotk q acq rel qq qk qo s
  | .dotv q acq rel qq qk qo => Sys2Proof.Machine.execDotv q acq rel qq qk qo s
  | .dots q acq rel qq qk qo => Sys2Proof.Machine.execDots q acq rel qq qk qo s
  | .dotx q acq rel qq qk qo => Sys2Proof.Machine.execDotx q acq rel qq qk qo s
  | .azero q acq rel bank xp => Sys2Proof.Machine.execAzero q acq rel bank xp s
  | .ard q acq rel bank qn xp sr => Sys2Proof.Machine.execArd q acq rel bank qn xp sr s
  | .awr q acq rel bank qn xp => Sys2Proof.Machine.execAwr q acq rel bank qn xp s
  | .aadd q acq rel bank qn xp => Sys2Proof.Machine.execAadd q acq rel bank qn xp s
  | .amaxr q acq rel bank qn xp => Sys2Proof.Machine.execAmaxr q acq rel bank qn xp s
  | .ascl q acq rel bank qn xp => Sys2Proof.Machine.execAscl q acq rel bank qn xp s
  | .headerOnlyBundle gap => Sys2Proof.Machine.execHeaderOnlyBundle gap s
  | .resultLand tile => Sys2Proof.Machine.execResultLand tile s
  | .interlockedResultLand tile => Sys2Proof.Machine.execInterlockedResultLand tile s
  | .waitingComplete tile g => Sys2Proof.Machine.execWaitingComplete tile g s
  | .flagWake tile off => Sys2Proof.Machine.execFlagWake tile off s
  | .joinComplete tile g => Sys2Proof.Machine.execJoinComplete tile g s
  | .leasePeriodEnd cl => Sys2Proof.Machine.execLeasePeriodEnd cl s
  | .engineStart tile e => Sys2Proof.Machine.execEngineStart tile e s
  | .engineComplete tile e => Sys2Proof.Machine.execEngineComplete tile e s
  | .dwaitSatisfied tile e => Sys2Proof.Machine.execDwaitSatisfied tile e s
  | .copyStart tile => Sys2Proof.Machine.execCopyStart tile s
  | .copyComplete tile k => Sys2Proof.Machine.execCopyComplete tile k s
  | .streamFill tile n => Sys2Proof.Machine.execStreamFill tile n s
  | .streamDrain tile n => Sys2Proof.Machine.execStreamDrain tile n s
  | .opsWriteLand tile => Sys2Proof.Machine.execOpsWriteLand tile s
  | .tileStart tile => Sys2Proof.Machine.execTileStart tile s
  | .tileEnd tile => Sys2Proof.Machine.execTileEnd tile s
  | .breakHit tile g => Sys2Proof.Machine.execBreakHit tile g s
  | .handlerEntry tile => Sys2Proof.Machine.execHandlerEntry tile s
  | .latchDelivery tile => Sys2Proof.Machine.execLatchDelivery tile s
  | .firmwareTrap tile => Sys2Proof.Machine.execFirmwareTrap tile s
  | .kernelFatal tile => Sys2Proof.Machine.execKernelFatal tile s
  | .watchdog tile => Sys2Proof.Machine.execWatchdog tile s
  | .preemptSignal tile => Sys2Proof.Machine.execPreemptSignal tile s
  | .prebndExpiry tile => Sys2Proof.Machine.execPrebndExpiry tile s
  | .gustWrite slot word => Sys2Proof.Machine.execGustWrite slot word s
  | .l1LineExpiry tile => Sys2Proof.Machine.execL1LineExpiry tile s
  | .retentionEntryComplete tile bank => Sys2Proof.Machine.execRetentionEntryComplete tile bank s
  | .retentionExitComplete tile bank => Sys2Proof.Machine.execRetentionExitComplete tile bank s
  | .patrolScrub granule err => Sys2Proof.Machine.execPatrolScrub granule err s
  | .tnop ph t => Sys2Proof.Machine.execTnop ph t s
  | .thalt ph t => Sys2Proof.Machine.execThalt ph t s
  | .ttrap ph t => Sys2Proof.Machine.execTtrap ph t s
  | .tbr ph t => Sys2Proof.Machine.execTbr ph t s
  | .tbrc ph t => Sys2Proof.Machine.execTbrc ph t s
  | .tcall ph t => Sys2Proof.Machine.execTcall ph t s
  | .tret ph t => Sys2Proof.Machine.execTret ph t s
  | .tsety ph t => Sys2Proof.Machine.execTsety ph t s
  | .taddy ph t => Sys2Proof.Machine.execTaddy ph t s
  | .tsuby ph t => Sys2Proof.Machine.execTsuby ph t s
  | .tcmpy ph t => Sys2Proof.Machine.execTcmpy ph t s
  | .tldy ph t => Sys2Proof.Machine.execTldy ph t s
  | .tsty ph t => Sys2Proof.Machine.execTsty ph t s
  | .talloc ph t => Sys2Proof.Machine.execTalloc ph t s
  | .tfree ph t => Sys2Proof.Machine.execTfree ph t s
  | .tlaunch ph t => Sys2Proof.Machine.execTlaunch ph t s
  | .tcopy ph t => Sys2Proof.Machine.execTcopy ph t s
  | .tfill ph t => Sys2Proof.Machine.execTfill ph t s
  | .tfence ph t => Sys2Proof.Machine.execTfence ph t s
  | .tsync ph t => Sys2Proof.Machine.execTsync ph t s
  | .tprobe ph t => Sys2Proof.Machine.execTprobe ph t s
  | .tmigr ph t => Sys2Proof.Machine.execTmigr ph t s
  | .tacqr ph t => Sys2Proof.Machine.execTacqr ph t s
  | .trelr ph t => Sys2Proof.Machine.execTrelr ph t s
  | .twaitq ph t => Sys2Proof.Machine.execTwaitq ph t s
  | .tsigq ph t => Sys2Proof.Machine.execTsigq ph t s
  | .trnginit ph t => Sys2Proof.Machine.execTrnginit ph t s
  | .tpark ph t => Sys2Proof.Machine.execTpark ph t s
  | .tseqnext ph t => Sys2Proof.Machine.execTseqnext ph t s
  | .tseqdone ph t => Sys2Proof.Machine.execTseqdone ph t s
  | .tkvappend ph t => Sys2Proof.Machine.execTkvappend ph t s
  | .tkvpin ph t => Sys2Proof.Machine.execTkvpin ph t s
  | .tkvunpin ph t => Sys2Proof.Machine.execTkvunpin ph t s
  | .tpfxlook ph t => Sys2Proof.Machine.execTpfxlook ph t s
  | .tpfxins ph t => Sys2Proof.Machine.execTpfxins ph t s
  | .registerWrite mb off val => Sys2Proof.Machine.execRegisterWrite mb off val s
  | .notify qid val => Sys2Proof.Machine.execNotify qid val s
  | .gustSlotWrite slot word => Sys2Proof.Machine.execGustSlotWrite slot word s
  | .hostCxlMem ha wr => Sys2Proof.Machine.execHostCxlMem ha wr s
  | .queueUnmap qid => Sys2Proof.Machine.execQueueUnmap qid s
  | .streamBytesArrive port strm bytes => Sys2Proof.Machine.execStreamBytesArrive port strm bytes s
  | .sendComplete tile k => Sys2Proof.Machine.execSendComplete tile k s
  | .gustMessage port slot rlen off bytes last => Sys2Proof.Machine.execGustMessage port slot rlen off bytes last s
  | .linkFailure port => Sys2Proof.Machine.execLinkFailure port s
  | .debugUnlock token => Sys2Proof.Machine.execDebugUnlock token s
  | .jtagOps oa wr => Sys2Proof.Machine.execJtagOps oa wr s
  | .functionLevelReset port => Sys2Proof.Machine.execFunctionLevelReset port s
  | .peerLinkOpen port chip pctx => Sys2Proof.Machine.execPeerLinkOpen port chip pctx s
  | .receiveQueueCredit port strm n => Sys2Proof.Machine.execReceiveQueueCredit port strm n s
  | .notAnInstruction c => Sys2Proof.Machine.execNotAnInstruction c s
  | .outSwap => Sys2Proof.Machine.execOutSwap s
  | .shadowDrain => Sys2Proof.Machine.execShadowDrain s
  | .partitionResume => Sys2Proof.Machine.execPartitionResume s
  | .clusterReclaim => Sys2Proof.Machine.execClusterReclaim s
  | .tlbWalk => Sys2Proof.Machine.execTlbWalk s
  | .invalidation => Sys2Proof.Machine.execInvalidation s
  | .collapse => Sys2Proof.Machine.execCollapse s
  | .collapseAck => Sys2Proof.Machine.execCollapseAck s
  | .epochExpiry => Sys2Proof.Machine.execEpochExpiry s
  | .swapRequest => Sys2Proof.Machine.execSwapRequest s
  | .swap => Sys2Proof.Machine.execSwap s
  | .swapComplete => Sys2Proof.Machine.execSwapComplete s
  | .fullerCopyStart => Sys2Proof.Machine.execFullerCopyStart s
  | .demotion => Sys2Proof.Machine.execDemotion s
  | .demotionComplete => Sys2Proof.Machine.execDemotionComplete s
  | .demotionCancel => Sys2Proof.Machine.execDemotionCancel s
  | .demoting2Complete => Sys2Proof.Machine.execDemoting2Complete s
  | .farWriteError => Sys2Proof.Machine.execFarWriteError s
  | .promotionComplete => Sys2Proof.Machine.execPromotionComplete s
  | .promotionFail => Sys2Proof.Machine.execPromotionFail s
  | .agingD1 => Sys2Proof.Machine.execAgingD1 s
  | .agingD2 => Sys2Proof.Machine.execAgingD2 s
  | .agingRecheck => Sys2Proof.Machine.execAgingRecheck s
  | .counterSnapshot => Sys2Proof.Machine.execCounterSnapshot s
  | .operandProbe => Sys2Proof.Machine.execOperandProbe s
  | .launchRecordRead => Sys2Proof.Machine.execLaunchRecordRead s
  | .gangPlacement => Sys2Proof.Machine.execGangPlacement s
  | .placeWaitExpiry => Sys2Proof.Machine.execPlaceWaitExpiry s
  | .taskIssue => Sys2Proof.Machine.execTaskIssue s
  | .taskDone => Sys2Proof.Machine.execTaskDone s
  | .taskRetire => Sys2Proof.Machine.execTaskRetire s
  | .takeFault => Sys2Proof.Machine.execTakeFault s
  | .fatalContextError => Sys2Proof.Machine.execFatalContextError s
  | .arbitrationRound => Sys2Proof.Machine.execArbitrationRound s
  | .contextLoad => Sys2Proof.Machine.execContextLoad s
  | .ctxCreate => Sys2Proof.Machine.execCtxCreate s
  | .ctxDestroy => Sys2Proof.Machine.execCtxDestroy s
  | .ctxStart => Sys2Proof.Machine.execCtxStart s
  | .ctxSuspend => Sys2Proof.Machine.execCtxSuspend s
  | .ctxResume => Sys2Proof.Machine.execCtxResume s
  | .ctxPreempt => Sys2Proof.Machine.execCtxPreempt s
  | .ctxQuery => Sys2Proof.Machine.execCtxQuery s
  | .mcRead => Sys2Proof.Machine.execMcRead s
  | .mapPages => Sys2Proof.Machine.execMapPages s
  | .unmapPages => Sys2Proof.Machine.execUnmapPages s
  | .replicate => Sys2Proof.Machine.execReplicate s
  | .shrRegister => Sys2Proof.Machine.execShrRegister s
  | .shrUnregister => Sys2Proof.Machine.execShrUnregister s
  | .shrAcquire => Sys2Proof.Machine.execShrAcquire s
  | .shrRelease => Sys2Proof.Machine.execShrRelease s
  | .srvConfig => Sys2Proof.Machine.execSrvConfig s
  | .seqConfig => Sys2Proof.Machine.execSeqConfig s
  | .mbxRegister => Sys2Proof.Machine.execMbxRegister s
  | .gust => Sys2Proof.Machine.execGust s
  | .wakeRetry => Sys2Proof.Machine.execWakeRetry s
  | .pfxPin => Sys2Proof.Machine.execPfxPin s
  | .queueReg => Sys2Proof.Machine.execQueueReg s
  | .queueUnreg => Sys2Proof.Machine.execQueueUnreg s
  | .cntMap => Sys2Proof.Machine.execCntMap s
  | .cntAttrib => Sys2Proof.Machine.execCntAttrib s
  | .cxmConfig => Sys2Proof.Machine.execCxmConfig s
  | .linkOpen => Sys2Proof.Machine.execLinkOpen s
  | .linkClose => Sys2Proof.Machine.execLinkClose s
  | .dbgBreak => Sys2Proof.Machine.execDbgBreak s
  | .dbgCont => Sys2Proof.Machine.execDbgCont s
  | .dbgKill => Sys2Proof.Machine.execDbgKill s
  | .imgLoad => Sys2Proof.Machine.execImgLoad s
  | .attest => Sys2Proof.Machine.execAttest s
  | .fwUpdate => Sys2Proof.Machine.execFwUpdate s
  | .query => Sys2Proof.Machine.execQuery s
  | .badcmd => Sys2Proof.Machine.execBadcmd s
  | .commandCompletion => Sys2Proof.Machine.execCommandCompletion s
  | .clockStepDown => Sys2Proof.Machine.execClockStepDown s
  | .clockStepUp => Sys2Proof.Machine.execClockStepUp s
  | .thermalTrip => Sys2Proof.Machine.execThermalTrip s
  | .coldReset => Sys2Proof.Machine.execColdReset s
  | .unassignedTli => Sys2Proof.Machine.execUnassignedTli s

end Sys2Proof.Machine
end

