-- ==== Sys2Proof/Machine/Schedule.lean ====
section
/-! DEFINITION. Time and the default order of steps (notes/assumptions/3.md): a tick advances the clocks (R420) and lists
what may happen in its cycle; a step that is listed and cannot happen leaves the state as it is. -/
namespace Sys2Proof.Machine

/-! ## What a tile may do in a cycle -/

/-- A list or nothing. -/
def when {α : Type} (c : Bool) (l : List α) : List α := if c then l else []

/-- The engines in R369's order. -/
def engines : List Eng := [.D, .V, .M, .K, .A]

/-- The writes of SRSTATE that take effect in this cycle (R293). -/
def srEvents (t : Nat) (x : Tile) : List Instr :=
  (x.pend.filter fun p => p.dest == .csr 0x31 && p.due ≤ x.clk).map fun _ => .srstateWrite t

/-- The other results that land in this cycle (R262, R264, R293, R375). -/
def landEvents (t : Nat) (x : Tile) : List Instr :=
  (x.pend.filter fun p => p.dest == .csr 0x30 && p.due ≤ x.clk).map (fun _ => .spretWrite t) ++
    (x.pend.filter fun p => p.timed && p.due ≤ x.clk).flatMap (fun _ => [.resultLand t, .latchDelivery t]) ++
    (x.pend.filter fun p => p.ilk && !p.latch).map fun _ => .interlockedResultLand t

/-- The waiting instructions of a group (R265). -/
def waitEvents (t : Nat) (g : Group) : List Instr :=
  g.waits.map fun w => match w.w with
    | .waitf _ off _ (some _) => .flagWake t off
    | .join _ _ => .joinComplete t g.num
    | _ => .waitingComplete t g.num

/-- The engines' next steps (R176, R332, R333). -/
def engineEvents (t : Nat) (x : Tile) : List Instr :=
  engines.flatMap fun e => match x.engHead e with
    | none => []
    | some c =>
      if (dwaitTarget c).isSome then [.dwaitSatisfied t e]
      else if (x.queue e).run then [.engineComplete t e]
      else [.engineStart t e]

/-- The copies' next steps (R120, R329). -/
def copyEvents (t : Nat) (x : Tile) : List Instr :=
  when (x.copyQ.any fun c => c.phase == 0) [.copyStart t] ++
    x.running.zipIdx.map (fun p => match p.1.cmd.i with
      | .send _ _ _ _ => .sendComplete t p.2
      | _ => .copyComplete t p.2)

/-- The streams' next steps (R68). -/
def streamEvents (t : Nat) (x : Tile) : List Instr :=
  x.qs.flatMap fun p =>
    when p.2.canFill [.streamFill t (BitVec.ofNat 5 p.1)] ++ when p.2.canDrain [.streamDrain t (BitVec.ofNat 5 p.1)]

/-- Retention and the L1 (R111, R112, R136). -/
def bankEvents (t : Nat) (x : Tile) : List Instr :=
  x.ret.flatMap (fun p => match p.2 with
    | .entering till => when (till ≤ x.clk) [.retentionEntryComplete t p.1]
    | .leaving till => when (till ≤ x.clk) [.retentionExitComplete t p.1]
    | _ => []) ++
    when (x.l1.any fun l => l.fill + 4096 ≤ x.clk) [.l1LineExpiry t]

/-- Causes, pre-emption and the end of an instance (R129, R373 to R384). -/
def State.causeEvents (s : State) (t : Nat) (x : Tile) : List Instr :=
  when (x.stat == .starting) [.tileStart t] ++ when (x.stat == .frozen) [.kernelFatal t, .firmwareTrap t, .handlerEntry t] ++
    when (s.wdCounts t && s.wdLimit t ≤ x.wd) [.watchdog t] ++
    when ((s.ctx x.ctx).preempting && x.preSig.isNone && x.stat == .running) [.preemptSignal t] ++
    when x.boundMet [.prebndExpiry t] ++ when (x.stat == .ending) [.tileEnd t]

/-- What a tile may do in a cycle of its own. The streams' and the copies' steps stand for the cycle that ends, after its
slot-L stores; results then land, OPS writes after them (R27), then waiting instructions test what these have left (R125), and
the engines' steps follow, V before A: a command that completes has made its draws in the cycle that ends (R211), so a write
of SRSTATE that takes effect now comes after them (R293). -/
def State.tileEvents (s : State) (t : Nat) : List Instr :=
  let x := s.tile t
  streamEvents t x ++ copyEvents t x ++ landEvents t x ++ x.opsIn.map (fun _ => .opsWriteLand t) ++
    when (!x.mems.isEmpty) (x.groups.map fun g => .waitingComplete t g.num) ++ x.groups.flatMap (waitEvents t) ++
    engineEvents t x ++ srEvents t x ++ bankEvents t x ++ s.causeEvents t x

/-! ## What the hub may do in a cycle -/

/-- The step of a command (R392). -/
def commandStep (opc : Nat) : Instr :=
  match opc with
  | 0x01 => .ctxCreate
  | 0x02 => .ctxDestroy
  | 0x03 => .ctxStart
  | 0x04 => .ctxSuspend
  | 0x05 => .ctxResume
  | 0x06 => .ctxPreempt
  | 0x07 => .ctxQuery
  | 0x08 => .mcRead
  | 0x10 => .mapPages
  | 0x11 => .unmapPages
  | 0x12 => .replicate
  | 0x18 => .shrRegister
  | 0x19 => .shrUnregister
  | 0x1A => .shrAcquire
  | 0x1B => .shrRelease
  | 0x20 => .srvConfig
  | 0x21 => .seqConfig
  | 0x22 => .mbxRegister
  | 0x23 => .gust
  | 0x24 => .wakeRetry
  | 0x25 => .pfxPin
  | 0x28 => .queueReg
  | 0x29 => .queueUnreg
  | 0x30 => .cntMap
  | 0x31 => .cntAttrib
  | 0x32 => .cxmConfig
  | 0x38 => .linkOpen
  | 0x39 => .linkClose
  | 0x40 => .dbgBreak
  | 0x41 => .dbgCont
  | 0x42 => .dbgKill
  | 0x48 => .imgLoad
  | 0x50 => .attest
  | 0x51 => .fwUpdate
  | 0x52 => .query
  | _ => .badcmd

/-- A mailbox number that no port has. -/
def noMailbox : Nat := 32

/-- Commands and their completions (R391, R427). -/
def State.commandEvents (s : State) : List (Subject × Instr) :=
  s.servable.map (fun mb => ({ Subject.none with mb := mb }, commandStep (s.mbx mb).opc.toNat)) ++
    (s.mbxs.filter fun p => p.2.run && p.2.waiting).map (fun p => ({ Subject.none with mb := p.1 }, .commandCompletion)) ++
    (s.ctxs.filter fun p => s.destroyDone p.1 && !s.destroyWaits p.1).map fun p =>
      ({ Subject.none with ctx := p.1, mb := noMailbox }, .commandCompletion)

/-- The decode of the context whose turn it is (R182, R198). -/
def State.decodeEvent (s : State) : List (Subject × Instr) :=
  match s.turnDec with
  | [] => []
  | c :: _ =>
    let u := { Subject.none with ctx := c }
    if !s.hasTurn true c then []
    else
      match s.fetchTli c with
      | .words ws => (match decodeTli ws with
        | .instr i => [(u, i)]
        | _ => [(u, .unassignedTli)])
      | _ => [(u, .unassignedTli)]

/-- The issue of the context whose turn it is (R190, R198). -/
def State.issueEvent (s : State) : List (Subject × Instr) :=
  match s.turnIss with
  | [] => []
  | c :: _ => when (s.hasTurn false c) [({ Subject.none with ctx := c }, .taskIssue)]

/-- What the next slot of a kind comes to: an arbitration where the present turn is over and another context is eligible,
else the decode or the issue of the context whose turn it is (R198). -/
def State.slotEvent (s : State) (dec : Bool) : List (Subject × Instr) :=
  if (if dec then s.turnDec else s.turnIss).head?.any (s.hasTurn dec) then (if dec then s.decodeEvent else s.issueEvent)
  else when (s.residents.any (if dec then s.canDecode else s.canIssue) && !(s.nextTurn dec).2.isEmpty) [(Subject.none, .arbitrationRound)]

/-- A slot is used up by the decode or the issue it is given to, not by the arbitration before it. -/
def usesSlot : List (Subject × Instr) → Nat
  | (_, .arbitrationRound) :: _ => 0
  | _ => 1

/-- A decode slot used up, or not. -/
def State.useDecSlot (s : State) (n : Nat) : State := { s with slotsDec := s.slotsDec - n }

/-- The next of this hub cycle's two slots of each kind, decode slots first (R182, R198). Slots that no context can use
lapse. -/
def State.nextSlot (s : State) : State × List (Subject × Instr) :=
  let l := if s.slotsDec = 0 then [] else s.slotEvent true
  if l.isEmpty then
    let m := if s.slotsIss = 0 then [] else s.slotEvent false
    if m.isEmpty then ({ s with slotsDec := 0, slotsIss := 0 }, [])
    else ({ s with slotsDec := 0, slotsIss := s.slotsIss - usesSlot m }, m)
  else ((if usesSlot l = 1 then s.tliRead (s.turnDec.headD 0) else s).useDecSlot (usesSlot l), l)

/-- The tasks of a context at work, and its window (R159 to R163, R190 to R194). -/
def State.windowEvents (s : State) (c : Nat) (x : Context) : List (Subject × Instr) :=
  let u := { Subject.none with ctx := c }
  when (x.fatal.isSome && (x.st != .dead || ((x.resident || s.ranges.any fun r => r.ctx == c && r.own == .device) && !s.inUse c))) [(u, .fatalContextError)] ++
    when ((x.entries.head?.bind (·.fault)).isSome) [(u, .takeFault)] ++
    (x.entries.filter (s.workDone c)).map (fun e => ({ u with n := e.sn }, .taskDone)) ++
    when (x.entries.any fun e => e.toProbe.isSome) [(u, .operandProbe)] ++
    when x.toRead.isSome [(u, .launchRecordRead)] ++
    when (x.entries.any fun e => e.st == .place && !e.placed && e.placeAt + 100 ≤ s.ticks && !e.blocks) [(u, .placeWaitExpiry)] ++
    when (x.entries.any fun e => e.st == .place && !e.placed) [(u, .gangPlacement)] ++
    (x.entries.filter fun e => e.st == .run && !e.started).filterMap fun e =>
      (mkTli (tliOpc e.tli) .run (tliOf e.tli)).map fun i => ({ u with n := e.sn }, i)

/-- The entries that retire in this hub cycle (R192): those DONE before it, at most 2 of a context and 16 in all. -/
def State.retireEvents (s : State) : List (Subject × Instr) :=
  ((s.ctxs.filter fun p => p.2.st == .run).flatMap fun p =>
    ((p.2.entries.takeWhile fun e => e.st == .done).take 2).map fun _ => ({ Subject.none with ctx := p.1 }, Instr.taskRetire)).take 16

/-- The states, partition and sequences of a context (R101, R163, R199, R383 to R387). -/
def State.contextEvents (s : State) (c : Nat) (x : Context) : List (Subject × Instr) :=
  let u := { Subject.none with ctx := c }
  when (s.loadSlot c).isSome [(u, .contextLoad)] ++ when (s.faultedIdle c).isSome [(u, .contextLoad)] ++
    when x.preempting ((List.range 4).map fun d => ({ u with die := d }, .outSwap)) ++
    when (x.resident && !x.preempting && (x.swapped || x.gangs.any (·.frozen))) [(u, .partitionResume)] ++
    when (s.waitsForPart c) [(u, .clusterReclaim)] ++
    x.mboxes.flatMap fun m =>
      let v := { u with n := m.sn }
      when (s.dueD1 c m) [(v, .agingD1)] ++ when (s.dueD2 c m) [(v, .agingD2)] ++ when (s.dueRecheck m) [(v, .agingRecheck)]

/-- The step that completes the oldest run in transit (R95, R96, R98). -/
def transitEvent (r : Transit) : Instr :=
  match r.st with
  | .demoting => .demotionComplete
  | .demoting2 => .demoting2Complete
  | .promoting => .promotionComplete

/-- The Fuller and the walkers (R43, R44, R56, R88, R89, R93). -/
def State.memoryEvents (s : State) : List (Subject × Instr) :=
  let u := Subject.none
  (s.transit.take 1).map (fun r => (u, transitEvent r)) ++
    (s.swaps.take 1).map (fun q => ({ u with n := q.group }, .swapComplete)) ++
    when (s.copies < 32 && !(s.swapQ.isEmpty && s.promoQ.isEmpty && s.stagedQ.isEmpty && s.demoQ.isEmpty)) [(u, .fullerCopyStart)] ++
    ((mkeys s.hot).filter s.isHot).map (fun n => ({ u with n := n }, .swapRequest)) ++
    when (!s.hot.isEmpty && s.epochAt + s.epoch ≤ s.ticks) [(u, .epochExpiry)] ++
    when (!s.invQ.isEmpty) [(u, .invalidation)] ++
    (List.range 5).flatMap (fun d => when (!(s.die d).missQ.isEmpty) [({ u with die := d }, .tlbWalk)]) ++
    (s.collapses.take 1).flatMap fun r =>
      if !r.begun then [({ u with ctx := r.ctx, n := r.va }, .collapse)]
      else (List.range 4).map fun d => ({ u with die := d }, .collapseAck)

/-- Sensors, clocks, leases and the shadow stores (R85, R175, R387, R421). -/
def State.platformEvents (s : State) : List (Subject × Instr) :=
  let u := Subject.none
  when s.snapDue [(u, .counterSnapshot)] ++ when s.tripDue [(u, .thermalTrip)] ++
    (List.range 4).flatMap (fun d =>
      when (s.stepsDown d) [({ u with die := d }, .clockStepDown)] ++ when (s.stepsUp d) [({ u with die := d }, .clockStepUp)] ++
        when (s.die d).shadow.isSome [({ u with die := d }, .shadowDrain)])

/-- The leases whose period is spent (R175). -/
def State.leaseEvents (s : State) : List (Subject × Instr) :=
  (s.clusters.filter fun p => p.2.held && (p.2.cmdLeft == 0 || p.2.cycLeft == 0)).map fun p =>
    (Subject.none, .leasePeriodEnd p.1)

/-- Whether a step is the work of a TPARK. -/
def parks (i : Instr) : Bool :=
  match i with
  | .tpark .run _ => true
  | _ => false

/-- What the hub may do in a cycle of its own. A TPARK comes last: gust writes of its hub cycle are handled before it (R100,
notes/assumptions/88.md). -/
def State.hubEvents (s : State) : List (Subject × Instr) :=
  let l := s.commandEvents ++ s.retireEvents ++ s.ctxs.flatMap (fun p => s.windowEvents p.1 p.2) ++
    s.ctxs.flatMap (fun p => s.contextEvents p.1 p.2) ++ s.memoryEvents ++ s.platformEvents
  l.filter (fun p => !parks p.2) ++ l.filter fun p => parks p.2

/-! ## Ticks -/

/-- The dies whose tiles have a cycle in the next tick, of 10 units. -/
def State.dieCycles (s : State) : List Nat :=
  if s.tripped then [] else (List.range s.form.dies).filter fun d => stepPeriod (s.die d).step ≤ (s.die d).acc + 10

/-- The groups of a forked tile that have no read ports in this cycle (R260). -/
def State.noPorts (s : State) (t : Nat) : List Nat :=
  let x := s.tile t
  if x.lockstep then []
  else (x.groups.filter fun q => x.ready q && (match (s.turnOf t q).2 with
    | .ports => true
    | _ => false)).map (·.num)

/-- Whether a tile's present cycle counts in CYCLE (R291): its instance has begun and is not frozen in it. -/
def Tile.ran (x : Tile) : Bool := x.goesAt ≤ x.clk && x.unfrozen && x.stat != .starting && x.stat != .loaded

/-- A cycle of a tile (R291, R382): CYCLE counts from the instance's first cycle while it is not frozen; the watchdog while
`counts`. -/
def Tile.cycleEnd (x : Tile) (counts : Bool) (refused : List Nat) : Tile :=
  if x.stat = .idle then x
  else
    { x.readCsrs.settleSetcs with
      clk := x.clk + 1
      cycle := if x.ran then x.cycle + 1 else x.cycle
      wd := if !counts then x.wd else if x.wdEvent then 0 else x.wd + 1
      wdEvent := false, tried := [], ports := [], refused := refused }

/-- A lease's period runs (R175). -/
def Cluster.cycleEnd (q : Cluster) : Cluster :=
  { q with cycLeft := if q.held then q.cycLeft - 1 else q.cycLeft, arrLeft := q.arrLeft - 1 }

/-- The stall of R183 that decode of a context meets in this hub cycle; of several that hold, one is counted (DESIGN CHOICE,
notes/assumptions/94.md). -/
def State.stallOf (s : State) (c : Nat) : Option Nat :=
  let x := s.ctx c
  if x.st == .faulted || ((x.st == .run || x.st == .draining) && x.entries.any fun e => e.st == .fault) then some 3
  else if !x.decodes then none
  else if s.windowFull c then some 0
  else
    match s.fetchTli c with
    | .words ws =>
      (match decodeTli ws with
       | .instr i =>
         (match s.gate c i with
          | .stall k => some k
          | _ => none)
       | _ => none)
    | _ => none

/-- The stall counts of a context after a hub cycle (R183), modulo 2^64. -/
def State.countStall (s : State) (c : Nat) (x : Context) : Context :=
  match s.stallOf c with
  | none => x
  | some k => { x with stalls := (List.range 4).map fun j => (nth 0 x.stalls j + b2n (j == k)) % 2 ^ 64 }

/-- The clocks of the dies, tiles and leases after a tick. The frames of each clock are counted from power-on, so dies at one
clock have one phase (R131, R420). -/
def State.clocks (s : State) : State :=
  let ds := s.dieCycles
  { s with
    time := s.time + 10
    tiles := mmap (fun t x => if ds.contains (tileDie t) then x.cycleEnd (s.wdCounts t) (s.noPorts t) else x) s.tiles
    clusters := mmap (fun k q => if ds.contains (k / 32) then q.cycleEnd else q) s.clusters
    dies := (List.range s.form.dies).foldl
      (fun m d =>
        let x := mget Die.reset m d
        mput m d
          { x with
            acc := (s.time + 10) % stepPeriod x.step
            phase := (s.time + 10) / stepPeriod x.step % 32 }) s.dies }

/-- Whether the next tick ends a cycle of the hub, of 15 units (R420). -/
def State.hubCycle (s : State) : Bool := s.time / 15 != (s.time + 10) / 15

/-- A tick: the clocks, the stall counts, and what may happen now. -/
def State.tick (s : State) : State :=
  let ds := s.dieCycles
  let hub := s.hubCycle
  let s := if hub then { s with ctxs := mmap (fun c x => s.countStall c x) s.ctxs } else s
  let s := s.clocks
  let tileSteps := (mkeys s.tiles).flatMap fun t => when (ds.contains (tileDie t)) (s.tileEvents t)
  { s with
    slotsDec := if hub then 2 else s.slotsDec
    slotsIss := if hub then 2 else s.slotsIss
    agenda :=
      s.leaseEvents ++ tileSteps.map (fun i => (Subject.none, i)) ++
        when hub s.hubEvents }

end Sys2Proof.Machine
end

