-- ==== Sys2Proof/Machine/Issue.lean ====
section
/-! DEFINITION. What one step does: the head of the agenda, else the next bundle that a tile may issue, else a tick. -/
namespace Sys2Proof.Machine

/-- The syllables of a bundle, one after another, each in its slot. -/
def runSyls : List (Nat × Instr) → State → Host.Outcome State Fault Refusal
  | [], s => .next s
  | (k, i) :: r, s =>
    match exec i (s.atSlot k) with
    | .next s => runSyls r s
    | o => o

/-- What a group's next bundle comes to. -/
def runTurn (s : State) (u : Turn) : Host.Outcome State Fault Refusal :=
  match u with
  | .bad c => exec (.notAnInstruction c) s
  | .brk => exec (.breakHit s.cur.tile s.cur.group) s
  | .empty => exec (.headerOnlyBundle (BitVec.ofNat 4 s.cur.gap)) s
  | .run is =>
    match runSyls (issueOrder is) (s.openBundle.takePorts is) with
    | .next r => .next (r.finish s.cur.tile)
    | o => o
  | .joins =>
    match s.collapses.find? fun r => !r.begun with
    | some r => exec .collapse { s with cur := { s.cur with sub := { s.cur.sub with ctx := r.ctx, n := r.va } } }
    | none => .next s
  | .stall | .ports => .next s

/-- The step after its count: what the cycle's list has next; else a decode or issue slot of the hub; else the next
bundle that a tile may issue; else a tick. -/
def advance (s : State) : Host.Outcome State Fault Refusal :=
  match s.agenda with
  | (u, i) :: r => exec i { s with agenda := r, cur := { s.cur with sub := u } }
  | [] =>
    match s.nextSlot with
    | (s, (u, i) :: _) => exec i { s with cur := { s.cur with sub := u } }
    | (s, []) =>
      match s.nextIssue with
      | some (s, _, u) => runTurn s u
      | none => .next s.tick

end Sys2Proof.Machine
end

