-- ==== Sys2Proof/Machine/Place.lean ====
section
/-! DEFINITION. A machine in which tile 0 is about to issue one bundle of one syllable: what a program's launch would leave
(notes/assumptions/6.md). -/
namespace Sys2Proof.Machine

/-- The place of the syllable's bundle: VA 0x1:0x10000, at PA 0. -/
def placeVA : Word := 0x10000

/-- The lowest slot in which the syllable is legal; slot C where it is no instruction. -/
def placeSlot (y : Syl) : Nat :=
  match decodeSyl y with
  | .ok i => ((List.range 8).find? fun k => (slotMask i).getLsbD k).getD 0
  | .error _ => 0

/-- The bundle of a syllable (R252, R253): IQLEV 7, or 0 under a qualifier. -/
def placeWords (y : Syl) : List Nat :=
  let k := placeSlot y
  let long := match y.imm with
    | some _ => 2 ^ (15 + k)
    | none => 0
  let lev := if sylIq y = 0 then 7 * 2 ^ 9 else 0
  [2 ^ (23 + k) + long + lev, y.w.toNat % 2 ^ 31 + 2 ^ 31] ++ (match y.imm with
    | some v => [v.toNat]
    | none => [])

/-- The table nodes and the leaf for the code page (R35 to R37): one node for each level, 5 first. -/
def placeNodes : List (Nat × Nat) :=
  let node (k : Nat) : Nat := nodeBase + k * 65536
  let down (k ix : Nat) : Nat × Nat := (node k + 16 * ix, 1 + node (k + 1))
  [down 0 0, down 1 16, down 2 0, down 3 0, down 4 0, (node 5 + 16 * 16, 3 + 2 ^ 54)]

/-- Context 1, running, whose tables map the code page. -/
def placeCtx : Context :=
  { Context.reset with
    st := .run, resident := true, want := [0], part := [0], decStop := true, root := nodeBase
    nodes := (List.range 6).map fun k => nodeBase + k * 65536 }

/-- Tile 0 with an instance of context 1 at the bundle; a level of a loop is open where the syllable has a qualifier. -/
def placeTile (y : Syl) : Tile :=
  let loops : List LoopLv := if sylIq y = 0 then [] else [⟨0, 1, 1, 0, 0, 0, false⟩]
  { Tile.reset with
    stat := .running, ctx := 1, last := some 1, csp := 1, feat := 7, seqs := List.replicate 8 ⟨placeVA, false, loops⟩ }

/-- The machine with a syllable placed as the next bundle of tile 0. -/
def State.placeSyl (s : State) (y : Syl) : State :=
  let s := placeNodes.foldl (fun s p => s.write .phys p.1 (leBytes 16 p.2) 0xFFFF) s
  let s := s.write .phys 0 ((placeWords y).flatMap (leBytes 4)) 0xFFFF
  { s.setCtx 1 placeCtx with
    agenda := [], slotsDec := 0, slotsIss := 0, tripped := false, tlb := [], tiles := [(0, placeTile y)] }

end Sys2Proof.Machine
end

