-- ==== Sys2Proof/Machine/Step.lean ====
section
/-! DEFINITION. One step of the machine. -/
namespace Sys2Proof.Machine

/-- One step. -/
def step (s : State) : Host.Outcome State Fault Refusal := advance { s with freeCtr := s.freeCtr + 1 }

/-- The next instruction placed where tile 0 fetches. -/
def State.withFetchWord (s : State) (nbits w : Nat) : State := s.placeSyl (tableSyl nbits w)

end Sys2Proof.Machine
end

