-- ==== Sys2Proof/Safety.lean ====
section
/-! DEFINITION. What counts as a safe step: it answers a next state. The canonical form of a state's memories, and the
well-formedness of its tiles' groups and queues, which every step keeps. -/
namespace Sys2Proof.Machine

/-- A step that neither faults nor refuses. -/
def Safe (o : Host.Outcome State Fault Refusal) : Prop := ∃ t, o = .next t

/-- Every memory is in its canonical form: resident memory, the far tiers, host memory, each tile's scratchpad and
accumulators, and those of the tiles that pre-emption has saved. -/
def MemoryCanonical (s : State) : Prop :=
  (∀ l, Memory.wf (s.mem l) = true) ∧
    ∀ p ∈ s.ctxs, ∀ g ∈ p.2.gangs, ∀ x ∈ g.saved, Memory.wf x.spad = true ∧ Memory.wf x.acc = true

/-- R166, R167, R169: the groups of a tile have numbers of their own, 0 to 7, and every slot is in exactly one of them. -/
def GroupsSound (gs : List Group) : Prop :=
  (gs.map (·.num)).Nodup ∧ (∀ g ∈ gs, g.num < 8 ∧ g.slots ≠ 0) ∧ gs.Pairwise (fun a b => a.slots &&& b.slots = 0) ∧
    gs.foldl (fun m g => m ||| g.slots) 0 = 0xFF

/-- R261: an engine's queue holds at most 16 commands. -/
def Tile.QueuesSound (x : Tile) : Prop :=
  x.qD.q.length ≤ 16 ∧ x.qV.q.length ≤ 16 ∧ x.qM.q.length ≤ 16 ∧ x.qK.q.length ≤ 16 ∧ x.qA.q.length ≤ 16

/-- A tile's groups, those that a handler interrupts among them, and its queues. -/
def Tile.Sound (x : Tile) : Prop :=
  GroupsSound x.groups ∧ (∀ o ∈ x.outer, GroupsSound o.groups) ∧ x.QueuesSound

/-- Every tile is sound, those that pre-emption has saved among them. -/
def TilesSound (s : State) : Prop :=
  (∀ p ∈ s.tiles, p.2.Sound) ∧ ∀ p ∈ s.ctxs, ∀ g ∈ p.2.gangs, ∀ x ∈ g.saved, x.Sound

end Sys2Proof.Machine
end

