-- ==== Sys2Proof/Certificates/Slice0/Obligations.lean ====
section
/-! DEFINITION. The statements for the provers. Each docstring says which rule of spec/ the statement formalises, or which
choice of the model it rests on. The definitions of namespace Claims only name what several statements say. -/

namespace Sys2Proof.Claims
open Sys2Proof.Machine

/-- The syllable of this step is performed (its qualifier holds, R173), and its group may write each of `ds` (R168). -/
def Acts (s : State) (q : BitVec 2) (ds : List Dest) : Prop :=
  s.qualified q = true ∧ ∀ d ∈ ds, s.here.mayWrite s.cur.group d = true

/-- The step of `i` in `s` answers the next state `t`. -/
def Gives (i : Instr) (s t : State) : Prop := exec i s = .next t

/-- `t` is `s` but for tile `k`, which `f` gives. -/
def OnlyTile (k : Nat) (s t : State) (f : Tile → Tile) : Prop := t = s.setTile k (f (s.tile k))

/-- A read of one byte gives the same in two states, wherever it lies. -/
def SameBytes (s t : State) : Prop := ∀ l a, t.byte l a = s.byte l a

/-- A read of one byte gives the same in two states, but for n bytes from a on of one location. -/
def SameBytesBut (s t : State) (l : Loc) (a n : Nat) : Prop :=
  ∀ k b, ¬(k = l ∧ a ≤ b ∧ b < a + n) → t.byte k b = s.byte k b

end Sys2Proof.Claims

open Sys2Proof Sys2Proof.Machine Sys2Proof.Claims

/-! ## Results in flight -/

/-- R262, R281: a result of a syllable goes to its destination when its bound of `lat` cycles ends; until then it is one
result in flight of the issuing group. One for `x0` is discarded. Nothing else of the machine changes. -/
def Sys2Proof.Claims.ResultGoesInFlight : Prop :=
  ∀ (s : State) (d : Dest) (v : Word) (lat : Nat),
    (d = .x 0 → s.result d v lat = s) ∧
    (d ≠ .x 0 → OnlyTile s.cur.tile s (s.result d v lat) fun x =>
      { x with
        pend := x.pend ++ [⟨d, v, x.clk + lat, x.clk, x.pseq, s.cur.group, false, false, false, 0, s.cur.addr, false, none⟩]
        pseq := x.pseq + 1 })

/-- R262, R263: RESULT_LAND puts the result whose bound has ended, the first in issue order of those that end together,
in its destination, and takes it out of flight. -/
def Sys2Proof.Claims.ResultLandWritesDestination : Prop :=
  ∀ (s : State) (t : Nat) (p : Pend), (s.tile t).dueTimed = some p →
    (p.latch = false → Gives (.resultLand t) s (s.setTile t ((s.tile t).landPend p))) ∧
    (p.latch = true → Gives (.latchDelivery t) s (s.setTile t ((s.tile t).landPend p))) ∧
    p ∈ (s.tile t).pend ∧ p.due ≤ (s.tile t).clk ∧
    (∀ q ∈ (s.tile t).pend, q.timed = true → q.due ≤ (s.tile t).clk → p.due < q.due ∨ p.due = q.due ∧ p.seq ≤ q.seq) ∧
    ((s.tile t).landPend p).pend = (s.tile t).pend.erase p ∧
    (∀ r, p.dest = .x r → r ≠ 0 → mget 0 ((s.tile t).landPend p).xs r.toNat = p.val) ∧
    (∀ r, p.dest = .x r → ∀ k, k ≠ r.toNat → mget 0 ((s.tile t).landPend p).xs k = mget 0 (s.tile t).xs k) ∧
    (∀ n, p.dest = .c n → ((s.tile t).landPend p).cs.getLsbD n.toNat = p.val.getLsbD 0) ∧
    (∀ k, p.dest = .stg k → mget 0 ((s.tile t).landPend p).stg k = p.val)

/-- R281, R262: a source field that names `x0` reads 0; another register reads its value where no result for it is in
flight, and an undefined value (R8) where the reading group's own result is. -/
def Sys2Proof.Claims.SourceReads : Prop :=
  ∀ (s : State) (r : BitVec 7),
    (r = 0 → s.readX r = 0) ∧
    (r ≠ 0 → s.here.undefinedRead s.cur.group (.x r) = false → s.readX r = mget 0 s.here.xs r.toNat) ∧
    (r ≠ 0 → s.here.undefinedRead s.cur.group (.x r) = true →
      s.readX r = Config.freeValue s.freeCtr (s.cur.slot * 65536 + r.toNat))

/-! ## Integer and address instructions -/

/-- R297: what each integer instruction writes, for every operand; `A r` is the value a source field reads, `I` the
sign-extended immediate of a long form. Its latency is that of R269. -/
def Obligations.IntegerResults : Prop :=
  ∀ (s : State) (q : BitVec 2) (d a b : BitVec 7) (imm : BitVec 32), Acts s q [.x d] →
    let A := s.readX a
    let B := s.readX b
    let D := s.readX d
    let I : Word := imm.signExtend 64
    let w (v : Word) (lat : Nat) : State := s.result (.x d) v lat
    Gives (.add q d a b) s (w (A + B) 1) ∧ Gives (.addLong q d a imm) s (w (A + I) 1) ∧
    Gives (.sub q d a b) s (w (A - B) 1) ∧ Gives (.subLong q d a imm) s (w (A - I) 1) ∧
    Gives (.mul q d a b) s (w (A * B) 3) ∧ Gives (.mulLong q d a imm) s (w (A * I) 3) ∧
    Gives (.mulh q d a b false) s (w (BitVec.ofInt 64 (A.toInt * B.toInt / 2 ^ 64)) 3) ∧
    Gives (.mulh q d a b true) s (w (BitVec.ofNat 64 (A.toNat * B.toNat / 2 ^ 64)) 3) ∧
    Gives (.madd q d a b) s (w (D + A * B) 3) ∧
    Gives (.and q d a b) s (w (A &&& B) 1) ∧ Gives (.andLong q d a imm) s (w (A &&& I) 1) ∧
    Gives (.or q d a b) s (w (A ||| B) 1) ∧ Gives (.orLong q d a imm) s (w (A ||| I) 1) ∧
    Gives (.xor q d a b) s (w (A ^^^ B) 1) ∧ Gives (.xorLong q d a imm) s (w (A ^^^ I) 1) ∧
    Gives (.andn q d a b) s (w (A &&& ~~~B) 1) ∧ Gives (.andnLong q d a imm) s (w (A &&& ~~~I) 1) ∧
    Gives (.shl q d a b) s (w (A <<< (B.toNat % 64)) 1) ∧ Gives (.shlLong q d a imm) s (w (A <<< (I.toNat % 64)) 1) ∧
    Gives (.shr q d a b) s (w (A >>> (B.toNat % 64)) 1) ∧ Gives (.shrLong q d a imm) s (w (A >>> (I.toNat % 64)) 1) ∧
    Gives (.sra q d a b) s (w (A.sshiftRight (B.toNat % 64)) 1) ∧
    Gives (.sraLong q d a imm) s (w (A.sshiftRight (I.toNat % 64)) 1) ∧
    Gives (.rotr q d a b) s (w (A.rotateRight (B.toNat % 64)) 1) ∧
    Gives (.rotrLong q d a imm) s (w (A.rotateRight (I.toNat % 64)) 1) ∧
    Gives (.min q d a b) s (w (if A.slt B then A else B) 1) ∧ Gives (.minLong q d a imm) s (w (if A.slt I then A else I) 1) ∧
    Gives (.max q d a b) s (w (if A.slt B then B else A) 1) ∧ Gives (.maxLong q d a imm) s (w (if A.slt I then I else A) 1) ∧
    Gives (.minu q d a b) s (w (if A.ult B then A else B) 1) ∧ Gives (.minuLong q d a imm) s (w (if A.ult I then A else I) 1) ∧
    Gives (.maxu q d a b) s (w (if A.ult B then B else A) 1) ∧ Gives (.maxuLong q d a imm) s (w (if A.ult I then I else A) 1) ∧
    Gives (.popc q d a) s (w (BitVec.ofNat 64 (((List.range 64).filter fun k => A.getLsbD k).length)) 1) ∧
    (∃ n, Gives (.clz q d a) s (w (BitVec.ofNat 64 n) 1) ∧ n ≤ 64 ∧ A.toNat < 2 ^ (64 - n) ∧ (n < 64 → 2 ^ (63 - n) ≤ A.toNat)) ∧
    (∀ i15 : BitVec 15, Gives (.li q d i15) s (w (i15.signExtend 64) 1)) ∧
    Gives (.liLong q d imm) s (w I 1) ∧
    Gives (.liHi q d imm) s (w (BitVec.ofNat 64 (imm.toNat * 2 ^ 32 + D.toNat % 2 ^ 32)) 1) ∧
    (∀ i8 : BitVec 8, Gives (.addi q d a i8) s (w (A + i8.signExtend 64) 1)) ∧
    Gives (.addiLong q d a imm) s (w (A + I) 1)

/-- R298: CMP writes its predicate, SEL the source that its condition bit selects. -/
def Sys2Proof.Claims.CompareAndSelectResults : Prop :=
  ∀ (s : State) (q : BitVec 2) (a b : BitVec 7) (imm : BitVec 32),
    let A := s.readX a
    let B := s.readX b
    let I : Word := imm.signExtend 64
    let holds (p : BitVec 3) (x y : Word) : Bool :=
      match p.toNat with
      | 0 => decide (x.toNat = y.toNat)
      | 1 => decide (x.toNat ≠ y.toNat)
      | 2 => decide (x.toInt < y.toInt)
      | 3 => decide (y.toInt ≤ x.toInt)
      | 4 => decide (x.toNat < y.toNat)
      | 5 => decide (y.toNat ≤ x.toNat)
      | 6 => decide ((x &&& y).toNat ≠ 0)
      | _ => decide ((x &&& y).toNat = 0)
    (∀ (c : BitVec 5) (p : BitVec 3), Acts s q [.c c] →
      Gives (.cmp q c a b p) s (s.result (.c c) (if holds p A B then 1 else 0) 1) ∧
      Gives (.cmpLong q c a p imm) s (s.result (.c c) (if holds p A I then 1 else 0) 1)) ∧
    (∀ (d : BitVec 7) (c : BitVec 5) (neg : Bool), Acts s q [.x d] →
      Gives (.sel q d a c neg) s (s.result (.x d) (if xor (s.readC c) neg then A else s.readX d) 1))

/-- R299: EXT and INS, bit by bit: LSB and W of the field word F select the field; EXT repeats its top bit where SX = 1 and
the field lies within the register; INS keeps the destination's other bits. -/
def Sys2Proof.Claims.FieldExtractAndInsertResults : Prop :=
  ∀ (s : State) (q : BitVec 2) (d a b : BitVec 7), Acts s q [.x d] →
    let A := s.readX a
    let D := s.readX d
    let F := (s.readX b).toNat
    let lsb := F % 64
    let n := F / 64 % 64 + 1
    let sx := F / 4096 % 2 = 1 ∧ lsb + n ≤ 64
    (∃ v, Gives (.ext q d a b) s (s.result (.x d) v 1) ∧
      ∀ k < 64, v.getLsbD k = if k < n then A.getLsbD (lsb + k) else decide sx && A.getLsbD (lsb + n - 1)) ∧
    (∃ v, Gives (.ins q d a b) s (s.result (.x d) v 1) ∧
      ∀ k < 64, v.getLsbD k = if lsb ≤ k ∧ k < lsb + n then A.getLsbD (k - lsb) else D.getLsbD k)

/-- R298 and R299, each whole. -/
def Obligations.CompareSelectAndFieldResults : Prop := CompareAndSelectResults ∧ FieldExtractAndInsertResults

/-- R300: HASHB of 16 tokens at an offset that is a multiple of 64 and holds no poison: the chained hash of R221 with
latency 12; a misaligned offset raises ALIGN, poison POISON. -/
def Sys2Proof.Claims.HashbResult : Prop :=
  ∀ (s : State) (q : BitVec 2) (d a b : BitVec 7), Acts s q [.x d] →
    let off := (s.readX b).toNat % 2 ^ 20
    let u := s.touchBanks off 64
    (off % 64 = 0 → u.poisoned (.spad s.cur.tile) off 64 = false →
      Gives (.hashb q d a b) s
        (u.result (.x d) (hashb (u.readX a) ((leWords (u.bytes (.spad s.cur.tile) off 64)).map BitVec.toNat)) 12)) ∧
    (off % 64 = 0 → u.poisoned (.spad s.cur.tile) off 64 = true →
      Gives (.hashb q d a b) s ((u.consumed (.spad s.cur.tile) off s.here.ctx).raiseAt .poison off)) ∧
    (off % 64 ≠ 0 → Gives (.hashb q d a b) s (s.raiseAt .align off))

/-- R301: what STG, STGI, STGL and STGR write; code 0 names M, 1 V, 2 D, 3 K. -/
def Sys2Proof.Claims.StagingResults : Prop :=
  ∀ (s : State) (q e : BitVec 2) (n : BitVec 4) (a d : BitVec 7) (imm : BitVec 32),
    let k := 16 * e.toNat + n.toNat
    (Acts s q [.stg k] →
      Gives (.stg q e n a) s (s.result (.stg k) (s.readX a) 1) ∧
      Gives (.stgi q e n imm) s (s.result (.stg k) (imm.signExtend 64) 1) ∧
      Gives (.stgl q e n imm) s
        (s.result (.stg k) (BitVec.ofNat 64 (imm.toNat * 2 ^ 32 + (s.readStg e.toNat n.toNat).toNat % 2 ^ 32)) 1)) ∧
    (Acts s q [.x d] → Gives (.stgr q e n d) s (s.result (.x d) (s.readStg e.toNat n.toNat) 1))

/-- R300, R301: HASHB and the staging registers. -/
def Sys2Proof.Claims.HashAndStagingResults : Prop := HashbResult ∧ StagingResults

/-! ## Scalar float -/

/-- R302 to R305: each scalar float instruction takes its operands in the format F that P selects (FP32 or FP64), computes
the exact result and rounds it once to F: FADD to FDIV in FMODE.RM, FSQRT in its RM field, FRCP to FLOG2 to nearest even.
FMIN, FMAX, FABS and FNEG are exact. What FEXP2 and FLOG2 round is the model's series for 2^a and log2 a, presumed to decide
every rounding (notes/assumptions/69.md). -/
def Sys2Proof.Claims.ScalarFloatResults : Prop :=
  ∀ (s : State) (q : BitVec 2) (d a b : BitVec 7) (p : Bool), Acts s q [.x d] →
    let F := if p then fp64 else fp32
    let bitsOf (r : BitVec 7) : Nat := (s.readX r).toNat % 2 ^ F.width
    let A := F.val (bitsOf a)
    let B := F.val (bitsOf b)
    let D := F.val (bitsOf d)
    let rm := rmode s.here.fmode.toNat
    let w (m : RMode) (v : Val) (lat : Nat) : State := s.result (.x d) (w64 (F.round m false 0 v)) lat
    Gives (.fadd q d a b p) s (w rm (A.add rm B) 3) ∧
    Gives (.fsub q d a b p) s (w rm (A.add rm B.negate) 3) ∧
    Gives (.fmul q d a b p) s (w rm (A.mul B) (if p then 6 else 5)) ∧
    Gives (.fma q d a b p) s (w rm (Val.fma rm A B D) (if p then 6 else 5)) ∧
    Gives (.fdiv q d a b p) s (w rm (A.div B) (if p then 30 else 18)) ∧
    (∀ r : BitVec 3, Gives (.fsqrt q d a r p) s (w (rmode r.toNat) A.sqrt (if p then 30 else 18))) ∧
    Gives (.fmin q d a b p) s (w .rne (Val.minmax false A B) 2) ∧
    Gives (.fmax q d a b p) s (w .rne (Val.minmax true A B) 2) ∧
    Gives (.fabs q d a p) s (s.result (.x d) (w64 (bitsOf a % 2 ^ (F.width - 1))) 2) ∧
    Gives (.fneg q d a p) s (s.result (.x d) (w64 (Nat.xor (bitsOf a) (2 ^ (F.width - 1)))) 2) ∧
    Gives (.frcp q d a p) s (w .rne A.rcp 8) ∧
    Gives (.frsq q d a p) s (w .rne A.rsqrt 8) ∧
    Gives (.fexp2 q d a p) s (w .rne A.exp2 8) ∧
    Gives (.flog2 q d a p) s (w .rne A.log2 8)

namespace Sys2Proof.Claims
open Sys2Proof.Machine

/-- R203, R209: r is x ÷ 2^k rounded to an integer in a mode (of SR, which no integer conversion has, nothing is said). -/
def RoundsTo (m : RMode) (x : Int) (k : Nat) (r : Int) : Prop :=
  match m with
  | .rne => (2 * (x - r * 2 ^ k)).natAbs ≤ 2 ^ k ∧ ((2 * (x - r * 2 ^ k)).natAbs = 2 ^ k → r % 2 = 0)
  | .rz => (r * 2 ^ k).natAbs ≤ x.natAbs ∧ x.natAbs < (r * 2 ^ k).natAbs + 2 ^ k ∧ 0 ≤ r * x
  | .ru => (r - 1) * 2 ^ k < x ∧ x ≤ r * 2 ^ k
  | .rd => r * 2 ^ k ≤ x ∧ x < (r + 1) * 2 ^ k
  | .sr => True

/-- R203, R307: v is what a conversion of A to the integers from lo to hi writes: rounded, saturated, 0 of a NaN, lo or hi of ±∞. -/
def ToInteger (m : RMode) (lo hi : Int) (A : Val) (v : Word) : Prop :=
  match A with
  | .nan _ => v = 0
  | .inf neg => v = BitVec.ofInt 64 (if neg then lo else hi)
  | .fin neg n e _ => ∃ r : Int, RoundsTo m ((if neg then -1 else 1) * (n * 2 ^ e.toNat : Nat)) (-e).toNat r ∧ v = BitVec.ofInt 64 (max lo (min hi r))

end Sys2Proof.Claims

/-- R304, R306, R307: FCMP writes whether its predicate holds, every predicate but `.ne` false of a NaN; FCLASS one class
bit and, for a NaN alone, a cause; FCVT by its conversion: to an integer rounded in RM and saturated, NaN giving 0 and ±∞ the
bounds; from an integer, or to a float format, rounded in RM (R210); from a narrow format its value; ±∞ to E4M3 gives 0x7F, and a NaN
the NaN of its cause, 0x7F of E4M3 and 0x7E of E5M2 (R213, R214). Where RM is 4 it takes one draw of the tile's generator (R211), and
else none. -/
def Sys2Proof.Claims.FloatCompareClassConvertResults : Prop :=
  ∀ (s : State) (q : BitVec 2) (d a b : BitVec 7) (p : Bool),
    let F := if p then fp64 else fp32
    let bitsOf (r : BitVec 7) : Nat := (s.readX r).toNat % 2 ^ F.width
    let o := (F.val (bitsOf a)).cmp (F.val (bitsOf b))
    (∀ (c : BitVec 5) (r : BitVec 2), Acts s q [.c c] →
      Gives (.fcmp q c a b r p) s
        (s.result (.c c)
          (if (r = 0 ∧ o = some .eq) ∨ (r = 1 ∧ o = some .lt) ∨ (r = 2 ∧ (o = some .lt ∨ o = some .eq)) ∨
              (r = 3 ∧ o ≠ some .eq) then 1 else 0) 2)) ∧
    (Acts s q [.x d] →
      (∃ v : Word, Gives (.fclass q d a p) s (s.result (.x d) v 2) ∧
        (∃ k < 10, v.toNat % 2 ^ 10 = 2 ^ k ∧ (k < 8 → v.toNat = 2 ^ k) ∧ (8 ≤ k ↔ F.isNaNCode (bitsOf a % 2 ^ (F.width - 1)) = true))) ∧
      (∀ (conv : BitVec 4) (rm : BitVec 3),
        let n := srNext s.here.srstate
        let u := if rm = 4 then s.updHere fun x => { x with srstate := n } else s
        let dr := if rm = 4 then n.toNat else 0
        let m := rmode rm.toNat
        let X := s.readX a
        let A := F.val (bitsOf a)
        ∃ v : Word, Gives (.fcvt q d a conv rm p) s (u.result (.x d) v 3) ∧
          (conv = 0 → ToInteger m (-2 ^ 31) (2 ^ 31 - 1) A v) ∧ (conv = 1 → ToInteger m 0 (2 ^ 32 - 1) A v) ∧
          (conv = 2 → ToInteger m (-2 ^ 63) (2 ^ 63 - 1) A v) ∧ (conv = 3 → ToInteger m 0 (2 ^ 64 - 1) A v) ∧
          (conv = 4 → v = w64 (F.round m false dr (.ofInt X.toInt))) ∧ (conv = 5 → v = w64 (F.round m false dr (.ofInt X.toNat))) ∧
          (conv = 6 → v = w64 (fp16.round m false dr A)) ∧ (conv = 7 → v = w64 (bf16.round m false dr A)) ∧
          (conv = 8 → v = w64 (F.round m false dr (fp16.val (X.toNat % 2 ^ 16)))) ∧
          (conv = 9 → v = w64 (F.round m false dr (bf16.val (X.toNat % 2 ^ 16)))) ∧
          (conv = 10 → v = w64 (e4m3.round m false dr A) ∧ ((A.isInf = true ∨ A.isNaN = true) → v = 0x7F)) ∧
          (conv = 11 → v = w64 (e5m2.round m false dr A) ∧ (A.isNaN = true → v = 0x7E)) ∧
          (conv = 12 → v = w64 (F.round m false dr (e4m3.val (X.toNat % 2 ^ 8)))) ∧
          (conv = 13 → v = w64 (F.round m false dr (e5m2.val (X.toNat % 2 ^ 8)))) ∧
          (conv = 14 → v = w64 ((if p then fp32 else fp64).round m false dr A)) ∧
          (conv = 10 → p = false → X = 0x43FA_0000 → rm = 0 → v = 0x7E) ∧
          (conv = 0 → p = false → X = 0xC060_0000 → rm = 0 → v = 0xFFFF_FFFF_FFFF_FFFC) ∧
          (conv = 0 → p = false → X = 0xC060_0000 → rm = 1 → v = 0xFFFF_FFFF_FFFF_FFFD) ∧
          (conv = 0 → p = false → X = 0x4F32_D05E → rm = 0 → v = 0x7FFF_FFFF)))

/-- R302 to R307: the scalar float instructions (notes/assumptions/69.md for FEXP2 and FLOG2). -/
def Obligations.ScalarFloatInstructionResults : Prop := ScalarFloatResults ∧ FloatCompareClassConvertResults

namespace Sys2Proof.Claims
open Sys2Proof.Machine

/-- The qualifier of an instruction that only computes a result in flight for one `x` register, condition bit, staging
register or CSR. -/
def resultOnly (i : Instr) : Option (BitVec 2) :=
  match i with
  | .add q _ _ _ | .addLong q _ _ _ | .sub q _ _ _ | .subLong q _ _ _ | .mul q _ _ _ | .mulLong q _ _ _ | .mulh q _ _ _ _
  | .madd q _ _ _ | .and q _ _ _ | .andLong q _ _ _ | .or q _ _ _ | .orLong q _ _ _ | .xor q _ _ _ | .xorLong q _ _ _
  | .andn q _ _ _ | .andnLong q _ _ _ | .shl q _ _ _ | .shlLong q _ _ _ | .shr q _ _ _ | .shrLong q _ _ _ | .sra q _ _ _
  | .sraLong q _ _ _ | .rotr q _ _ _ | .rotrLong q _ _ _ | .min q _ _ _ | .minLong q _ _ _ | .max q _ _ _
  | .maxLong q _ _ _ | .minu q _ _ _ | .minuLong q _ _ _ | .maxu q _ _ _ | .maxuLong q _ _ _ | .cmp q _ _ _ _
  | .cmpLong q _ _ _ _ | .sel q _ _ _ _ | .li q _ _ | .liLong q _ _ | .liHi q _ _ | .addi q _ _ _ | .addiLong q _ _ _
  | .ext q _ _ _ | .ins q _ _ _ | .popc q _ _ | .clz q _ _ | .stg q _ _ _ | .stgi q _ _ _ | .stgr q _ _ _ | .stgl q _ _ _
  | .fadd q _ _ _ _ | .fsub q _ _ _ _ | .fmul q _ _ _ _ | .fma q _ _ _ _ | .fmin q _ _ _ _ | .fmax q _ _ _ _
  | .fcmp q _ _ _ _ _ | .fcvt q _ _ _ _ _ | .fabs q _ _ _ | .fneg q _ _ _ | .frcp q _ _ _ | .frsq q _ _ _
  | .fexp2 q _ _ _ | .flog2 q _ _ _ | .fdiv q _ _ _ _ | .fsqrt q _ _ _ _ | .fclass q _ _ _ | .csrr q _ _ | .getid q _ _
  | .clrc q _ => some q
  | _ => none

end Sys2Proof.Claims

/-- R297 ("None of these instructions saturates, faults for overflow, or writes a condition bit other than CMP's
destination"), R298, R301, R303 to R307, R290, R294: the frame of the instructions that compute one result: they add at
most results in flight for their own destinations; FCVT with RM 4 advances SRSTATE; no register, flag, special register,
accumulator or byte of memory is written as they issue. -/
def Obligations.ResultInstructionsFrame : Prop :=
  ∀ (i : Instr) (q : BitVec 2) (s t : State), resultOnly i = some q → Acts s q (dests i) → Gives i s t →
    { t with tiles := s.tiles } = s ∧ (∀ k, k ≠ s.cur.tile → t.tile k = s.tile k) ∧ SameBytes s t ∧
    { t.here with pend := s.here.pend, pseq := s.here.pseq, srstate := s.here.srstate } = s.here ∧
    ((∀ q d a c p, i ≠ .fcvt q d a c 4 p) → t.here.srstate = s.here.srstate) ∧
    ∃ ps, t.here.pend = s.here.pend ++ ps ∧ ∀ p ∈ ps, p.dest ∈ dests i

/-- R168, R282: an instruction of this kind whose destination lies outside its group's partition raises PARTITION, with
the destination in FREG, and has no effect: no result goes in flight. -/
def Sys2Proof.Claims.PartitionFaultHasNoEffect : Prop :=
  ∀ (i : Instr) (q : BitVec 2) (s : State) (d : Dest), resultOnly i = some q → s.qualified q = true → dests i = [d] →
    s.here.mayWrite s.cur.group d = false →
      Gives i s (s.raiseSyl .partition 0 0 d.freg) ∧
      (∀ p, s.here.pend = p → s.killed s.cur.tile = false →
        ((s.raiseSyl .partition 0 0 d.freg).here.latches.map Latch.p ++ (s.raiseSyl .partition 0 0 d.freg).here.pend).length =
          (s.here.latches.map Latch.p ++ p).length)

/-- R173: a syllable whose iteration qualifier does not hold has no effect. -/
def Sys2Proof.Claims.QualifierThatFailsHasNoEffect : Prop :=
  ∀ (i : Instr) (y : Syl) (s : State), encodeSyl i = some y → s.qualified (fld y.w.toNat 29 2) = false → Gives i s s

/-- The qualifier of the other instructions that write `x` registers or condition bits, which they check before any other effect. -/
def Sys2Proof.Claims.checksFirst (i : Instr) : Option (BitVec 2) :=
  match i with
  | .ldB q _ _ _ _ _ | .ldBLong q _ _ _ _ _ | .ldH q _ _ _ _ _ | .ldHLong q _ _ _ _ _ | .ldW q _ _ _ _ _ | .ldWLong q _ _ _ _ _
  | .ldD q _ _ _ _ | .ldDLong q _ _ _ _ | .ldc q _ _ _ _ _ _ | .ldcLong q _ _ _ _ _ _ _ | .amo q _ _ _ _ _ _ _ | .waitf q _ _
  | .flagtest q _ _ _ _ | .ffrt q _ _ _ | .dsig q _ | .rget q _ _ | .hashb q _ _ _ | .setc q _ | .call q _ => some q
  | _ => none

/-- R168, R282: a load, an AMO, HASHB, WAITF, FLAGTEST, FFRT, RGET, SETC, CALL, and a DSIG that its queue takes, whose destination (the first
of its destinations) lies outside its group's partition, raises PARTITION with that destination in FREG, before any other effect. -/
def Sys2Proof.Claims.PartitionFaultComesFirst : Prop :=
  ∀ (i : Instr) (q : BitVec 2) (s : State) (d : Dest), checksFirst i = some q → s.qualified q = true →
    ((dests i).find? fun d => !s.here.mayWrite s.cur.group d) = some d →
    (∀ n x, i = .dsig n x → (s.here.queue (slotEng s.cur.slot)).q.length < 16) → Gives i s (s.raiseSyl .partition 0 0 d.freg)

/-- R168, R173, R282: when a syllable has no effect, as the parts say. -/
def Obligations.PartitionFaultOrFailedQualifierHasNoEffect : Prop :=
  PartitionFaultHasNoEffect ∧ PartitionFaultComesFirst ∧ QualifierThatFailsHasNoEffect

/-! ## Taking a cause -/

/-- R368 to R372: taking a cause. Tile t of an instance that is not being ended, which has recorded nothing and holds no
interlocked result with poison, freezes; the frame names the cause, the restartable flag, the group and slot, the
faulting bundle, the failing address for PROBE, FETCH, ALIGN and POISON alone, CYCLE, and each slot's next bundle; results in flight go to latches,
but for CSR writes and those that land before their group's freeze point; the registers, memories and queues stay; a cause fatal to the context is remembered for it. -/
def Obligations.TakingACauseFreezesTheTile : Prop :=
  ∀ (s : State) (t : Nat) (r : Raised), s.killed t = false → (s.tile t).raised = none → (s.tile t).stat = .running →
    (∀ p ∈ (s.tile t).latches.map Latch.p ++ (s.tile t).pend, (p.ilk && p.poison) = false) →
    let x := s.tile t
    let u := s.raiseIn t r
    let y := u.tile t
    y.stat = .frozen ∧ y.raised = some r ∧
    (mget 0 y.frame 0x100).toNat % 256 = causeCode r.cause ∧
    (mget 0 y.frame 0x100).toNat / 256 % 2 = (if causeClass r.cause = 2 then 1 else 0) ∧
    (mget 0 y.frame 0x100).toNat / 2 ^ 10 % 8 = r.grp % 8 ∧ (mget 0 y.frame 0x100).toNat / 2 ^ 13 % 8 = r.slot % 8 ∧
    (mget 0 y.frame 0x100).toNat / 2 ^ 48 = r.code % 65536 ∧
    (r.eng = none → r.tw = false → mget 0 y.frame 0x101 = r.faddr) ∧
    ((r.cause = .probe ∨ r.cause = .fetch ∨ r.cause = .align ∨ r.cause = .poison) →
      mget 0 y.frame 0x102 = BitVec.ofNat 64 r.fva ∧ mget 0 y.frame 0x103 = BitVec.ofNat 64 (r.fva / 2 ^ 64)) ∧
    (r.cause ≠ .probe → r.cause ≠ .fetch → r.cause ≠ .align → r.cause ≠ .poison → mget 0 y.frame 0x102 = 0 ∧ mget 0 y.frame 0x103 = 0) ∧
    mget 0 y.frame 0x105 = x.cycle ∧ (∀ k < 8, mget 0 y.frame (0x108 + k) = x.seqAddr k) ∧
    mget 0 y.frame 0x140 = BitVec.ofNat 64 (x.latches.length + (x.pend.filter x.latches?).length) ∧
    y.latches.map Latch.p = x.latches.map Latch.p ++ x.pend.filter x.latches? ∧ y.pend = x.pend.filter (fun p => !x.latches? p) ∧
    (∀ p ∈ x.pend, x.latches? p = true ↔ (∀ n, p.dest ≠ .csr n) ∧ (p.ilk = true ∨ x.freezePoint p.grp ≤ p.due)) ∧
    { y with stat := x.stat, frozeAt := x.frozeAt, raised := x.raised, frame := x.frame, latches := x.latches, pend := x.pend, outer := x.outer } = x ∧
    (∀ k, k ≠ t → u.tile k = s.tile k) ∧ u.phys = s.phys ∧ u.flt = s.flt ∧ u.host = s.host ∧
    (causeClass r.cause = 0 → (u.ctx x.ctx).fatal.isSome = true)

/-! ## Sequencer and control -/

namespace Sys2Proof.Claims
open Sys2Proof.Machine

/-- The group of this step has its next bundle at an address. -/
def SentTo (s : State) (a : Word) : State := s.updGrp fun g => { g with goto := some a }

/-- R12, R316: a read of code for instruction i of this step that met outcome o at a VA raises FETCH (ACCESS outside the
device-private space, for a malformed entry and one the context does not own) with the VA of the 64-byte line, and i stays
pending, to be performed again. -/
def FetchesAgain (s : State) (i : Instr) (o : Tr) (va : Nat) : State :=
  (s.wait .again i).raiseWhy (if va < 2 ^ 64 ∨ o = .malformed ∨ o = .notOwned then .access else .fetch) (va / 64 * 64) 0 none o.why

end Sys2Proof.Claims

/-- R283: the target of each branch, relative to the address of its own bundle; BRC with C XOR NEG = 0 sends nowhere; CALL
writes the address past its bundle to `x127` with latency 1; a misaligned register target raises ALIGN and is not taken.
NOP (R268) does nothing. -/
def Sys2Proof.Claims.BranchResults : Prop :=
  ∀ (s : State) (q : BitVec 2), s.qualified q = true →
    let pc := s.cur.addr
    Gives (.nop q) s s ∧
    (∀ off : BitVec 22, Gives (.br q off) s (SentTo s (pc + off.signExtend 64 * 4))) ∧
    (∀ (c : BitVec 5) (neg : Bool) (off : BitVec 16),
      (xor (s.readC c) neg = true → Gives (.brc q c neg off) s (SentTo s (pc + off.signExtend 64 * 4))) ∧
      (xor (s.readC c) neg = false → Gives (.brc q c neg off) s s)) ∧
    (∀ a : BitVec 7,
      ((s.readX a).toNat % 4 = 0 → Gives (.brx q a) s (SentTo s (s.readX a))) ∧
      ((s.readX a).toNat % 4 ≠ 0 → Gives (.brx q a) s (s.raiseAt .align (s.readX a).toNat))) ∧
    ((s.readX 127).toNat % 4 = 0 → Gives (.ret q) s (SentTo s (s.readX 127))) ∧
    ((s.readX 127).toNat % 4 ≠ 0 → Gives (.ret q) s (s.raiseAt .align (s.readX 127).toNat)) ∧
    (∀ off : BitVec 22, s.here.mayWrite s.cur.group (.x 127) = true →
      Gives (.call q off) s (SentTo (s.result (.x 127) (pc + BitVec.ofNat 64 s.cur.len) 1) (pc + off.signExtend 64 * 4)))

/-- R283, R285: when a group moves on from a bundle that sent it to an address, every one of its sequencers is there, with
the loop levels as they were: no body-end step applies. -/
def Sys2Proof.Claims.TakenBranchReachesItsTarget : Prop :=
  ∀ (s : State) (t : Nat) (g : Group) (a : Word), g.goto = some a → (s.tile t).groups.find? (fun h => h.num == g.num) = some g →
    ∀ (k : Nat) (r : Seqr), (s.tile t).seqs[k]? = some r →
      ((s.finishGroup t g).tile t).seqs[k]? = some (if g.hasSlot k then { r with addr := a } else r)

/-- R172, R285: a group that moves on from a bundle that sent it nowhere. At no level's end it goes to the bundle that
follows; at the end of the innermost level's body with trips left (1 < rem) it goes back to body_start with rem one less
and the index advanced by the stride. -/
def Sys2Proof.Claims.BodyEndStep : Prop :=
  ∀ (a next : Word) (st : List LoopLv) (l : LoopLv) (fd : Nat) (pre : Bool), fd ≤ st.length →
    (l.last ≠ a → bodyEnd fd a next pre (st ++ [l]) 6 = (st ++ [l], next, false, pre)) ∧
    (l.last = a → 1 < l.rem →
      bodyEnd fd a next pre (st ++ [l]) 6 =
        (st ++ [{ l with rem := l.rem - 1, i := l.i + l.stride }], l.start, false, pre || l.pre)) ∧
    (l.last = a → l.rem ≤ 1 →
      bodyEnd fd a next pre (st ++ [l]) 6 = bodyEnd fd a next (pre || l.pre) st 5)

/-- R268, R283, R285: NOP and the branches, and where a group goes after its bundle. -/
def Obligations.GroupsMoveOn : Prop := BranchResults ∧ TakenBranchReachesItsTarget ∧ BodyEndStep

/-- R172, R284, R316: LOOP past its checks, at its level. On a shape record without poison or reserved bits: below MIN the short
path; count 0 the bundle after the body, whose header is read through the instruction path (a read that fails raises FETCH, or
ACCESS, with the line's VA, and the LOOP stays pending); else level LEV is entered with index 0 at the bundle that follows the
LOOP. A record with poison raises POISON, one with a reserved field that is not 0 ILLEGAL. A LOOP beside a scratchpad store of
its bundle that has yet to be made waits with its offset as read (R133, R262), and reads its record once that store is made. -/
def Sys2Proof.Claims.LoopPaths : Prop :=
  ∀ (s : State) (q : BitVec 2) (lev : BitVec 3) (a : BitVec 7) (mn : BitVec 8) (e sh : BitVec 16), s.qualified q = true →
    let i := Instr.loop q lev a mn e sh
    let off := (s.readX a).toNat % 2 ^ 20
    s.cur.len ≤ e.toNat * 4 → (s.here.groupSeq s.grp).loops.length = lev.toNat → off % 64 = 0 →
    (s.storeHeld = true → Gives i s (s.wait (.loopAt off) i)) ∧
    (∀ w : WaitRec, w.w = .loopAt off → w.i = i →
      (s.storeHeld = true → s.tryWait w = s) ∧ (s.storeHeld = false → s.tryWait w = (s.waitDone w).loopRead i lev off mn e sh)) ∧
    (s.storeHeld = false →
    let u := (s.touchBanks off 64).holdFor 6
    let rec' := u.bytes (.spad s.cur.tile) off 64
    let cnt := leNat ((rec'.drop (8 * lev.toNat)).take 4)
    let str := leNat ((rec'.drop (8 * lev.toNat + 4)).take 4)
    let last := s.cur.addr + BitVec.ofNat 64 (e.toNat * 4)
    let pre := leNat ((rec'.drop 48).take 8) / 2 ^ lev.toNat % 2 == 1
    let sound := leNat ((rec'.drop 48).take 8) < 64 ∧ leNat ((rec'.drop 56).take 8) = 0
    (u.poisoned (.spad s.cur.tile) off 64 = true →
      Gives i s ((u.consumed (.spad s.cur.tile) off u.here.ctx).raiseAt .poison off)) ∧
    (u.poisoned (.spad s.cur.tile) off 64 = false → ¬sound → Gives i s (u.raise .illegal)) ∧
    (u.poisoned (.spad s.cur.tile) off 64 = false → sound →
    (cnt < mn.toNat → Gives i s (SentTo u (s.cur.addr + sh.signExtend 64 * 4))) ∧
    (mn.toNat ≤ cnt → 0 < cnt →
      Gives i s
        (SentTo (u.updHere fun x => x.updSeqs u.grp fun r =>
            { r with
              loops := r.loops ++ [⟨0, cnt, cnt, BitVec.ofNat 32 str, s.cur.addr + BitVec.ofNat 64 s.cur.len, last, pre⟩] })
          (s.cur.addr + BitVec.ofNat 64 s.cur.len))) ∧
    (mn.toNat ≤ cnt → cnt = 0 →
      (∀ v b, u.codeRead s.cur.tile last 4 = (v, .ok b) →
        Gives i s (SentTo v (last + BitVec.ofNat 64 (bundleLen (leNat (b.map Prod.fst)))))) ∧
      (∀ v o va, u.codeRead s.cur.tile last 4 = (v, .error (o, va)) → Gives i s (FetchesAgain v i o va)))))

/-- R284's checks in their order: the body's end before the LOOP's own end and a LEV other than the group's depth raise
BUNDLE, a misaligned record ALIGN. -/
def Sys2Proof.Claims.LoopChecks : Prop :=
  ∀ (s : State) (q : BitVec 2) (lev : BitVec 3) (a : BitVec 7) (mn : BitVec 8) (e sh : BitVec 16), s.qualified q = true →
    let off := (s.readX a).toNat % 2 ^ 20
    let depth := (s.here.groupSeq s.grp).loops.length
    (e.toNat * 4 < s.cur.len → Gives (.loop q lev a mn e sh) s (s.raise .bundle)) ∧
    (s.cur.len ≤ e.toNat * 4 → depth ≠ lev.toNat → Gives (.loop q lev a mn e sh) s (s.raise .bundle)) ∧
    (s.cur.len ≤ e.toNat * 4 → depth = lev.toNat → off % 64 ≠ 0 → Gives (.loop q lev a mn e sh) s (s.raiseAt .align off))

/-- R286: a BRKL whose condition holds (or that has none) pops its level and every level inside it, in every sequencer of
the group, and sends the group to the bundle after that level's body; one whose condition fails does nothing; a level that
is not entered, or was entered before the group's FORK, raises BUNDLE; a header that cannot be read raises FETCH, or ACCESS,
and the BRKL stays pending (R316). LEV 7 names the innermost. -/
def Sys2Proof.Claims.BreakLoopResults : Prop :=
  ∀ (s : State) (q : BitVec 2) (lev : BitVec 3) (cond : Bool) (c : BitVec 5) (neg : Bool), s.qualified q = true →
    let stack := (s.here.groupSeq s.grp).loops
    let n := if lev = 7 then stack.length - 1 else lev.toNat
    ((stack.length ≤ n ∨ n < s.grp.forkDepth) → Gives (.brkl q lev cond c neg) s (s.raise .bundle)) ∧
    (∀ l, stack[n]? = some l → s.grp.forkDepth ≤ n →
      (cond = true → xor (s.readC c) neg = false → Gives (.brkl q lev cond c neg) s s) ∧
      ((cond = false ∨ xor (s.readC c) neg = true) → ∀ v b, s.codeRead s.cur.tile l.last 4 = (v, .ok b) →
        Gives (.brkl q lev cond c neg) s
          (SentTo (v.updHere fun x => x.updSeqs s.grp fun r => { r with loops := r.loops.take n })
            (l.last + BitVec.ofNat 64 (bundleLen (leNat (b.map Prod.fst)))))) ∧
      ((cond = false ∨ xor (s.readC c) neg = true) → ∀ v o va, s.codeRead s.cur.tile l.last 4 = (v, .error (o, va)) →
        Gives (.brkl q lev cond c neg) s (FetchesAgain v (.brkl q lev cond c neg) o va)))

/-- R172, R284, R286: LOOP and BRKL. -/
def Obligations.LoopAndBreakResults : Prop := LoopPaths ∧ LoopChecks ∧ BreakLoopResults

/-- R166, R167, R287: FORK in a lockstep tile on a valid descriptor (read at the 64-byte block of its bundle plus OFF22
blocks): group k of the words has its slots, its partition and its entry relative to the FORK's bundle, the number k, the FORK group's push
sequence, and the loop depth of the FORK; the tile is no longer in lockstep. Outside a lockstep tile, and on an invalid
descriptor, FORK raises BUNDLE; one whose descriptor cannot be read raises FETCH, or ACCESS, and stays pending. One beside a
syllable of its bundle that still waits (R265), or whose write or fence has yet to be performed (R151), waits for it. The last clause,
that results in flight count for all groups, is the model's choice (notes/assumptions/24.md). -/
def Obligations.ForkMakesItsGroups : Prop :=
  ∀ (s : State) (q : BitVec 2) (off : BitVec 22), s.qualified q = true →
    (s.grp.waits ≠ [] ∨ s.memsOut = true → Gives (.fork q off) s (s.wait .again (.fork q off))) ∧
    (s.grp.waits = [] → s.memsOut = false →
    (s.here.lockstep = false → Gives (.fork q off) s (s.raise .bundle)) ∧
    (s.here.lockstep = true → ∀ v o va,
      s.codeRead s.cur.tile (s.cur.addr / 64 * 64 + off.signExtend 64 * 64) 64 = (v, .error (o, va)) →
      Gives (.fork q off) s (FetchesAgain v (.fork q off) o va)) ∧
    (s.here.lockstep = true → ∀ v b, s.codeRead s.cur.tile (s.cur.addr / 64 * 64 + off.signExtend 64 * 64) 64 = (v, .ok b) →
      let ws := leDwords (b.map Prod.fst)
      let fs := (ws.takeWhile (· != 0)).map forkWord
      (forkOk ws = false → Gives (.fork q off) s (v.raise .bundle)) ∧
      (forkOk ws = true →
        ∃ t, Gives (.fork q off) s t ∧ t.here.lockstep = false ∧ t.here.groups.length = fs.length ∧
          (∀ (k : Nat) (f : ForkWord), fs[k]? = some f → ∃ g, t.here.groups[k]? = some g ∧
            g.num = k ∧ g.slots = f.slots ∧ g.part = some f.part ∧ g.goto = some (v.cur.addr + BitVec.ofInt 64 (f.entry * 4)) ∧
            g.pushSeq = v.grp.pushSeq ∧ g.nextIssue = v.grp.nextIssue ∧ g.forkDepth = (v.here.groupSeq v.grp).loops.length ∧
            g.halted = false ∧ g.waits = []) ∧
          t.here.pend = v.here.pend.map fun p => { p with grp := 255 })))

/-- R169, R287: JOIN waits, when it may (a forked tile, a mask of other groups that are present, no contradicting JOIN);
else it raises BUNDLE. While the set is not complete, the group stands at its JOIN. -/
def Sys2Proof.Claims.JoinArrives : Prop :=
  ∀ (s : State) (q : BitVec 2) (mask id : BitVec 8), s.qualified q = true →
    let x := s.here
    let ok := x.lockstep = false ∧ mask ≠ 0 ∧ mask.getLsbD s.cur.group = false ∧
      (∀ k < 8, mask.getLsbD k = true → ∃ g ∈ x.groups, g.num = k) ∧
      (∀ h ∈ x.groups, h.num ≠ s.cur.group → joinClash s.cur.group mask id h = false)
    (ok → Gives (.join q mask id) s
        ((s.wait (.join mask id) (.join q mask id)).joinCompleteDo s.cur.tile s.cur.group)) ∧
    (¬ok → s.here.stat = .running → s.killed s.cur.tile = false → Gives (.join q mask id) s (s.raise .bundle))

/-- R169, R176: a JOIN whose set is complete (every group of it waits at the same JOIN or has halted, and no result of
theirs is in flight, nor a write of theirs waiting) merges the set's groups into one, in the step JOIN_COMPLETE, which then moves the
merged group on: where the set's partitions unite, with their union, and where the set is the whole tile whether they unite or not, the
tile then being in lockstep again. The merged group holds the set's slots and waits for nothing; the groups outside the set stay. It goes
on at the JOIN of the member that holds slot C; where no member that has not halted holds slot C, at that of the lowest member that has
not, which is the model's choice (notes/assumptions/92.md). A set that is not the whole tile and whose partitions do not unite raises
BUNDLE. -/
def Sys2Proof.Claims.JoinMergesItsSet : Prop :=
  ∀ (s : State) (t g : Nat) (mask id : BitVec 8),
    let x := s.tile t
    let set := mask ||| (1 <<< g)
    let ms := x.groups.filter fun h => set.getLsbD h.num
    let part := unionPart (ms.filterMap (·.part))
    let whole := ∀ h ∈ x.groups, set.getLsbD h.num = true
    (x.group g).joinOf = some (mask, id) → x.stat = .running → x.joinReady set id = true →
    (part ≠ none ∨ whole → ∀ lead,
      ((ms.find? fun h => h.hasSlot 0 && !h.halted) = some lead ∨
        (ms.find? fun h => h.hasSlot 0 && !h.halted) = none ∧ (ms.find? fun h => !h.halted) = some lead) →
      let y := x.joinMerge ms lead part
      Gives (.joinComplete t g) s (((s.setTile t y).updTile t fun y => y.stopWaiting g).finish t) ∧
      (∀ h, h ∈ x.groups → set.getLsbD h.num = false → h ∈ y.groups) ∧
      ∃ m ∈ y.groups, m.waits = [] ∧ m.halted = false ∧ m.goto = none ∧ m.baddr = lead.baddr ∧ m.blen = lead.blen ∧
        (∀ k < 8, m.slots.getLsbD k = ms.any fun h => h.slots.getLsbD k) ∧
        (m.slots = 0xFF → y.lockstep = true ∧ m.num = 0 ∧ m.part = none ∧ m.forkDepth = 0) ∧
        (m.slots ≠ 0xFF → y.lockstep = false ∧ m.part = part ∧ (∀ h ∈ ms, m.num ≤ h.num) ∧ m.forkDepth = lead.forkDepth)) ∧
    (part = none → (∃ h ∈ x.groups, set.getLsbD h.num = false) →
      Gives (.joinComplete t g) s
        (((s.raiseIn t ⟨.bundle, x.clk, none, false, g, 0, 0, 0, (x.group g).baddr, 0, none, none, .none⟩).updTile t fun y =>
          y.stopWaiting g).finish t))

/-- R169, R287: JOIN, and the completion of its set. -/
def Obligations.JoinResults : Prop := JoinArrives ∧ JoinMergesItsSet

/-- R170, R287: HALT stops its group for good, and the instance's program ends when every group has halted; EXIT ends the
program of a lockstep tile, and raises BUNDLE in a forked one. Beside a syllable of its bundle that still waits (R265) each waits for it. -/
def Sys2Proof.Claims.HaltAndExitResults : Prop :=
  ∀ (s : State) (q : BitVec 2), s.qualified q = true →
    (s.grp.waits ≠ [] → Gives (.halt q) s (s.wait .again (.halt q)) ∧ Gives (.exit q) s (s.wait .again (.exit q))) ∧
    (s.grp.waits = [] →
    (∃ t, Gives (.halt q) s t ∧
      t.here.groups = s.here.groups.map (fun g => if g.num = s.cur.group then { g with halted := true } else g) ∧
      (t.here.groups.all (·.halted) = true → t.here.stat = .ending) ∧
      (t.here.groups.all (·.halted) = false → t.here.stat = s.here.stat)) ∧
    (s.here.lockstep = true → Gives (.exit q) s (s.updHere fun x => { x with stat := .ending })) ∧
    (s.here.lockstep = false → Gives (.exit q) s (s.raise .bundle)))

/-- R288: SETC and CLRC write their bit with latency 1; SETC also leaves a record of what other groups still see (R150), or
keeps that of an earlier SETC which they do not see yet; WAITC waits. In each cycle after, a wait whose bit holds C XOR NEG ends,
and no other does. -/
def Obligations.ConditionBitResults : Prop :=
  ∀ (s : State) (q : BitVec 2) (c : BitVec 5) (neg : Bool),
    let x := s.here
    let unseen := x.cs.getLsbD c.toNat = true ∧ ∃ r ∈ x.setcs, r.c = c ∧ x.clk < r.vis.getD (x.clk + 1)
    (Acts s q [.c c] →
      Gives (.clrc q c) s (s.result (.c c) 0 1) ∧
      (unseen → Gives (.setc q c) s ((s.updHere fun x => { x with setcs := x.setcs }).result (.c c) 1 1)) ∧
      (¬unseen → ∃ r : SetcRec, r.c = c ∧ r.grp = s.cur.group ∧ r.old = x.cs.getLsbD c.toNat ∧
        (x.setcWaits s.cur.group x.pseq = true → r.vis = none) ∧ (x.setcWaits s.cur.group x.pseq = false → r.vis = some (x.clk + 1)) ∧
        Gives (.setc q c) s
          ((s.updHere fun x => { x with setcs := x.setcs.filter (fun r => r.c != c) ++ [r] }).result (.c c) 1 1))) ∧
    (s.qualified q = true → Gives (.waitc q c neg) s (s.wait (.waitc c neg) (.waitc q c neg))) ∧
    (∀ w : WaitRec, w.w = .waitc c neg →
      (xor (s.readC c) neg = true → s.tryWait w = s.waitDone w) ∧ (xor (s.readC c) neg = false → s.tryWait w = s))

/-- R289: TRAP freezes the tile with the restartable cause TRAP and its CODE; ERET outside a handler raises ILLEGAL;
PREEMPTPT stops its group if a pre-emption is pending, and does nothing if none is. -/
def Sys2Proof.Claims.TrapAndPreemptPointResults : Prop :=
  ∀ (s : State) (q : BitVec 2) (code : BitVec 16), s.qualified q = true →
    Gives (.trap q code) s (s.raiseSyl .trap 0 code.toNat none) ∧ causeClass .trap = 2 ∧
    (s.here.outer = none → Gives (.eret q) s (s.raise .illegal)) ∧
    (s.here.preSig.isSome = true → Gives (.preemptpt q) s (s.updGrp fun g => { g with ppStop := true })) ∧
    (s.here.preSig = none → Gives (.preemptpt q) s s)

/-- R170, R287, R289: HALT, EXIT, TRAP, ERET outside a handler, PREEMPTPT. -/
def Obligations.EndTrapAndPreemptPointResults : Prop := HaltAndExitResults ∧ TrapAndPreemptPointResults

/-- R375: ERET in a handler restores the interrupted groups, sequencers, frame and lockstep, leaves the handler, sends every group to
its frame address at b = the cycle of the ERET bundle + 1 + GAP (the group of the cause to HRET where that is set), and
re-delivers each latch to land d cycles after b; a group that waits at an instruction still waits at it, that of HRET too. In a handler that
has forked ERET raises BUNDLE. -/
def Sys2Proof.Claims.ReturnFromHandler : Prop :=
  ∀ (s : State) (q : BitVec 2) (o : Outer), s.qualified q = true → s.here.outer = some o → s.here.lockstep = true →
    let x := s.here
    let b := x.clk + 1 + s.cur.gap
    let hret := mget 0 x.frame 0x106
    ∃ t, Gives (.eret q) s t ∧
      t.here.stat = .running ∧ t.here.inHandler = false ∧ t.here.lockstep = o.lockstep ∧ t.here.raised = none ∧ t.here.outer = none ∧
      t.here.groups.map (·.num) = o.groups.map (·.num) ∧ t.here.groups.map (·.slots) = o.groups.map (·.slots) ∧
      t.here.groups.map (·.part) = o.groups.map (·.part) ∧ (∀ g ∈ t.here.groups, g.nextIssue = b) ∧
      (hret = 0 → t.here.seqs = o.seqs) ∧ (hret ≠ 0 → ∀ g ∈ t.here.groups,
        g.num = (mget 0 o.frame 0x100).toNat / 2 ^ 10 % 8 → g.goto = some ((hret >>> 2) <<< 2)) ∧
      t.here.groups.map (fun g => g.waits.map (·.i)) = o.groups.map (fun g => g.waits.map (·.i)) ∧
      (∀ l ∈ o.latches, { l.p with due := b + l.d, born := 0, latch := true } ∈ t.here.pend) ∧
      t.here.xs = x.xs ∧ t.here.cs = x.cs ∧ t.here.stg = x.stg ∧ t.here.spad = x.spad ∧ (∀ k, k ≠ s.cur.tile → t.tile k = s.tile k)

/-- R289, R375: ERET in a handler that has forked raises BUNDLE. -/
def Sys2Proof.Claims.ForkedHandlerReturn : Prop :=
  ∀ (s : State) (q : BitVec 2) (o : Outer), s.qualified q = true → s.here.outer = some o → s.here.lockstep = false →
    Gives (.eret q) s (s.raise .bundle)

/-- R290 to R292, R372: CSRR writes, with latency 2, the value that its CSR holds at the end of its cycle, when the result in
flight takes it; CSRW puts the source in flight to the CSR, which takes it two cycles later; HRET outside a handler raises
ILLEGAL and writes nothing. SPRET reads without the banks whose exit has begun (R112). -/
def Sys2Proof.Claims.CsrReadAndWriteResults : Prop :=
  ∀ (s : State) (q : BitVec 2) (x : BitVec 7) (n : BitVec 12),
    (Acts s q [.x x] → Gives (.csrr q x n) s (s.resultAs (.x x) (s.here.csr n.toNat s.cur.group) 2 false (some n.toNat))) ∧
    (∀ (y : Tile) (p : Pend) (k : Nat), p ∈ y.pend → p.csr = some k → p.grp ≠ 255 →
      { p with val := y.csr k p.grp, csr := none } ∈ y.readCsrs.pend) ∧
    (Acts s q [.csr n.toNat] →
      ((n ≠ 0x106 ∨ s.here.inHandler = true) → Gives (.csrw q x n) s (s.result (.csr n.toNat) (s.readX x) 2)) ∧
      (n = 0x106 → s.here.inHandler = false → Gives (.csrw q x n) s (s.raise .illegal))) ∧
    s.here.csr 0x001 s.cur.group = (mget 0 s.here.asp 0).zeroExtend 64 ∧ s.here.csr 0x004 s.cur.group = (mget 0 s.here.asp 3).zeroExtend 64 ∧
    s.here.csr 0x018 s.cur.group = s.here.grank ∧ s.here.csr 0x020 s.cur.group = s.here.tags ∧
    s.here.csr 0x028 s.cur.group = s.here.cycle ∧ s.here.csr 0x030 s.cur.group = s.here.spretNow.zeroExtend 64 ∧
    (∀ b < 32, s.here.spretNow.getLsbD b =
      (s.here.spret.getLsbD b && !s.here.ret.any fun p => p.1 == b && (match p.2 with
        | .leaving till => decide (till ≤ s.here.clk + 1536)
        | _ => false))) ∧
    s.here.csr 0x031 s.cur.group = s.here.srstate.zeroExtend 64 ∧ s.here.csr 0x033 s.cur.group = s.here.fmode.zeroExtend 64 ∧
    (∀ k < 0x80, s.here.csr (0x100 + k) s.cur.group = mget 0 s.here.frame (0x100 + k))

/-- R293, R111, R112: when a write to SRSTATE takes effect the generator has the value, a written 0 storing 1; a write to
SPRET starts the entry of each bank whose bit, as it reads, changes from 0 to 1, to end 1,024 cycles later (after the exit
that is in progress, if one is), and the exit of each whose bit changes from 1 to 0, to end 1,536 cycles later (after the
entry that is in progress, if one is); a bank whose bit does not change stays as it is. -/
def Sys2Proof.Claims.SpecialCsrWritesTakeEffect : Prop :=
  ∀ (s : State) (t : Nat),
    (∀ p, (s.tile t).duePend 0x31 = some p →
      Gives (.srstateWrite t) s
        (s.setTile t { s.tile t with srstate := if p.val.toNat % 2 ^ 32 = 0 then 1 else p.val.truncate 32, pend := (s.tile t).pend.erase p })) ∧
    (∀ p, (s.tile t).duePend 0x30 = some p → ∃ y, Gives (.spretWrite t) s (s.setTile t y) ∧
      { y with spret := (s.tile t).spret, ret := (s.tile t).ret, pend := (s.tile t).pend } = s.tile t ∧
      y.pend = (s.tile t).pend.erase p ∧
      ∀ b < 32,
        ((s.tile t).spretNow.getLsbD b = p.val.getLsbD b → mget .active y.ret b = mget .active (s.tile t).ret b ∧
          y.spret.getLsbD b = (s.tile t).spret.getLsbD b) ∧
        ((s.tile t).spretNow.getLsbD b = false → p.val.getLsbD b = true → y.spret.getLsbD b = true ∧
          (∀ till, mget .active (s.tile t).ret b = .leaving till → mget .active y.ret b = .entering (till + 1024)) ∧
          ((∀ till, mget .active (s.tile t).ret b ≠ .leaving till) → mget .active y.ret b = .entering ((s.tile t).clk + 1024))) ∧
        ((s.tile t).spretNow.getLsbD b = true → p.val.getLsbD b = false →
          (mget .active (s.tile t).ret b = .retained →
            mget .active y.ret b = .leaving ((s.tile t).clk + 1536) ∧ y.spret.getLsbD b = false) ∧
          (∀ till, mget .active (s.tile t).ret b = .entering till → mget .active y.ret b = .leaving (till + 1536))))

/-- R290, R291, R372: a CSR write that lands (RESULT_LAND or LATCH_DELIVERY) gives its CSR the value, a field of fewer than 64 bits
its low ones, and changes no other register: ASP0 to ASP3, VMODE, FMODE and HRET. -/
def Sys2Proof.Claims.CsrWritesLand : Prop :=
  ∀ (s : State) (t : Nat) (p : Pend) (n : Nat), (s.tile t).dueTimed = some p → p.dest = .csr n →
    let x := s.tile t
    let y := x.landPend p
    (p.latch = false → Gives (.resultLand t) s (s.setTile t y)) ∧ (p.latch = true → Gives (.latchDelivery t) s (s.setTile t y)) ∧
    (1 ≤ n ∧ n ≤ 4 → mget 0 y.asp (n - 1) = p.val.truncate 16 ∧ ∀ k, k ≠ n - 1 → mget 0 y.asp k = mget 0 x.asp k) ∧
    (n = 0x32 → y.vmode = p.val.getLsbD 0) ∧ (n = 0x33 → y.fmode = p.val.truncate 2) ∧
    (n = 0x106 → mget 0 y.frame 0x106 = p.val ∧ ∀ k, k ≠ 0x106 → mget 0 y.frame k = mget 0 x.frame k) ∧
    (¬(1 ≤ n ∧ n ≤ 4) → y.asp = x.asp) ∧ (n ≠ 0x32 → y.vmode = x.vmode) ∧ (n ≠ 0x33 → y.fmode = x.fmode) ∧
    (n ≠ 0x106 → y.frame = x.frame) ∧ y.xs = x.xs ∧ y.cs = x.cs ∧ y.stg = x.stg ∧ y.spad = x.spad ∧ y.srstate = x.srstate ∧
    y.spret = x.spret ∧ y.tags = x.tags

/-- R290 to R293: CSR reads and writes. -/
def Obligations.ControlRegisterResults : Prop := CsrReadAndWriteResults ∧ CsrWritesLand ∧ SpecialCsrWritesTakeEffect

/-- R294, R164: what each selector of GETID gives, with latency 1. -/
def Sys2Proof.Claims.IdentityResults : Prop :=
  ∀ (s : State) (q : BitVec 2) (d : BitVec 7) (sel : BitVec 6), Acts s q [.x d] →
    let n := sel.toNat
    let x := s.here
    let sq := x.seq s.cur.slot
    ∃ v, Gives (.getid q d sel) s (s.result (.x d) v 1) ∧
      (n < 8 → x.lvGroup ≠ some n → v = mget 0 x.lvid n) ∧
      (n < 8 → x.lvGroup = some n → v = if x.lockstep then 0 else BitVec.ofNat 64 s.cur.group) ∧
      (n = 8 → v = x.grank) ∧ (n = 9 → v = BitVec.ofNat 64 (s.cur.tile / 128)) ∧
      (n = 10 → v = BitVec.ofNat 64 (s.cur.tile / 4 % 32)) ∧ (n = 11 → v = BitVec.ofNat 64 (s.cur.tile % 4)) ∧
      (n = 12 → v = BitVec.ofNat 64 s.cur.group) ∧ (n = 13 → v = BitVec.ofNat 64 x.groups.length) ∧
      (∀ k < 6, n = 16 + k → ∀ l, sq.loops[k]? = some l → v = l.i.zeroExtend 64) ∧
      (∀ k < 6, n = 16 + k → sq.loops[k]? = none → v = 0) ∧ (n = 22 → v = BitVec.ofNat 64 sq.loops.length)

/-- R177, R295: one request of a range unit that the context holds: the next start, and of the rem items left the size
min(rem, max(MINCHUNK, ceil(rem ÷ (2 × PARTIES)))), which the unit's next start passes; with none left the size is 0 and
the start END. A unit that the context does not hold raises ENGINE. RGET is an acquire and a release at PACKAGE scope. -/
def Sys2Proof.Claims.RangeRequestResult : Prop :=
  ∀ (s : State) (q : BitVec 2) (d a : BitVec 7), Acts s q [.x d, .x (d + 1)] →
    let n := (s.readX a).toNat % 1024
    let u := mget RangeUnit.reset s.units n
    let rem := (u.fin - u.next).toNat
    let size := BitVec.ofNat 64 (min rem (max u.minChunk ((rem + 2 * u.parties - 1) / (2 * u.parties))))
    (u.ctx = some s.here.ctx →
      Gives (.rget q d a) s
        ((((({ s with units := mput s.units n { u with next := u.next + size } } : State).acquireAt s.cur.tile 3 (.unit n)).releaseTo
          (.tile s.cur.tile) s.cur.tile 3 (.unit n)).result (.x d) u.next 1).result (.x (d + 1)) size 1)) ∧
    (u.ctx = some s.here.ctx → u.next = u.fin → u.request.1 = u.fin ∧ u.request.2.1 = 0) ∧
    (u.ctx ≠ some s.here.ctx → Gives (.rget q d a) s (s.raise .engine))

/-- R294, R295: GETID and RGET. -/
def Sys2Proof.Claims.IdentityAndRangeResults : Prop := IdentityResults ∧ RangeRequestResult

/-- R290 and the rules that the parts name: HASHB, the staging instructions, GETID and the requests to range units. -/
def Obligations.HashStagingIdentityAndRangeResults : Prop := HashAndStagingResults ∧ IdentityAndRangeResults

/-! ## Slot L -/

namespace Sys2Proof.Claims
open Sys2Proof.Machine

/-- The little-endian number of n scratchpad bytes from a on, which wrap at 1 MiB (R309). -/
def spadNum (s : State) (t a n : Nat) : Nat := leNat ((List.range n).map fun k => s.byte (.spad t) ((a + k) % 2 ^ 20))

/-- A loaded number of n bytes, zero- or sign-extended (R310). -/
def loaded (sx : Bool) (n v : Nat) : Word := if sx then (BitVec.ofNat (8 * n) v).signExtend 64 else BitVec.ofNat 64 v

/-- What a scratchpad load of n bytes at a does: poison raises POISON at a; else the number goes in flight to `x`[d] with
latency 6, as an acquire where AQ is set, which from then on holds the group's memory syllables until it has returned
(R142). -/
def Loads (i : Instr) (s : State) (d : BitVec 7) (a n : Nat) (sx aq : Bool) : Prop :=
  let u := s.touchBanks a n
  let k := min n (2 ^ 20 - a)
  let bad := u.poisoned (.spad s.cur.tile) a k || u.poisoned (.spad s.cur.tile) 0 (n - k)
  (bad = false → Gives i s (((u.acquire aq (.spad s.cur.tile a (a + n))).loadResult (.x d) (loaded sx n (spadNum u s.cur.tile a n)) 6).acqGate aq)) ∧
  (bad = true → Gives i s ((u.consumed (.spad s.cur.tile) a s.here.ctx).raiseAt .poison a))

/-- A write of slot L that need not wait has the effect f, which ends in what the write orders: as a release at the bundle's SCOPE
where it is one (its RL bit, or a scratchpad store that leaves FULL = 1, R139), else after the tile's release fences (R143). One that
must wait (R142, R143) is kept in its place, while its group goes on. What an order makes visible to the host is the model's
(notes/assumptions/84.md). -/
def Writes (i : Instr) (s : State) (rl' : Bool) (op : MemOp) (f : (State → State) → Prop) : Prop :=
  let rl := s.releases rl' op
  (s.defers rl = false → f fun v => v.ordered s.cur.tile rl s.cur.scope op) ∧
  (s.defers rl = true → Gives i s (s.updHere fun x =>
    { x with mems := x.mems ++ [⟨op, s.cur.group, s.cur.scope, rl, x.pseq, s.cur.slot, s.cur.addr⟩], pseq := x.pseq + 1 }))

/-- What a scratchpad store of the low n bytes of v at a does, a release where rl is set. -/
def Stores (i : Instr) (s : State) (v : Word) (a n : Nat) (rl : Bool) : Prop :=
  Writes i s rl (.st a n v) fun ord =>
    Gives i s (ord ((s.touchBanks a n).spadWrite s.cur.tile a ((leBytes n v.toNat).map fun b => (b, false))))

end Sys2Proof.Claims

/-- R309, R310: the scratchpad loads at `x`[XA] + SIMM6 × size, or + sext64(IMM) in a long form, modulo 2^20. -/
def Sys2Proof.Claims.ScratchpadLoadResults : Prop :=
  ∀ (s : State) (q : BitVec 2) (d a : BitVec 7) (sx aq : Bool) (off : BitVec 6) (imm : BitVec 32), Acts s q [.x d] →
    let A := s.readX a
    let short (n : Nat) : Nat := (A + off.signExtend 64 * BitVec.ofNat 64 n).toNat % 2 ^ 20
    let long : Nat := (A + imm.signExtend 64).toNat % 2 ^ 20
    Loads (.ldB q d a sx aq off) s d (short 1) 1 sx aq ∧ Loads (.ldBLong q d a sx aq imm) s d long 1 sx aq ∧
    Loads (.ldH q d a sx aq off) s d (short 2) 2 sx aq ∧ Loads (.ldHLong q d a sx aq imm) s d long 2 sx aq ∧
    Loads (.ldW q d a sx aq off) s d (short 4) 4 sx aq ∧ Loads (.ldWLong q d a sx aq imm) s d long 4 sx aq ∧
    Loads (.ldD q d a aq off) s d (short 8) 8 false aq ∧ Loads (.ldDLong q d a aq imm) s d long 8 false aq

/-- R309, R310, R313, R142: the scratchpad stores, with the addresses of the loads; FLAGSET, a release, stores its value with
bit 63 set at a multiple of 8 and raises ALIGN elsewhere. A write with nothing before it that it must wait for is performed
in its step. -/
def Sys2Proof.Claims.ScratchpadStoreResults : Prop :=
  ∀ (s : State) (q : BitVec 2) (x a : BitVec 7) (rl : Bool) (off : BitVec 6) (imm : BitVec 32), s.qualified q = true →
    let A := s.readX a
    let V := s.readX x
    let short (n : Nat) : Nat := (A + off.signExtend 64 * BitVec.ofNat 64 n).toNat % 2 ^ 20
    let long : Nat := (A + imm.signExtend 64).toNat % 2 ^ 20
    Stores (.stB q x a rl off) s V (short 1) 1 rl ∧ Stores (.stBLong q x a rl imm) s V long 1 rl ∧
    Stores (.stH q x a rl off) s V (short 2) 2 rl ∧ Stores (.stHLong q x a rl imm) s V long 2 rl ∧
    Stores (.stW q x a rl off) s V (short 4) 4 rl ∧ Stores (.stWLong q x a rl imm) s V long 4 rl ∧
    Stores (.stD q x a rl off) s V (short 8) 8 rl ∧ Stores (.stDLong q x a rl imm) s V long 8 rl ∧
    (A.toNat % 2 ^ 20 % 8 = 0 → Stores (.flagset q a x) s (V ||| 0x8000000000000000) (A.toNat % 2 ^ 20) 8 true) ∧
    (A.toNat % 2 ^ 20 % 8 ≠ 0 → Gives (.flagset q a x) s (s.raiseAt .align (A.toNat % 2 ^ 20))) ∧
    (s.here.mems = [] → ∀ r, (r = true → s.here.relPending s.cur.group s.here.pseq s.cur.scope = false) → s.defers r = false)

/-- R309, R310, R313: scratchpad loads and stores, and FLAGSET. -/
def Obligations.ScratchpadLoadAndStoreResults : Prop := ScratchpadLoadResults ∧ ScratchpadStoreResults

/-- R309, R107, R10, with the frame of a scratchpad store: after a store of n bytes at a (n at most 8) into granules
without poison that no bound stream owns (R71), byte j of the value stands at a + j modulo 2^20, every other byte of every
location reads as before, and of the tile nothing else changes but its waiting WAITFs (R125), its granules' poison and its
undefined ranges; of the machine nothing but the record of the orders that it ends (R139). -/
def Obligations.ScratchpadStoreBytesAndFrame : Prop :=
  ∀ (s : State) (t a n : Nat) (v : Word), n ≤ 8 → a < 2 ^ 20 → Memory.wf (s.tile t).spad = true → (s.tile t).spadBad = [] → (s.tile t).qs = [] →
    let u := s.spadWrite t a ((leBytes n v.toNat).map fun b => (b, false))
    (∀ j < n, u.byte (.spad t) ((a + j) % 2 ^ 20) = BitVec.ofNat 8 (v.toNat / 256 ^ j)) ∧
    (∀ l b, (∀ j < n, ¬(l = .spad t ∧ b = (a + j) % 2 ^ 20)) → u.byte l b = s.byte l b) ∧
    (∀ k, k ≠ t → u.tile k = s.tile k) ∧
    { u.tile t with spad := (s.tile t).spad, spadUndef := (s.tile t).spadUndef, groups := (s.tile t).groups } = s.tile t ∧
    { u with tiles := s.tiles, clusters := s.clusters, unseen := s.unseen } = s

/-- R50, R311, R115: LDC and STC at ASP[SPC] with offset `x`[XA] (+ sext64(IMM)). A load whose lines all translate RESIDENT
is an interlocked result (R264) of the bytes read through the L1, with the poison that it consumes recorded (R109); a store whose pages are
not read-duplicated writes them through, and the L1 lines it finds, and drops those of other addresses of the bytes (R135); one that meets a read-duplicated page attaches to the page's collapse (R56); a failing
translation raises its cause of R50 at the failing address. A store leaves every byte outside the segments that it writes as it was. -/
def Obligations.CachedLoadAndStoreResults : Prop :=
  ∀ (s : State) (q : BitVec 2) (d a : BitVec 7) (sz spc : BitVec 2) (sx aq rl : Bool) (imm : BitVec 32),
    let t := s.cur.tile
    let n := 2 ^ sz.toNat
    let asp := mget 0 s.here.asp spc.toNat
    let lines (o : Word) : List Piece := linePieces 3 asp.toNat o.toNat n
    let ld (i : Instr) (o : Word) : Prop :=
      let z := if aq then s.l1Clear t s.cur.scope else s
      let word := WordAt.va (asp.toNat * 2 ^ 64 + o.toNat) (asp.toNat * 2 ^ 64 + o.toNat + n)
      (∀ u gs, z.translateAll s.here.ctx (some t) (t / 128) .r false (lines o) = (u, .ok gs) →
        let r := u.l1ReadAll t gs
        let w := (gs.filter fun g => r.1.poisoned g.l g.a g.len).foldl (fun w g => w.consumed g.l g.a w.here.ctx) r.1
        Gives i s (((w.acquire aq word).ilkResult (.x d) (extend sx n (leNat (r.2.map Prod.fst))) (r.2.any Prod.snd)
          (asp.toNat * 2 ^ 64 + o.toNat)).acqGate aq)) ∧
      (∀ u tr va, z.translateAll s.here.ctx (some t) (t / 128) .r false (lines o) = (u, .error (tr, va)) →
        Gives i s (u.raiseAt ((tr.fatal true).getD .access) va))
    let st (i : Instr) (o : Word) : Prop := Writes i s rl (.stc ⟨asp, o⟩ sz (s.readX d)) fun ord =>
      (∀ u gs, s.translateAll s.here.ctx (some t) (t / 128) .w (s.tileExt t) (lines o) = (u, .ok gs) →
        (∀ g ∈ gs, pteRepl g.e = false ∧ u.collapseOf s.here.ctx g.va = none) →
        let v := ord (((u.writeSegs s.here.ctx (u.byTile t) gs ((leBytes n (s.readX d).toNat).map fun b => (b, false))).l1Alias t gs).updTile t
          fun x => x.l1PatchAll (lines o) (leBytes n (s.readX d).toNat))
        Gives i s v ∧ ∀ l b, (∀ g ∈ gs, ¬(g.l = l ∧ g.a ≤ b ∧ b < g.a + g.len)) → v.byte l b = s.byte l b) ∧
      (∀ u gs g, s.translateAll s.here.ctx (some t) (t / 128) .w (s.tileExt t) (lines o) = (u, .ok gs) →
        u.collapsing s.here.ctx gs = some g →
        Gives i s (u.stallWrite s.here.ctx g.va g.e ⟨t, s.cur.group, asp.toNat * 2 ^ 64 + o.toNat, leBytes n (s.readX d).toNat⟩)) ∧
      (∀ u tr va, s.translateAll s.here.ctx (some t) (t / 128) .w (s.tileExt t) (lines o) = (u, .error (tr, va)) →
        Gives i s (u.raiseAt ((tr.fatal true).getD .access) va))
    (Acts s q [.x d] → ld (.ldc q d a sz sx aq spc) (s.readX a) ∧
      ld (.ldcLong q d a sz sx aq spc imm) (s.readX a + imm.signExtend 64)) ∧
    (s.qualified q = true → st (.stc q d a sz rl spc) (s.readX a) ∧
      st (.stcLong q d a sz rl spc imm) (s.readX a + imm.signExtend 64))

/-- R146, R312: an aligned AMO on a resident location without poison: `x`[XD] takes the old contents (an interlocked result),
and the location the new contents that OP gives of the old contents, `x`[XD] and, for the compare-and-swap, `x`[XD + 1],
unless a failing compare-and-swap leaves it. On host memory an operation other than add, swap and compare-and-swap raises
ENGINE; poison raises POISON; a misaligned AMO raises ALIGN. Outside its location every byte stays (where no collapse of a page comes
first). -/
def Sys2Proof.Claims.AtomicResults : Prop :=
  ∀ (s : State) (q : BitVec 2) (xdp : BitVec 6) (a : BitVec 7) (op : BitVec 4) (sz aq rl : Bool) (spc : BitVec 2),
    let xd : BitVec 7 := BitVec.ofNat 7 (2 * xdp.toNat)
    let n := if sz then 64 else 32
    let va : VA := ⟨mget 0 s.here.asp spc.toNat, s.readX a⟩
    let v := (s.readX xd).toNat % 2 ^ n
    let e := (s.readX (xd + 1)).toNat % 2 ^ n
    Acts s q [.x xd] →
    ((s.readX a).toNat % (n / 8) ≠ 0 → Gives (.amo q xdp a op sz aq rl spc) s (s.raiseAt .align va.toNat)) ∧
    ((s.readX a).toNat % (n / 8) = 0 → Writes (.amo q xdp a op sz aq rl spc) s rl (.amo xd va op.toNat n v e aq) fun ord =>
      (∀ u tr f, s.vaWriteSegs s.here.ctx (some s.cur.tile) (s.cur.tile / 128) [⟨va.toNat, n / 8⟩] .rw (s.tileExt s.cur.tile) =
          (u, .error (tr, f)) →
        Gives (.amo q xdp a op sz aq rl spc) s (u.raiseAt ((tr.fatal true).getD .access) f)) ∧
      ∀ u g, s.vaWriteSegs s.here.ctx (some s.cur.tile) (s.cur.tile / 128) [⟨va.toNat, n / 8⟩] .rw (s.tileExt s.cur.tile) = (u, .ok [g]) →
        let w := u.countSeg s.here.ctx g
        let allowed := g.l = .host → op.toNat = 0 ∨ op.toNat = 6 ∨ op.toNat = 7
        (¬allowed → Gives (.amo q xdp a op sz aq rl spc) s (w.raise .engine)) ∧
        (allowed → w.poisoned g.l g.a (n / 8) = true →
          Gives (.amo q xdp a op sz aq rl spc) s ((w.consumed g.l g.a s.here.ctx).raiseAt .poison va.toNat)) ∧
        (allowed → w.poisoned g.l g.a (n / 8) = false →
          let old := w.num g.l g.a (n / 8)
          let got (m : State) : State := ((m.l1Alias s.cur.tile [g]).updTile s.cur.tile fun x => x.l1Drop va.toNat (n / 8)).acquire aq
            (.va va.toNat (va.toNat + n / 8))
          let m := match amoNew op.toNat n old v e with
            | some z => ord (got ((w.write g.l g.a (leBytes (n / 8) z) s.here.ctx).unseenAdd s.here.ctx (w.byTile s.cur.tile) g))
            | none => got w
          let z := (m.ilkResult (.x xd) (BitVec.ofNat 64 old) false 0).acqGate aq
          Gives (.amo q xdp a op sz aq rl spc) s z ∧
          ((∀ u0 gs, s.translateAll s.here.ctx (some s.cur.tile) (s.cur.tile / 128) .rw (s.tileExt s.cur.tile) [⟨va.toNat, n / 8⟩] = (u0, .ok gs) →
              u0.collapsing s.here.ctx gs = none) →
            ∀ l b, ¬(l = g.l ∧ g.a ≤ b ∧ b < g.a + n / 8) → z.byte l b = s.byte l b)))

/-- R312: the new contents that each AMO operation gives for n-bit contents: add, and, or, xor, signed minimum and maximum,
swap, compare-and-swap, and the floating sum rounded to nearest even. -/
def Sys2Proof.Claims.AtomicOperations : Prop :=
  ∀ (n old v e : Nat), old < 2 ^ n → v < 2 ^ n → (n = 32 ∨ n = 64) →
    let O := BitVec.ofNat n old
    let V := BitVec.ofNat n v
    amoNew 0 n old v e = some (O + V).toNat ∧ amoNew 1 n old v e = some (O &&& V).toNat ∧
    amoNew 2 n old v e = some (O ||| V).toNat ∧ amoNew 3 n old v e = some (O ^^^ V).toNat ∧
    amoNew 4 n old v e = some (if O.toInt < V.toInt then O else V).toNat ∧
    amoNew 5 n old v e = some (if O.toInt < V.toInt then V else O).toNat ∧ amoNew 6 n old v e = some v ∧
    amoNew 7 n old v e = (if old = e then some v else none) ∧
    amoNew 8 n old v e =
      some (let f := if n = 32 then fp32 else fp64; f.round .rne false 0 ((f.val old).add .rne (f.val v)))

/-- R312: AMO. -/
def Obligations.AtomicMemoryResults : Prop := AtomicResults ∧ AtomicOperations

/-- R125, R313: WAITF waits; its first test comes after the writes of its cycle: on a full word it completes with VALUE as an acquire, and
an empty one parks its group; FLAGTEST takes the word and its FULL bit with latency 6; both raise ALIGN on an offset that is no multiple of
8 and POISON on a poisoned word. -/
def Sys2Proof.Claims.FlagWordResults : Prop :=
  ∀ (s : State) (q : BitVec 2) (d a : BitVec 7) (c : BitVec 5) (aq : Bool),
    let off := (s.readX a).toNat % 2 ^ 20
    let l : Loc := .spad s.cur.tile
    let u := s.touchBanks off 8
    let v := u.num l off 8
    let bad := (u.consumed l off s.here.ctx).raiseAt .poison off
    (Acts s q [.x d] →
      (off % 8 ≠ 0 → Gives (.waitf q d a) s (s.raiseAt .align off)) ∧
      (off % 8 = 0 → Gives (.waitf q d a) s (u.wait (.waitf d off false none) (.waitf q d a)))) ∧
    (∀ w : WaitRec, w.w = .waitf d off false none →
      let v := s.num l off 8
      (s.poisoned l off 8 = true → s.tryWait w = (s.consumed l off s.here.ctx).raiseAt .poison off) ∧
      (s.poisoned l off 8 = false → v / 2 ^ 63 % 2 = 1 →
        s.tryWait w = ((s.updGrp fun g => { g with waits := g.waits.erase w }).acquireAt s.cur.tile s.cur.scope
          (.spad s.cur.tile off (off + 8))).putHere (.x d)
          (BitVec.ofNat 64 (v % 2 ^ 63))) ∧
      (s.poisoned l off 8 = false → v / 2 ^ 63 % 2 = 0 →
        s.tryWait w = s.updGrp fun g => { g with waits := g.waits.map fun r => if r = w then { r with w := .waitf d off true none } else r })) ∧
    (Acts s q [.x d, .c c] →
      (off % 8 ≠ 0 → Gives (.flagtest q d a c aq) s (s.raiseAt .align off)) ∧
      (off % 8 = 0 → u.poisoned l off 8 = true → Gives (.flagtest q d a c aq) s bad) ∧
      (off % 8 = 0 → u.poisoned l off 8 = false →
        Gives (.flagtest q d a c aq) s
          ((((u.acquire aq (.spad s.cur.tile off (off + 8))).loadResult (.x d) (BitVec.ofNat 64 v) 6).loadResult (.c c) (if v / 2 ^ 63 % 2 = 1 then 1 else 0) 6).acqGate
            aq)))

/-- R314, R315, R143, R144: PROBE of length 0 does nothing, of a range past the top of its space raises ALIGN, of any other
waits; PREF never faults, and what it does is the same for every length from 64 KiB up; a FENCE acts at the bundle's SCOPE, tot at
PACKAGE scope or wider: when what its kind orders before it is done it has its effect (acq and full acquire, rel and full release, tot does
both and takes the next place in the hub's order), and else it is kept and holds back, from now on, what its kind orders after it. What
a fence orders for the host is the model's (notes/assumptions/84.md). -/
def Sys2Proof.Claims.ProbePrefetchFenceResults : Prop :=
  ∀ (s : State) (q : BitVec 2) (a b : BitVec 7) (f : Bool) (spc : BitVec 2), s.qualified q = true →
    let va : VA := ⟨mget 0 s.here.asp spc.toNat, s.readX a⟩
    let len := s.readX b
    (len = 0 → Gives (.probe q a b f spc) s s) ∧
    (len ≠ 0 → 2 ^ 64 < va.off.toNat + len.toNat → Gives (.probe q a b f spc) s (s.raiseAt .align va.toNat)) ∧
    (len ≠ 0 → va.off.toNat + len.toNat ≤ 2 ^ 64 →
      Gives (.probe q a b f spc) s (s.wait (.probe va len f) (.probe q a b f spc))) ∧
    (∃ t, Gives (.pref q a b f spc) s t ∧ t.here.raised = s.here.raised ∧ t.here.stat = s.here.stat ∧ t.here.pend = s.here.pend ∧
      t.phys = s.phys ∧ t.here.xs = s.here.xs ∧ (len = 0 → t = s) ∧
      (65536 ≤ len.toNat → ∀ c, 65536 ≤ (s.readX c).toNat → Gives (.pref q a c f spc) s t)) ∧
    (let at' (i : Instr) (op : MemOp) (n : Nat) (f : State) : Prop :=
      let w : MemWait := ⟨op, s.cur.group, n, false, s.here.pseq, s.cur.slot, s.cur.addr⟩
      (s.here.memDone w = true → Gives i s f) ∧
      (s.here.memDone w = false → Gives i s (s.updHere fun x => { x with mems := x.mems ++ [w], pseq := x.pseq + 1 }))
     let t := s.cur.tile
     let n := s.cur.scope
     let k := max 3 n
     at' (.fence q 0) .acq n (s.acquireFence t n) ∧ at' (.fence q 1) .rel n (s.tileRelease t n) ∧
     at' (.fence q 2) .full n ((s.acquireFence t n).tileRelease t n) ∧
     at' (.fence q 3) .tot k { ((s.acquireFence t k).tileRelease t k).hubOrder t with fenceTot := s.fenceTot + 1 })

/-- R313 to R315: flag words, PROBE, PREF, FENCE. -/
def Obligations.FlagProbePrefetchFenceResults : Prop := FlagWordResults ∧ ProbePrefetchFenceResults

/-! ## Slot D and the engines -/

namespace Sys2Proof.Claims
open Sys2Proof.Machine

/-- The step's syllable `i` taken into the queue of engine e: the command carries the staging registers and `x` values read
now, the group's next push number, and the place in the tile's issue order; the group's push number advances. A command with
ACQ, a CPYR or a QPUSH comes after what has happened for its tile (R124, R147, R327). -/
def Pushed (s : State) (e : Eng) (i : Instr) (xs : List Word) (asp : BitVec 16) : State :=
  let c : Cmd := ⟨i, s.readStgs e, xs, asp, s.grp.pushSeq, s.cur.group, s.cur.scope, s.here.pseq, s.here.vmode⟩
  let u := if seesOf i then s.cmdSees s.cur.tile s.here.pseq else s
  (u.updHere fun x => { x.setQueue e { x.queue e with q := (x.queue e).q ++ [c] } with pseq := x.pseq + 1 }).updGrp fun g =>
    { g with pushSeq := g.pushSeq + 1 }

/-- Room in the queue of an engine (R261). -/
def Room (s : State) (e : Eng) : Prop := (s.here.queue e).q.length < 16

/-- A slot-D command is pushed, and counts on its tag where it has one with room for one more (R121, R322). -/
def PushesD (i : Instr) (s : State) (xs : List Word) (spc : BitVec 2) (tag : Option Nat) : Prop :=
  let u := Pushed s .D i xs (mget 0 s.here.asp spc.toNat)
  (tag = none → Gives i s u) ∧
  (∀ k, tag = some k → mget 0 s.here.tcnt k < 255 →
    Gives i s (u.updHere fun x =>
      { x with tcnt := mput x.tcnt k (mget 0 x.tcnt k + 1), tags := x.tags &&& ~~~((1 : Word) <<< k) }))

end Sys2Proof.Claims

/-- R176, R261, R317, R320 to R324, R326, R327, R329: each command of slot D, with room in the D queue, takes its place
there; the copies, IDXLD and SEND count on the tag they name (TAGV), BIND on the tag of `D.0`, and the tag's bit clears. -/
def Sys2Proof.Claims.SlotDCommandsArePushed : Prop :=
  ∀ (s : State) (q spc : BitVec 2) (acq rel v lin : Bool) (tag : BitVec 6) (m : BitVec 4) (n : BitVec 5) (k : BitVec 15) (a b : BitVec 7),
    s.qualified q = true → Room s .D →
    let T := if v then some tag.toNat else none
    let d0 := (s.readStg 2 0).toNat
    PushesD (.cpyin q acq rel v tag lin spc) s [] spc T ∧ PushesD (.cpyout q acq rel v tag lin spc) s [] spc T ∧
    PushesD (.cpyss q acq rel v tag) s [] 0 T ∧ PushesD (.cpyr q acq v tag) s [] 0 T ∧
    PushesD (.mcast q acq rel v tag lin spc m) s [] spc T ∧ PushesD (.idxld q acq rel v tag spc) s [] spc T ∧
    PushesD (.send q acq v tag) s [] 0 T ∧
    PushesD (.bind q acq rel n) s [] 0 (if d0 / 2 ^ 38 % 2 = 1 then some (d0 / 2 ^ 32 % 64) else none) ∧
    PushesD (.unbind q acq rel n) s [] 0 none ∧ PushesD (.sadv q acq rel n k) s [] 0 none ∧
    PushesD (.tagclr q a) s [s.readX a] 0 none ∧ PushesD (.qpush q acq a b) s [s.readX a, s.readX b] 0 none

/-- R176, R261, R331, R340, R344 to R350, R358, R366: each command of the chain, dot and accumulator engines takes its place
in its engine's queue, if there is room; an accumulator command carries its ACCP word. -/
def Sys2Proof.Claims.EngineCommandsArePushed : Prop :=
  ∀ (s : State) (q : BitVec 2) (acq rel p sr : Bool) (x y z : BitVec 5) (f : BitVec 3) (bank : BitVec 4) (xp : BitVec 7),
    s.qualified q = true →
    let A := mget 0 s.here.asp 0
    let V (i : Instr) : Prop := Gives i s (Pushed s .V i [] A)
    let K (i : Instr) : Prop := Gives i s (Pushed s .K i [] A)
    let P (i : Instr) : Prop := Gives i s (Pushed s .A i [s.readX xp] A)
    (Room s .V →
      V (.chain q acq rel x y z p sr) ∧ V (.vred q acq rel x y p f) ∧ V (.vgath q acq rel x y p) ∧ V (.vscat q acq rel x y p f) ∧
      V (.vcvt q acq rel x y p sr) ∧ V (.vqnt q acq rel x y sr) ∧ V (.vfill q acq rel x p f) ∧ V (.vtrn q acq rel x y p)) ∧
    (Room s .K →
      K (.dotk q acq rel x y z) ∧ K (.dotv q acq rel x y z) ∧ K (.dots q acq rel x y z) ∧ K (.dotx q acq rel x y z)) ∧
    (Room s .A →
      P (.azero q acq rel bank xp) ∧ P (.ard q acq rel bank x xp sr) ∧ P (.awr q acq rel bank x xp) ∧ P (.aadd q acq rel bank x xp) ∧
      P (.amaxr q acq rel bank x xp) ∧ P (.ascl q acq rel bank x xp))

/-- R176, R261: the commands of the engines as they issue. -/
def Obligations.CommandsArePushed : Prop := SlotDCommandsArePushed ∧ EngineCommandsArePushed

/-- R175, R261, R351, R352: LEASE asks for the cluster's array and waits until it is held; RELS takes its place in the M queue;
so do MMA, MMAB and MZ of a tile that holds the lease or waits for it; of any other they raise LEASE. -/
def Sys2Proof.Claims.LeaseAndArrayCommandResults : Prop :=
  ∀ (s : State) (q : BitVec 2) (acq rel ld : Bool) (x y : BitVec 5) (bank : BitVec 4), s.qualified q = true →
    let c := s.cluster (s.cur.tile / 4)
    let i := s.cur.tile % 4
    let A := mget 0 s.here.asp 0
    let ok := (c.held = true ∧ c.holder = i) ∨ c.req.getLsbD i = true
    (c.held = true → c.holder = i → Gives (.lease q) s (s.updCluster (s.cur.tile / 4) fun c => c)) ∧
    (c.held = false → Gives (.lease q) s (s.updCluster (s.cur.tile / 4) fun c => c.grant i)) ∧
    (c.held = true → c.holder ≠ i → ∃ t, Gives (.lease q) s t ∧ (t.cluster (s.cur.tile / 4)).req = c.req ||| (1 <<< i) ∧
      t.grp.waits.map (·.w) = s.grp.waits.map (·.w) ++ (if s.here.groups.any (·.num == s.cur.group) then [.lease] else [])) ∧
    (Room s .M → Gives (.rels q) s (Pushed s .M (.rels q) [] A)) ∧
    (ok → Room s .M →
      Gives (.mma q acq rel x y bank) s (Pushed s .M (.mma q acq rel x y bank) [] A) ∧
      Gives (.mmab q acq rel x y bank ld) s (Pushed s .M (.mmab q acq rel x y bank ld) [] A) ∧
      Gives (.mz q acq rel bank) s (Pushed s .M (.mz q acq rel bank) [] A)) ∧
    (¬ok → Gives (.mma q acq rel x y bank) s (s.raise .lease) ∧ Gives (.mmab q acq rel x y bank ld) s (s.raise .lease) ∧
      Gives (.mz q acq rel bank) s (s.raise .lease))

/-- R175: the end of a spent lease period: the next waiting tile in round-robin order is granted a period of 64 commands and
8,192 cycles, the former holder waiting; with none waiting, the holder has a new period. -/
def Sys2Proof.Claims.LeasePeriodEnds : Prop :=
  ∀ (s : State) (k : Nat), let c := s.cluster k
    c.held = true → (c.cmdLeft = 0 ∨ c.cycLeft = 0) → c.holder < 4 → c.req.getLsbD c.holder = false →
    ∃ t, Gives (.leasePeriodEnd k) s t ∧ (∀ j, j ≠ k → t.cluster j = s.cluster j) ∧ { t with clusters := s.clusters } = s ∧
      (t.cluster k).held = true ∧ (t.cluster k).cmdLeft = 64 ∧ (t.cluster k).cycLeft = 8192 ∧
      (c.req = 0 → (t.cluster k).holder = c.holder ∧ (t.cluster k).req = 0) ∧
      (c.req ≠ 0 → ∃ d, 1 ≤ d ∧ d ≤ 3 ∧ (t.cluster k).holder = (c.holder + d) % 4 ∧ c.req.getLsbD ((c.holder + d) % 4) = true ∧
        (∀ e, 1 ≤ e → e < d → c.req.getLsbD ((c.holder + e) % 4) = false) ∧
        (t.cluster k).req.getLsbD c.holder = true ∧ (t.cluster k).req.getLsbD ((c.holder + d) % 4) = false)

/-- R175, R351, R352: the lease and the commands of the array. That MMA, MMAB and MZ without it raise LEASE as they issue is the
model's choice (notes/assumptions/62.md). -/
def Obligations.LeaseResults : Prop := LeaseAndArrayCommandResults ∧ LeasePeriodEnds

/-- R325: WAITTA and WAITTL complete at once where their tags hold (any of the mask, all of it; an empty mask holds) and wait
elsewhere; FFRT gives the lowest set tag of its mask, 64 if none, and with CLR clears that tag's bit where nothing is
pending on it. What has been written when a tag was set has then happened for the tile (R148). -/
def Sys2Proof.Claims.TagInstructionResults : Prop :=
  ∀ (s : State) (q : BitVec 2) (d a : BitVec 7) (clr : Bool),
    let M := s.readX a
    let T := s.here.tags
    (s.qualified q = true →
      (M = 0 ∨ T &&& M ≠ 0 → Gives (.waitta q a) s (s.tagsSeen s.cur.tile (T &&& M))) ∧
      (M ≠ 0 → T &&& M = 0 → Gives (.waitta q a) s (s.wait (.tags M false) (.waitta q a))) ∧
      (T &&& M = M → Gives (.waittl q a) s (s.tagsSeen s.cur.tile (T &&& M))) ∧
      (T &&& M ≠ M → Gives (.waittl q a) s (s.wait (.tags M true) (.waittl q a)))) ∧
    (Acts s q [.x d] →
      (T &&& M = 0 → Gives (.ffrt q d a clr) s ((s.tagsSeen s.cur.tile 0).result (.x d) 64 2)) ∧
      (∀ k < 64, (T &&& M).getLsbD k = true → (∀ j < k, (T &&& M).getLsbD j = false) →
        ∃ t, Gives (.ffrt q d a clr) s t ∧ { t with tiles := s.tiles } = s.tagsSeen s.cur.tile ((1 : Word) <<< k) ∧ t.here.pend = (s.result (.x d) (BitVec.ofNat 64 k) 2).here.pend ∧
          t.here.tags = (if clr = true ∧ mget 0 s.here.tcnt k = 0 then T &&& ~~~((1 : Word) <<< k) else T)))

/-- R327, R329: QPOP of a queue that its context holds, to an offset that its entry's size divides, waits, and raises
ENGINE otherwise; RECV with parameters in order on a stream of a port open for its context waits, and raises ENGINE
otherwise. -/
def Sys2Proof.Claims.QueuePopAndReceiveResults : Prop :=
  ∀ (s : State) (q : BitVec 2) (a b : BitVec 7), s.qualified q = true →
    let qid := (s.readX a).toNat % 2 ^ 32
    let off := (s.readX b).toNat % 2 ^ 20
    let p := s.linkArgs s.here.ctx (s.readStg 2 12) (s.readStg 2 14) (s.readStg 2 15)
    (∀ r, mget? s.queues qid = some r → (∃ g ∈ r.regs, g.1 = s.here.ctx) → off % (8 * 2 ^ r.esize) = 0 → off + 8 * 2 ^ r.esize ≤ 2 ^ 20 →
      Gives (.qpop q a b) s (s.wait (.qpop (BitVec.ofNat 32 qid) off) (.qpop q a b))) ∧
    ((∀ r, mget? s.queues qid = some r → (∀ g ∈ r.regs, g.1 ≠ s.here.ctx) ∨ off % (8 * 2 ^ r.esize) ≠ 0) →
      Gives (.qpop q a b) s (s.raise .engine)) ∧
    (p.ok = true → Gives (.recv q) s (s.wait (.recv p.port p.strm p.off p.len) (.recv q))) ∧
    (p.ok = false → Gives (.recv q) s (s.raise .engine)) ∧
    (p.ok = true → p.len ≠ 0 ∧ p.off + p.len ≤ 2 ^ 20 ∧ p.port < 18)

/-- R325, R327, R329: the syllables of slot D that act as they issue. -/
def Obligations.TagAndWaitingSlotDResults : Prop := TagInstructionResults ∧ QueuePopAndReceiveResults

/-- R176, R328: DSIG writes its own push number with latency 1 and takes its place in its slot's queue; DWAIT for an engine
whose slot its group holds, and a number 1 to 32,767 before its own, takes its place with that number; an engine of
another group raises BUNDLE, and a number that is not before it FWDWAIT. -/
def Sys2Proof.Claims.QueueSignalResults : Prop :=
  ∀ (s : State) (q : BitVec 2) (d : BitVec 7) (e : BitVec 3) (k : BitVec 15),
    let E := slotEng s.cur.slot
    let A := mget 0 s.here.asp 0
    let num := s.grp.pushSeq
    (Acts s q [.x d] → Room s E →
      Gives (.dsig q d) s (Pushed (s.result (.x d) (num.zeroExtend 64) 1) E (.dsig q d) [] A)) ∧
    (s.qualified q = true →
      let wait (i : Instr) (n : BitVec 16) : Prop :=
        (s.grp.slots.getLsbD (e.toNat + 3) = false → Gives i s (s.raise .bundle)) ∧
        (s.grp.slots.getLsbD (e.toNat + 3) = true → ((num - n).toNat = 0 ∨ 32767 < (num - n).toNat) → Gives i s (s.raise .fwdwait)) ∧
        (s.grp.slots.getLsbD (e.toNat + 3) = true → 0 < (num - n).toNat → (num - n).toNat ≤ 32767 → Room s E →
          Gives i s (Pushed s E i [n.zeroExtend 64] A))
      wait (.dwaitDist q e k) (num - k.zeroExtend 16) ∧ wait (.dwaitReg q e d) ((s.readX d).truncate 16))

/-- R117, R175, R332, R357: the head of an engine's queue that may start (its streams, fields, bank and lease allow it) starts,
owning its streams, and counts against the lease period where it uses the array; one that must not raises its cause and
names the command's number; one that waits leaves the machine as it is. -/
def Sys2Proof.Claims.EngineCommandStarts : Prop :=
  ∀ (s : State) (t : Nat) (e : Eng) (c : Cmd), (s.tile t).engHead e = some c → ((s.tile t).queue e).run = false →
    (s.startOf t e c = .go →
      ∃ u, Gives (.engineStart t e) s u ∧ ((u.tile t).queue e).run = true ∧ ((u.tile t).queue e).q = ((s.tile t).queue e).q ∧
        (arrayCmd c.i = true → (u.cluster (t / 4)).cmdLeft = (s.cluster (t / 4)).cmdLeft - 1) ∧
        (arrayCmd c.i = false → u.clusters = s.clusters) ∧ (∀ k, k ≠ t → u.tile k = s.tile k) ∧ (u.tile t).spad = (s.tile t).spad ∧
        (u.tile t).acc = (s.tile t).acc) ∧
    (∀ k fq, s.startOf t e c = .bad k fq →
      Gives (.engineStart t e) s (s.raiseEng t e false c.grp c.num.toNat k 0 fq)) ∧
    (s.startOf t e c = .wait → Gives (.engineStart t e) s s)

/-- R333, R147: a running command completes with its whole effect, which the program of its instruction makes, and leaves its
queue; where the program meets a cause, the tile takes it for the command instead; where an access of it stalls (R56, R112),
the command has no effect yet. A QPUSH whose queue is full waits (R179). That the whole effect comes in one step, and none of it before,
is the model's choice (notes/assumptions/7.md), and so is the retry of a command whose access met a bank in retention
(notes/assumptions/82.md). -/
def Sys2Proof.Claims.EngineCommandCompletes : Prop :=
  ∀ (s : State) (t : Nat) (e : Eng) (c : Cmd), (s.tile t).engHead e = some c → ((s.tile t).queue e).run = true →
    (s.pushFull c = true → Gives (.engineComplete t e) s s) ∧
    (s.pushFull c = false →
      (∀ u, (cmdRun t e c).run.run s = (.ok (), u) →
        Gives (.engineComplete t e) s ((if isCopy c.i then u else u.cmdReleases t c (u.tile t).task).updTile t fun x => x.cmdDone e c)) ∧
      (∀ f w u, (cmdRun t e c).run.run s = (.error f, u) → f.stall = some w → Gives (.engineComplete t e) s (s.endStall t w)) ∧
      (∀ f u, (cmdRun t e c).run.run s = (.error f, u) → f.stall = none →
        ∃ v, Gives (.engineComplete t e) s v ∧
          ((u.raiseEng t e f.tw c.grp c.num.toNat f.cause f.fva f.fq).killed t = false →
            v = u.raiseEng t e f.tw c.grp c.num.toNat f.cause f.fva f.fq)))

/-- R332, R333: commands at their engine. -/
def Obligations.EngineCommandsStartAndComplete : Prop := EngineCommandStarts ∧ EngineCommandCompletes

/-- What a program that clears elements of an accumulator bank does: each of their bytes is 0, and nothing else changes. -/
def Sys2Proof.Claims.ClearsBank (m : EngM Unit) (t bank : Nat) (cells : List (Nat × Nat)) : Prop :=
  ∀ s : State, (s.tile t).accBad = [] → Memory.wf (s.tile t).acc = true →
    let at' (p : Nat × Nat) : Nat := bank * 0x4000 + (p.1 * 64 + p.2) * 4
    ∃ u, m.run.run s = (.ok (), u) ∧ (∀ p ∈ cells, ∀ j < 4, u.byte (.acc t) (at' p + j) = 0) ∧
      (∀ l b, (∀ p ∈ cells, ¬(l = .acc t ∧ at' p ≤ b ∧ b < at' p + 4)) → u.byte l b = s.byte l b) ∧
      { u with tiles := s.tiles } = s ∧ (∀ k, k ≠ t → u.tile k = s.tile k) ∧
      { u.tile t with acc := (s.tile t).acc, accUndef := (s.tile t).accUndef } = s.tile t

/-- From s to u the elements that a stream gives in order stand in an accumulator bank's elements, in order, in the bank's format (R365). -/
def Sys2Proof.Claims.PopsIntoBank (t bank : Nat) (a : AccArgs) (q : BitVec 5) : List (Nat × Nat) → State → State → Prop
  | [], s, u => u = s
  | p :: ps, s, u => ∃ e v, (popVal t q a.sfmt).run.run s = (.ok e, v) ∧
    PopsIntoBank t bank a q ps (v.write (.acc t) (bank * 0x4000 + (p.1 * 64 + p.2) * 4) (leBytes 4 (accIn a e)) (v.tile t).ctx) u

/-- The bank that a command of the array or of the accumulator port names. -/
def Sys2Proof.Claims.bankNamed (i : Instr) : Option Nat :=
  match i with
  | .mma _ _ _ _ _ b | .mz _ _ _ b | .mmab _ _ _ _ _ b _ | .azero _ _ _ b _ | .ard _ _ _ b _ _ _ | .awr _ _ _ b _ _ | .aadd _ _ _ b _ _
  | .amaxr _ _ _ b _ _ | .ascl _ _ _ b _ _ => some b.toNat
  | _ => none

/-- R326, R352, R356, R364 to R366: what AZERO, MZ, AWR and TAGCLR write, and the frame of the accumulators: no command of any engine
writes an accumulator but those that name its bank, and those of its own tile; the chain and dot engines and the queue of slot D none at all. -/
def Sys2Proof.Claims.AccumulatorAndTagWrites : Prop :=
  (∀ (t bank : Nat) (a : AccArgs), a.row0 + a.rows ≤ 64 → a.col0 + a.cols ≤ 64 →
    ClearsBank (azeroM t bank a) t bank ((List.range a.rows).flatMap fun r => (List.range a.cols).map fun c => (a.row0 + r, a.col0 + c))) ∧
  (∀ (t bank : Nat) (a : MmaArgs), a.row0 + 16 * a.mb ≤ 64 → a.col0 + 16 * a.nb ≤ 64 →
    ClearsBank (mzM t a bank) t bank
      ((List.range (16 * a.mb)).flatMap fun r => (List.range (16 * a.nb)).map fun c => (a.row0 + r, a.col0 + c))) ∧
  (∀ (s u : State) (t bank : Nat) (a : AccArgs) (q : BitVec 5),
    (awrM t bank a q).run.run s = (.ok (), u) ↔
      PopsIntoBank t bank a q ((List.range a.rows).flatMap fun r => (List.range a.cols).map fun c => (a.row0 + r, a.col0 + c)) s u) ∧
  (∀ (a : AccArgs) (e : Elem),
    (a.fmt = 0 → accIn a e = e.code) ∧
    (a.fmt ≠ 0 → a.itype = true → ∀ w, fmtInt a.fmt = some w → accIn a e = (intOf w e.code % 2 ^ 32).toNat) ∧
    (a.fmt ≠ 0 → a.itype = false → accIn a e = fp32.round (rmode a.rm) false 0 ((e.val a.fmt).scale a.sexp))) ∧
  (∀ (s : State) (t o v asid : Nat), (s.tile t).accBad = [] → Memory.wf (s.tile t).acc = true →
    (s.write (.acc t) o (leBytes 4 v) asid).num (.acc t) o 4 = v % 2 ^ 32) ∧
  (∀ (x : Tile) (m k : Nat), k < 64 →
    (x.tagClearMask m).tags.getLsbD k = (x.tags.getLsbD k && !(nbit m k && mget 0 x.tcnt k == 0)) ∧
    { x.tagClearMask m with tags := x.tags } = x) ∧
  (∀ (s u : State) (t : Nat) (e : Eng) (c : Cmd) (r : Except EngErr Unit), (cmdRun t e c).run.run s = (r, u) →
    (e = .D ∨ e = .V ∨ e = .K → ∀ k b, u.byte (.acc k) b = s.byte (.acc k) b) ∧
    (e = .M ∨ e = .A → (∀ k b, k ≠ t → u.byte (.acc k) b = s.byte (.acc k) b) ∧
      (bankNamed c.i = none → ∀ b, u.byte (.acc t) b = s.byte (.acc t) b) ∧
      ∀ k, bankNamed c.i = some k → (e = .M → (mmaArgs c.stg).ok = true) → (e = .A → (accArgs c.xv).ok = true) →
        ∀ b, ¬(k * 0x4000 ≤ b ∧ b < (k + 1) * 0x4000) → u.byte (.acc t) b = s.byte (.acc t) b))

namespace Sys2Proof.Claims
open Sys2Proof.Machine

/-- A program that gives v, taking s to u. -/
def Does {α : Type} (m : EngM α) (s : State) (v : α) (u : State) : Prop := m.run.run s = (.ok v, u)

/-- n turns in order: each takes the state that the turns before it have left. -/
def Turns (R : Nat → State → State → Prop) : Nat → State → State → Prop
  | 0, s, u => u = s
  | n + 1, s, u => ∃ v, Turns R n s v ∧ R n v u

/-- One turn for each item of a list, in order. -/
def Each {α : Type} (R : State → α → State → Prop) : List α → State → State → Prop
  | [], s, u => u = s
  | a :: l, s, u => ∃ v, R s a v ∧ Each R l v u

/-- An element popped where it is used, as the bits that f makes of it; else none is popped. -/
def TakesIf (use : Bool) (t : Nat) (q : BitVec 5) (f : Elem → Nat) (s : State) (w : Nat) (u : State) : Prop :=
  if use then ∃ e, Does (popElem t q) s e u ∧ w = f e else u = s ∧ w = 0

/-- R211: one draw of the tile's generator where the rounding is stochastic, none else. -/
def Draws (t : Nat) (sr : Bool) (s : State) (d : Nat) (u : State) : Prop :=
  let n := srNext (s.tile t).srstate
  if sr then (u = s.updTile t fun x => { x with srstate := n }) ∧ d = n.toNat else u = s ∧ d = 0

/-- R219: runs added in order, each sum rounded to FP32 RNE. -/
def runSum (run : Nat → Val) : Nat → Val
  | 0 => run 0
  | g + 1 => fp32.toVal .rne false 0 ((runSum run g).add .rne (run (g + 1)))

/-- R218: the elements i, i + L, … of lane l, folded in order. -/
def laneOf (L : Nat) (op : Nat → Nat → Nat) (xs : List Nat) (l : Nat) : Option Nat :=
  match (xs.zipIdx.filter fun p => p.2 % L == l).map Prod.fst with
  | [] => none
  | x :: r => some (r.foldl op x)

/-- R218: the tree over 2^k lanes. -/
def laneTree (op : Nat → Nat → Nat) : Nat → (Nat → Option Nat) → Option Nat
  | 0, p => p 0
  | k + 1, p => laneTree op k fun l => match p l, p (l + 2 ^ k) with
    | a, none => a
    | none, b => b
    | some a, some b => some (op a b)

end Sys2Proof.Claims

/-- R341, R342: w and T after each operation of a float CT, exact and then rounded once to CT in RM, with RNE where the table says so;
`one` is 1.0. A NaN of T counts as an accumulator's in MADT (notes/assumptions/108.md); EXP2 and LOG2 are the model's series
(notes/assumptions/69.md). -/
def Sys2Proof.Claims.FloatChainOperations : Prop :=
  ∀ (ct : Nat) (rm : RMode) (ftz : Bool) (w y T : Nat), ct ≠ 2 →
    let F := ctFmt ct
    let sign := 2 ^ (F.width - 1)
    let A := F.val w
    let B := F.val y
    let D := F.val T
    let op (c : Nat) : Nat × Nat := chainOp ct rm ftz c w y T
    let r (v : Val) : Nat × Nat := (F.round rm ftz 0 v, T)
    let e (v : Val) : Nat × Nat := (F.round .rne ftz 0 v, T)
    let R (v : Val) : Val := F.toVal .rne ftz 0 v
    let one : Nat := F.round .rne false 0 (.ofInt 1)
    let exp (v : Val) : Val := R (R (v.mul (chainConst F constL2E))).exp2
    let sigmoid (v : Val) : Val := R (R ((Val.ofInt 1).add .rne (exp v.negate))).rcp
    let tanh (v : Val) : Val := R (((Val.ofInt 2).mul (sigmoid (R ((Val.ofInt 2).mul v)))).add .rne (.ofInt (-1)))
    op 0x00 = (w, T) ∧ op 0x01 = r (A.add rm B) ∧ op 0x02 = r (A.add rm B.negate) ∧ (A.isNaN = false → op 0x03 = r (B.add rm A.negate)) ∧
    op 0x04 = r (A.mul B) ∧ op 0x05 = r (A.div B) ∧ op 0x06 = r (A.minmax false B) ∧ op 0x07 = r (A.minmax true B) ∧
    op 0x08 = r (A.fma rm B D) ∧ op 0x0F = (if A.cmp B = some .eq then one else 0, T) ∧
    op 0x10 = (if A.cmp B = some .lt then one else 0, T) ∧ op 0x11 = (if A.cmp B = some .lt ∨ A.cmp B = some .eq then one else 0, T) ∧
    op 0x12 = (if A.isZero then T else y, T) ∧ op 0x15 = (y, T) ∧ op 0x20 = (w, w) ∧ op 0x21 = (T, w) ∧ op 0x22 = r (A.add rm D) ∧
    op 0x23 = r (A.mul D) ∧ op 0x24 = (Nat.xor w sign, T) ∧ op 0x25 = (w % sign, T) ∧ op 0x26 = r (A.mul A) ∧
    op 0x27 = r (A.minmax true (.zero false)) ∧ op 0x28 = e A.rcp ∧ op 0x29 = e A.rsqrt ∧ op 0x2A = r A.sqrt ∧ op 0x2B = e A.exp2 ∧
    op 0x2C = e A.log2 ∧ op 0x2D = e (exp A) ∧ op 0x2E = e (R ((R A.log2).mul (chainConst F constLN2))) ∧
    op 0x2F = e (sigmoid A) ∧ op 0x30 = e (tanh A) ∧ op 0x31 = e (R (A.mul (sigmoid A))) ∧
    (let u := R ((chainConst F constG2).mul (R ((R (A.mul A)).mul A)))
     op 0x32 = e (R ((R ((Val.fin false 1 (-1) false).mul A)).mul
       (R ((Val.ofInt 1).add .rne (tanh (R ((chainConst F constG1).mul (R (A.add .rne u)))))))))) ∧
    op 0x33 = r (A.integral .rd) ∧ op 0x34 = r (A.integral .ru) ∧ op 0x35 = r (A.integral .rne)

/-- R341 of INT32: arithmetic wraps, shifts use y[4:0], comparisons are signed. -/
def Sys2Proof.Claims.IntegerChainOperations : Prop :=
  ∀ (rm : RMode) (ftz : Bool) (w y T : Nat), w < 2 ^ 32 → y < 2 ^ 32 → T < 2 ^ 32 →
    let a : BitVec 32 := BitVec.ofNat 32 w
    let b : BitVec 32 := BitVec.ofNat 32 y
    let d : BitVec 32 := BitVec.ofNat 32 T
    let op (c : Nat) : Nat × Nat := chainOp 2 rm ftz c w y T
    let r (v : BitVec 32) : Nat × Nat := (v.toNat, T)
    let sat (i : Int) : BitVec 32 := BitVec.ofInt 32 (max (-2 ^ 31) (min (2 ^ 31 - 1) i))
    op 0x00 = r a ∧ op 0x01 = r (a + b) ∧ op 0x02 = r (a - b) ∧ op 0x03 = r (b - a) ∧ op 0x04 = r (a * b) ∧
    op 0x06 = r (if a.slt b then a else b) ∧ op 0x07 = r (if a.slt b then b else a) ∧ op 0x08 = r (a * b + d) ∧ op 0x09 = r (a &&& b) ∧
    op 0x0A = r (a ||| b) ∧ op 0x0B = r (a ^^^ b) ∧ op 0x0C = r (a <<< (y % 32)) ∧ op 0x0D = r (a >>> (y % 32)) ∧
    op 0x0E = r (a.sshiftRight (y % 32)) ∧ op 0x0F = r (if a = b then 1 else 0) ∧ op 0x10 = r (if a.slt b then 1 else 0) ∧
    op 0x11 = r (if a.sle b then 1 else 0) ∧ op 0x12 = r (if a = 0 then d else b) ∧ op 0x13 = r (sat (a.toInt + b.toInt)) ∧
    op 0x14 = r (sat (a.toInt - b.toInt)) ∧ op 0x15 = r b ∧ op 0x20 = (w, w) ∧ op 0x21 = (T, w) ∧ op 0x22 = r (a + d) ∧
    op 0x23 = r (a * d) ∧ op 0x24 = r (-a) ∧ op 0x25 = r (if a.slt 0 then -a else a) ∧ op 0x26 = r (a * a) ∧
    op 0x27 = r (if a.slt 0 then 0 else a) ∧ op 0x36 = r (~~~a)

/-- R339, R340: into CT, the op bytes in order on w and T, out of CT; and CHAIN's elements: one of QA, one of QB and of QC where an op names
it, a draw where SR is 1, and the result pushed. -/
def Sys2Proof.Claims.ChainElements : Prop :=
  (∀ (ct : Nat) (rm : RMode) (ftz : Bool) (f : Nat) (e : Elem),
    (ct = 2 → ∀ w, fmtInt f = some w → chainIn ct rm ftz f e = (intOf w e.code % 2 ^ 32).toNat) ∧
    (ct ≠ 2 → fmtFloat f ≠ some (ctFmt ct) → chainIn ct rm ftz f e = (ctFmt ct).round rm ftz 0 (e.chainVal ftz f)) ∧
    (ct ≠ 2 → fmtFloat f = some (ctFmt ct) → ((ctFmt ct).val e.code).isNaN = true → chainIn ct rm ftz f e = e.code) ∧
    (ct ≠ 2 → fmtFloat f = some (ctFmt ct) → ((ctFmt ct).val e.code).isNaN = false → ftz = false →
      chainIn ct rm ftz f e = (ctFmt ct).round .rne false 0 ((ctFmt ct).val e.code)) ∧
    (ftz = false → e.chainVal ftz f = e.val f)) ∧
  (∀ (ct : Nat) (m : RMode) (ftz : Bool) (d f w : Nat),
    (ct ≠ 2 → ∀ g, fmtFloat f = some g → chainOut ct m ftz d f w = g.round m ftz d ((ctFmt ct).val w)) ∧
    (ct = 2 → ∀ i, fmtInt f = some i → chainOut ct m ftz d f w = (max (intLo i) (min (intHi i) (sgn 32 w)) % 2 ^ i.1).toNat)) ∧
  (∀ (ct : Nat) (rm : RMode) (ftz : Bool) (ys : List Nat) (b : Nat) (bs : List Nat) (r : Nat × Nat),
    chainOps ct rm ftz ys [] r = r ∧
    chainOps ct rm ftz ys (b :: bs) r = chainOps ct rm ftz ys bs (chainOp ct rm ftz (b % 64) r.1 (nth 0 ys (b / 64)) r.2)) ∧
  (∀ (t : Nat) (a : ChainArgs) (qo qa qb : BitVec 5) (sr : Bool) (s u : State),
    let f (q : BitVec 5) : Nat := (s.tile t).streamFmt q
    let into (q : BitVec 5) (e : Elem) : Nat := chainIn a.ct (rmode a.rm) a.ftz (f q) e
    Does (chainM t a qo qa qb sr) s () u ↔
      Turns (fun _ s u => ∃ w s1 b s2 c s3 d s4, TakesIf true t qa (into qa) s w s1 ∧
        TakesIf (a.opList.any fun o => opNames o 0) t qb (into qb) s1 b s2 ∧ TakesIf (a.opList.any fun o => opNames o 1) t a.qc (into a.qc) s2 c s3 ∧
        Draws t sr s3 d s4 ∧
        let r := chainOps a.ct (rmode a.rm) a.ftz [b, c, scalarIn a.ct a.ftz a.s0, scalarIn a.ct a.ftz a.s1] a.opList (w, 0)
        Does (pushElem t qo (chainOut a.ct (if sr then .sr else rmode a.rm) a.ftz d (f qo) r.1) []) s4 () u) a.n s u)

/-- R218, R344 to R350: what the other chain commands take and push, element by element. -/
def Sys2Proof.Claims.ChainCommandElements : Prop :=
  (∀ (ct : Nat) (op : Nat → Nat → Nat) (xs : List Nat), let k := if ct = 1 then 4 else 6
    vreduce ct op xs = (laneTree op k (laneOf (2 ^ k) op xs)).getD 0) ∧
  (∀ (a : ChainArgs) (ftz : Bool) (fo : Nat) (xs : List Nat),
    let is := xs.map (sgn 32)
    let op (c w y : Nat) : Nat := (chainOp a.ct (rmode a.rm) ftz c w y 0).1
    let out (v : Nat) : Nat := chainOut a.ct (rmode a.rm) ftz 0 fo v
    (a.ct ≠ 2 →
      vredRun a 0 ftz fo xs = out (vreduce a.ct (op 0x01) xs) ∧ vredRun a 1 ftz fo xs = out (vreduce a.ct (op 0x07) xs) ∧
      vredRun a 2 ftz fo xs = out (vreduce a.ct (op 0x06) xs) ∧
      vredRun a 3 ftz fo xs = out (vreduce a.ct (op 0x01) (xs.map fun x => op 0x26 x 0)) ∧
      ((∀ x ∈ xs, ((ctFmt a.ct).val x).isNaN = false) →
        vredRun a 4 ftz fo xs = out (vreduce a.ct (op 0x07) (xs.map fun x => op 0x25 x 0)))) ∧
    (a.ct = 2 → ∀ w, fmtInt fo = some w → let sat (i : Int) : Nat := (max (intLo w) (min (intHi w) i) % 2 ^ w.1).toNat
      vredRun a 0 ftz fo xs = sat is.sum ∧ vredRun a 3 ftz fo xs = sat (is.map fun i => i * i).sum ∧
      (∀ i ∈ is, (∀ j ∈ is, j ≤ i) → vredRun a 1 ftz fo xs = sat i) ∧ (∀ i ∈ is, (∀ j ∈ is, i ≤ j) → vredRun a 2 ftz fo xs = sat i) ∧
      (∀ i ∈ is, (∀ j ∈ is, j.natAbs ≤ i.natAbs) → vredRun a 4 ftz fo xs = sat i.natAbs))) ∧
  (∀ (t : Nat) (a : ChainArgs) (qo qa qb : BitVec 5) (sr : Bool) (f : Nat) (s u : State),
    let fmt (q : BitVec 5) : Nat := (s.tile t).streamFmt q
    let m : RMode := if sr then .sr else rmode a.rm
    -- VRED: a run of N elements, one result
    (Does (vredM t a qo qa f) s () u ↔
      Turns (fun _ s u => ∃ xs v, Does (popN t qa a.n) s xs v ∧
        Does (pushElem t qo (vredRun a f a.ftz (fmt qo) (xs.map (chainIn a.ct (rmode a.rm) a.ftz (fmt qa)))) []) v () u) a.nrun s u) ∧
    -- VGATH: an index below TLEN, the element of the table at it
    (Does (vgathM t a qo qb) s () u ↔
      Turns (fun _ s u => ∃ e v c w, Does (popElem t qb) s e v ∧ e.code < a.tlen ∧
        Does (tableRead t a (ebits (fmt qo)) e.code) v c w ∧ Does (pushElem t qo c []) w () u) a.n s u) ∧
    -- VSCAT: a value, an index below TLEN, the table's position written
    (Does (vscatM t a qa qb f) s () u ↔
      Turns (fun _ s u => ∃ x v e w old z, Does (popElem t qa) s x v ∧ Does (popElem t qb) v e w ∧ e.code < a.tlen ∧
        (if f = 0 then z = w ∧ old = 0 else Does (tableRead t a (ebits (fmt qa)) e.code) w old z) ∧
        Does (copyPutElem [t] (a.tbase * 8 + e.code * ebits (fmt qa)) (ebits (fmt qa))
          (scatNew (fmt qa) f (rmode a.rm) a.ftz old x.code) false) z () u) a.n s u) ∧
    -- VCVT: an element, a draw, its conversion
    (Does (vcvtM t a qo qa sr) s () u ↔
      Turns (fun _ s u => ∃ e v d w, Does (popVal t qa (fmt qa)) s e v ∧ Draws t sr v d w ∧
        Does (pushElem t qo (vcvtElem (fmt qa) (fmt qo) m a.ftz d e) []) w () u) a.n s u) ∧
    -- VFILL: S0's low bits, or S0 + i × S1
    (∀ iota : Bool, Does (vfillM t a qo iota) s () u ↔
      Turns (fun i s u => Does (pushElem t qo (if iota then (a.s0 + i * a.s1) % 2 ^ 32 else a.s0 % 2 ^ ebits (fmt qo)) []) s () u) a.n s u) ∧
    -- VTRN: a matrix popped row by row, pushed column by column
    (Does (vtrnM t a qo qa) s () u ↔
      Turns (fun _ s u => ∃ xs v, Does (popN t qa (a.trows * a.tcols)) s xs v ∧
        Turns (fun k s u => Does (pushElem t qo ((xs[k % a.trows * a.tcols + k / a.trows]?.map (·.code)).getD 0) []) s () u)
          (a.tcols * a.trows) v u) a.n s u)) ∧
  (∀ (t : Nat) (a : ChainArgs) (eb idx c : Nat) (s u : State), Does (tableRead t a eb idx) s c u →
    u = s ∧ c = (s.elemAt (.spad t) (a.tbase * 8 + idx * eb) eb).1) ∧
  (∀ (f : Nat) (rm : RMode) (ftz : Bool) (old v : Nat), scatNew f 0 rm ftz old v = v ∧
    (∀ g, fmtFloat f = some g → let A := flushIn ftz f (g.val old)
      let B := flushIn ftz f (g.val v)
      scatNew f 1 rm ftz old v = g.round rm ftz 0 (A.add rm B) ∧ scatNew f 2 rm ftz old v = g.round rm ftz 0 (A.minmax true B) ∧
      scatNew f 3 rm ftz old v = g.round rm ftz 0 (A.minmax false B)) ∧
    (∀ w, fmtFloat f = none → fmtInt f = some w → let sat (i : Int) : Nat := (max (intLo w) (min (intHi w) i) % 2 ^ w.1).toNat
      scatNew f 1 rm ftz old v = sat (intOf w old + intOf w v) ∧ scatNew f 2 rm ftz old v = sat (max (intOf w old) (intOf w v)) ∧
      scatNew f 3 rm ftz old v = sat (min (intOf w old) (intOf w v)))) ∧
  (∀ (fa fo : Nat) (m : RMode) (ftz : Bool) (d : Nat) (e : Elem),
    (fa = fo → vcvtElem fa fo m ftz d e = e.code) ∧
    (fa ≠ fo → ∀ g, fmtFloat fo = some g → vcvtElem fa fo m ftz d e = g.round m ftz d (e.chainVal ftz fa)) ∧
    (fa ≠ fo → ∀ w, fmtInt fo = some w → let sat (i : Int) : Nat := (max (intLo w) (min (intHi w) i) % 2 ^ w.1).toNat
      (∀ z, fmtInt fa = some z → vcvtElem fa fo m ftz d e = sat (intOf z e.code)) ∧
      (fmtInt fa = none → vcvtElem fa fo m ftz d e = sat ((e.chainVal ftz fa).toInt m (intLo w) (intHi w) d))))

/-- R217, R348: what block quantisation makes of finite elements, and of a block with a NaN or an infinity, and VQNT's blocks: each
popped, drawn for and quantised, and pushed with its side record in the order of the pattern's positions. Of KQ4: at most 8 outliers, none zero
and none less than an element that stays; scales and codes of the others. -/
def Sys2Proof.Claims.BlockQuantisation : Prop :=
  (∀ (m : RMode) (ftz : Bool) (xs : List Val) (ds : List Nat), let zeros := List.replicate xs.length 0
    (xs.any Val.wild = true → quantBe2 m ftz xs ds = (zeros, [0xFF, 0]) ∧ quantBe8 m ftz xs ds = (zeros, [0xFF])) ∧
    ((∀ x ∈ xs, x.wild = false ∧ x.isZero = true) → quantBe2 m ftz xs ds = (zeros, [0x7F, 0]) ∧ quantBe8 m ftz xs ds = (zeros, [0x7F])) ∧
    ((∀ x ∈ xs, ∃ n k e, x = .fin n k e false) → ∀ (i : Nat) (M : Val), xs[i]? = some M → M.isZero = false →
      (∀ x ∈ xs, x.abs.cmp M.abs ≠ some .gt) →
      (let e := clampExp (M.abs.floorLog2 - 8)
       quantBe8 m ftz xs ds =
         (xs.zipIdx.map fun (p : Val × Nat) => e4m3.round m ftz (nth 0 ds p.2) (p.1.scale (-e)), [BitVec.ofInt 8 (e + 127)])) ∧
      ((∀ (j : Nat) x, j < i → xs[j]? = some x → x.abs.cmp M.abs = some .lt) → ∀ N : Val,
        ((∃ j, j ≠ i ∧ xs[j]? = some N) ∧ (∀ (j : Nat) x, j ≠ i → xs[j]? = some x → x.abs.cmp N.abs ≠ some .gt)) →
        let e := clampExp ((if N.isZero then M.abs else N.abs).floorLog2 - 2)
        (quantBe2 m ftz xs ds).2 = [BitVec.ofInt 8 (e + 127), BitVec.ofNat 8 (e4m3.round m ftz (nth 0 ds i) (M.scale (-e)))] ∧
        (quantBe2 m ftz xs ds).1[i]? = some 8 ∧
        ∀ (j : Nat) x, j ≠ i → xs[j]? = some x →
          let c := e2m1.round m ftz (nth 0 ds j) (x.scale (-e))
          (quantBe2 m ftz xs ds).1[j]? = some (if c % 8 = 0 then 0 else c)))) ∧
  (∀ (keys : Bool) (m : RMode) (ftz : Bool) (xs : List Val) (ds : List Nat), let outs := kqOutliers xs 8 []
    outs.length ≤ 8 ∧ outs.Nodup ∧
    (∀ i ∈ outs, ∃ x, xs[i]? = some x ∧ x.isZero = false ∧ x.isNaN = false ∧
      ∀ (j : Nat) y, xs[j]? = some y → j ∉ outs → y.abs.cmp x.abs ≠ some .gt) ∧
    (∀ (j : Nat) x, xs[j]? = some x → j ∉ outs → let k := if keys then j % 64 else j / 64
      let rest := (xs.zipIdx.filter fun p => !outs.contains p.2 && (if keys then p.2 % 64 else p.2 / 64) == k).map Prod.fst
      let sc := fp16.val (kqScaleOf ftz rest)
      (quantKq keys m ftz xs ds).1[j]? =
        some (if sc.isNaN ∨ sc.isZero ∨ 64 ≤ k then 0 else ((x.div sc).toInt m (-8) 7 (nth 0 ds j) % 16).toNat)) ∧
    (∀ rest : List Val, (rest.any Val.wild = true → kqScaleOf ftz rest = 0x7E02) ∧
      (∀ (i : Nat) M, rest[i]? = some M → (∀ x ∈ rest, ∃ n k e, x = .fin n k e false) → (∀ x ∈ rest, x.abs.cmp M.abs ≠ some .gt) →
        (∀ (j : Nat) x, j < i → rest[j]? = some x → x.abs.cmp M.abs = some .lt) →
        kqScaleOf ftz rest = min 0x7BFF (fp16.round .rne ftz 0 (M.abs.div (.ofInt 7)))))) ∧
  (∀ (t : Nat) (a : ChainArgs) (qo qa : BitVec 5) (sr : Bool) (s u : State) (q : Stream) (b : Block), (s.tile t).stream qo = some q →
    fmtBlock ((s.tile t).streamFmt qo) = some b →
    let fo := (s.tile t).streamFmt qo
    let fa := (s.tile t).streamFmt qa
    let m : RMode := if sr then .sr else rmode a.rm
    let p := patOf q.desc
    let n := b.e0 * b.e1
    let g := max 1 (p.abreast b)
    let quant (xs : List Val) (ds : List Nat) : List Nat × List Byte :=
      if fo = 0x18 then quantBe2 m a.ftz xs ds else if fo = 0x19 then quantBe8 m a.ftz xs ds else quantKq (fo == 0x1C) m a.ftz xs ds
    Does (vqntM t a qo qa sr) s () u ↔
      Turns (fun k s u => ∃ bs v, bs.length = min g (a.n / n - k * g) ∧
        Each (fun s r u => ∃ xs w ds, Does (popN t qa n) s xs w ∧ ds.length = n ∧ Each (Draws t (m == .sr)) ds w u ∧
          r = quant (xs.map fun x => x.chainVal a.ftz fa) ds) bs s v ∧
        let start := (((v.tile t).stream qo).map (·.epos)).getD 0
        Turns (fun j s u => let at' := p.blockAt b (start + j)
          let r := nth ([], []) bs ((at'.1 - (p.blockAt b start).1) % g)
          Does (pushElem t qo (nth 0 r.1 at'.2) r.2) s () u) (bs.length * n) v u) (ceilDiv (a.n / n) g) s u)

/-- R214 to R216, R354, R355: a K-step's exact sum, rounded once, or saturated; the elements that MMA and MMAB take in each step, the panel that
MMAB stores and uses; and what a step writes, with its frame. -/
def Sys2Proof.Claims.ArrayResults : Prop :=
  (∀ (fa fb acc : Nat) (as bs : List Elem),
    (∀ wa wb, fmtInt fa = some wa → fmtInt fb = some wb →
      kstep fa fb acc as bs =
        (max (-2 ^ 31) (min (2 ^ 31 - 1) (sgn 32 acc + ((as.zip bs).map fun (p : Elem × Elem) => intOf wa p.1.code * intOf wb p.2.code).sum)) % 2 ^ 32).toNat) ∧
    (fmtInt fa = none → kstep fa fb acc as bs =
      fp32.round .rne false 0 (exactDot (some (fp32.val acc)) (as.map (·.val fa)) (bs.map (·.val fb))
        (as.any (·.scaleNaN fa) || bs.any (·.scaleNaN fb))))) ∧
  (∀ (acc : Val) (as bs : List Val) (sc : Bool), as.length = bs.length →
    (∀ c, acc = .nan c → exactDot (some acc) as bs sc = .nan c) ∧
    (acc.isNaN = false → ∀ c, firstNaN (as ++ bs) = some c → exactDot (some acc) as bs sc = .nan (if sc then 2 else c)) ∧
    ((∀ v ∈ acc :: (as ++ bs), ∃ n k e, v = .fin n k e false) →
      exactDot (some acc) as bs sc = (List.zipWith Val.mul as bs).foldl (fun r v => r.add .rne v) acc)) ∧
  (∀ (t : Nat) (a : MmaArgs) (bank : Nat) (qa qb : BitVec 5) (ld keep : Bool) (s u : State),
    let fa := (s.tile t).streamFmt qa
    let fb := if ld then (s.tile t).streamFmt qb else (s.cluster (t / 4)).sbDFmt
    let kb := ((mmaClass fa).getD (0, 0)).2
    let mine (s : State) (f : Cluster → Cluster) : State :=
      if keep then s.updCluster (t / 4) fun c => if c.sbOwner = some (t % 4) then f c else c else s
    Does (mmaM t a bank qa qb ld keep) s () u ↔
      Turns (fun k s u => ∃ rows v cols w, rows.length = 16 * a.mb ∧ Each (fun s r u => Does (popRun t qa kb) s r u) rows s v ∧
        (if ld then cols.length = 16 * a.nb ∧ Each (fun s r u => Does (popRun t qb kb) s r u) cols v w
         else w = v ∧ cols = (((v.cluster (t / 4)).sbData.drop (k * 16 * a.nb)).take (16 * a.nb)).map fun l => l.map panelUnpack) ∧
        Does (mmaStep t bank a fa fb (a.z && k == 0) rows cols)
          (mine w fun c => { c with sbData := c.sbData ++ cols.map fun l => l.map panelPack }) () u) a.ks
        (mine s fun c => { c with sbDFmt := fb, sbData := [] }) u) ∧
  (∀ (t k : Nat) (q : BitVec 5) (s u : State) (es : List Elem), Does (popRun t q k) s es u →
    ∃ v, Does (popN t q k) v es u ∧ { v with clusters := s.clusters } = s) ∧
  (∀ (t bank : Nat) (a : MmaArgs) (fa fb : Nat) (zero : Bool) (rows cols : List (List Elem)) (s u : State), bank < 16 →
    a.row0 + rows.length ≤ 64 → a.col0 + cols.length ≤ 64 → (s.tile t).accBad = [] → Memory.wf (s.tile t).acc = true →
    Does (mmaStep t bank a fa fb zero rows cols) s () u →
    let at' (i j : Nat) : Nat := bank * 0x4000 + ((a.row0 + i) * 64 + a.col0 + j) * 4
    (∀ i j r c, rows[i]? = some r → cols[j]? = some c →
      u.num (.acc t) (at' i j) 4 = kstep fa fb (if zero then 0 else s.num (.acc t) (at' i j) 4) r c % 2 ^ 32) ∧
    (∀ l b, (∀ i < rows.length, ∀ j < cols.length, ¬(l = .acc t ∧ at' i j ≤ b ∧ b < at' i j + 4)) → u.byte l b = s.byte l b))

/-- R219, R358 to R361: runs of 64 products, exact and rounded once, added in order; what DOTK and DOTS, and DOTV and DOTX, take and push. -/
def Sys2Proof.Claims.DotResults : Prop :=
  (∀ (fk : Nat) (a : DotArgs) (q : List Val) (k : List Elem), 64 ≤ a.d →
    let run (g : Nat) : Val := fp32.toVal .rne false 0
      (exactDot none ((q.drop (64 * g)).take 64) (((k.drop (64 * g)).take 64).map (·.val fk)) (((k.drop (64 * g)).take 64).any (·.scaleNaN fk)))
    let r := runSum run (a.d / 64 - 1)
    (∀ c, r = .nan c → dotScore fk a q k = .nan c) ∧
    (r.isNaN = false → (fp32.val a.scl).isNaN = true → dotScore fk a q k = .nan 2) ∧
    (r.isNaN = false → (fp32.val a.scl).isNaN = false → dotScore fk a q k = fp32.toVal .rne false 0 (r.mul (fp32.val a.scl)))) ∧
  (∀ (as bs : List Val) (sc : Bool), as ≠ [] → as.length = bs.length → (∀ v ∈ as ++ bs, ∃ n k e, v = .fin n k e false) →
    exactDot none as bs sc = (List.zipWith Val.mul as bs).tail.foldl (fun r v => r.add .rne v) ((List.zipWith Val.mul as bs).headD (.zero false))) ∧
  (∀ (t : Nat) (a : DotArgs) (qq qk qo : BitVec 5) (s u : State),
    let fq := (s.tile t).streamFmt qq
    let fk := (s.tile t).streamFmt qk
    let out (v : Val) : Nat := ((fmtFloat ((s.tile t).streamFmt qo)).getD fp32).round .rne false 0 v
    (Does (dotScores t a qq qk qo) s () u ↔
      ∃ qs v, Does (popN t qq (a.nq * a.d)) s qs v ∧
        Turns (fun _ s u => ∃ k w, Does (popVals t qk fk a.d) s k w ∧
          Turns (fun h s u => Does (pushElem t qo (out (dotScore fk a (((qs.map (·.val fq)).drop (h * a.d)).take a.d) k)) []) s () u) a.nq w u)
          a.nt v u) ∧
    (Does (dotSums t a qq qk qo) s () u ↔
      ∃ toks v, toks.length = a.nt ∧
        Each (fun s (p : List Val × List Elem) u => ∃ es w, Does (popN t qq a.nq) s es w ∧ p.1 = es.map (·.val fq) ∧
          Does (popVals t qk fk a.d) w p.2 u) toks s v ∧
        Turns (fun i s u =>
          let run (g : Nat) : Val := dotRun fk (((toks.drop (64 * g)).take 64).map fun p => nth (.zero false) p.1 (i / a.d))
            (((toks.drop (64 * g)).take 64).map fun p => nth ⟨0, [], 0, false⟩ p.2 (i % a.d))
          Does (pushElem t qo (out (if a.nt = 0 then .zero false else runSum run (ceilDiv a.nt 64 - 1))) []) s () u) (a.nq * a.d) v u)) ∧
  (∀ (fk : Nat) (ws : List Val) (vs : List Elem),
    dotRun fk ws vs = fp32.toVal .rne false 0 (exactDot none ws (vs.map (·.val fk)) (vs.any (·.scaleNaN fk))))

/-- R365, R366: what ARD, AADD, AMAXR and ASCL read, pop, write and push, element by element of the region, row by row. -/
def Sys2Proof.Claims.AccumulatorResults : Prop :=
  (∀ (a : AccArgs) (m : RMode) (d c : Nat), let v := (if a.itype then .ofInt (sgn 32 c) else fp32.val c : Val).scale a.sexp
    (a.fmt = 0 → accOut a m d c = c) ∧ (a.fmt ≠ 0 → ∀ g, fmtFloat a.fmt = some g → accOut a m d c = g.round m false d v) ∧
    (a.fmt ≠ 0 → ∀ w, fmtInt a.fmt = some w → accOut a m d c = (v.toInt m (intLo w) (intHi w) d % 2 ^ w.1).toNat)) ∧
  (∀ (a : AccArgs) (old : Nat) (e : Elem), let w := (e.val a.sfmt).scale a.sexp
    (a.itype = false → accAdd a old e = fp32.round (rmode a.rm) false 0 ((fp32.val old).add (rmode a.rm) w)) ∧
    (a.itype = true → ∀ z, fmtInt a.sfmt = some z →
      accAdd a old e = (max (-2 ^ 31) (min (2 ^ 31 - 1) (sgn 32 old + intOf z e.code)) % 2 ^ 32).toNat) ∧
    accScale a old e = fp32.round (rmode a.rm) false 0 ((fp32.val old).mul w)) ∧
  (∀ (t bank : Nat) (a : AccArgs) (q : BitVec 5) (sr : Bool) (s u : State),
    let m : RMode := if sr then .sr else rmode a.rm
    let col (k : Nat) : Nat := a.col0 + k % a.cols
    let row (k : Nat) : Nat := a.row0 + k / a.cols
    let reads (k : Nat) (s : State) (c : Nat) (u : State) : Prop := Does (bankRead t bank (row k) (col k)) s c u
    let writes (k : Nat) (s : State) (v : Nat) (u : State) : Prop := Does (bankWrite t bank (row k) (col k) v) s () u
    (accBe a.fmt = false → accKq a.fmt = false → (Does (ardM t bank a q sr) s () u ↔
      Turns (fun k s u => ∃ c v d w, reads k s c v ∧ Draws t sr v d w ∧ Does (pushElem t q (accOut a m d c) []) w () u) (a.rows * a.cols) s u)) ∧
    (a.percol = false → (Does (aaddM t bank a q) s () u ↔
      Turns (fun k s u => ∃ e v old w, Does (popVal t q a.sfmt) s e v ∧ reads k v old w ∧ writes k w (accAdd a old e) u) (a.rows * a.cols) s u)) ∧
    (a.percol = true →
      (Does (aaddM t bank a q) s () u ↔ ∃ es v, Does (popVals t q a.sfmt a.cols) s es v ∧
        Turns (fun k s u => ∃ e old w, es[k % a.cols]? = some e ∧ reads k s old w ∧ writes k w (accAdd a old e) u) (a.rows * a.cols) v u) ∧
      (Does (asclM t bank a q) s () u ↔ ∃ es v, Does (popN t q a.cols) s es v ∧
        Turns (fun k s u => ∃ e old w, es[k % a.cols]? = some e ∧ reads k s old w ∧ writes k w (accScale a old e) u) (a.rows * a.cols) v u)) ∧
    (a.percol = false → (Does (asclM t bank a q) s () u ↔
      Turns (fun r s u => ∃ e v, Does (popElem t q) s e v ∧
        Turns (fun c s u => ∃ old w, reads (r * a.cols + c) s old w ∧ writes (r * a.cols + c) w (accScale a old e) u) a.cols v u) a.rows s u)) ∧
    (Does (amaxrM t bank a q) s () u ↔
      Turns (fun r s u => ∃ (cs : List Nat) (v : State), cs.length = a.cols ∧ Turns (fun c s u => ∃ x, cs[c]? = some x ∧ reads (r * a.cols + c) s x u) a.cols s v ∧
        let vs := cs.map fun c => if a.abs then (fp32.val c).abs else fp32.val c
        Does (pushElem t q (fp32.round .rne false 0 (vs.tail.foldl (fun x y => x.minmax true y) (vs.headD (.zero false)))) []) v () u) a.rows s u) ∧
    -- ARD of blocks: 32 consecutive elements of the region for BE2 and BE8, all of it for KQ4
    (let n := if accBe a.fmt then 32 else a.rows * a.cols
     (accBe a.fmt = true ∨ accKq a.fmt = true) → (Does (ardM t bank a q sr) s () u ↔
      Turns (fun b s u => ∃ (cs : List Nat) (v : State) (ds : List Nat) (w : State), cs.length = min n (a.rows * a.cols - b * n) ∧ ds.length = cs.length ∧
        Turns (fun k s u => ∃ x, cs[k]? = some x ∧ reads (b * n + k) s x u) cs.length s v ∧ Each (Draws t (m == .sr)) ds v w ∧
        let vs := cs.map fun c => (if a.itype then .ofInt (sgn 32 c) else fp32.val c : Val).scale a.sexp
        let r := if a.fmt = 0x18 then quantBe2 m false vs ds else if a.fmt = 0x19 then quantBe8 m false vs ds else
          quantKq (a.fmt == 0x1C) m false vs ds
        Each (fun s c u => Does (pushElem t q c r.2) s () u) r.1 w u) (if accBe a.fmt then a.rows * a.cols / 32 else 1) s u))) ∧
  (∀ (t bank r c : Nat) (s : State), let at' := bank * 0x4000 + (r * 64 + c) * 4
    (s.poisoned (.acc t) at' 4 = false → Does (bankRead t bank r c) s (s.num (.acc t) at' 4) s) ∧
    (∀ v, Does (bankWrite t bank r c v) s () (s.write (.acc t) at' (leBytes 4 v) (s.tile t).ctx)))

/-- R323, R324, R326, R327, R340 to R350, R352 to R358, R363 to R366: which program each engine command runs, with the fields of its
staging registers (or of its ACCP word) as they stood at issue. -/
def Sys2Proof.Claims.EngineCommandPrograms : Prop :=
  ∀ (t : Nat) (c : Cmd),
    let M := chainArgs c.stg c.vmode
    let X := mmaArgs c.stg
    let D := dotArgs c.stg
    let A := accArgs c.xv
    let V (i : Instr) (m : EngM Unit) : Prop := c.i = i → cmdRun t .V c = m
    let K (i : Instr) (m : EngM Unit) : Prop := c.i = i → cmdRun t .K c = m
    let P (i : Instr) (m : EngM Unit) : Prop := c.i = i → cmdRun t .A c = m
    let Q (i : Instr) (m : EngM Unit) : Prop := c.i = i → cmdRun t .D c = m
    ∀ (q : BitVec 2) (acq rel p sr ld : Bool) (x y z : BitVec 5) (f : BitVec 3) (b : BitVec 4) (xp xq : BitVec 7)
      (n : BitVec 15) (v : Bool) (tag : BitVec 6) (spc : BitVec 2),
    V (.chain q acq rel x y z p sr) (chainM t M x y z sr) ∧ V (.vred q acq rel x y p f) (vredM t M x y f.toNat) ∧
    V (.vgath q acq rel x y p) (vgathM t M x y) ∧ V (.vscat q acq rel x y p f) (vscatM t M x y f.toNat) ∧
    V (.vcvt q acq rel x y p sr) (vcvtM t M x y sr) ∧ V (.vqnt q acq rel x y sr) (vqntM t M x y sr) ∧
    V (.vfill q acq rel x p f) (vfillM t M x (f == 1)) ∧ V (.vtrn q acq rel x y p) (vtrnM t M x y) ∧
    (c.i = .mma q acq rel x y b → cmdRun t .M c = mmaM t X b.toNat x y true false) ∧
    (c.i = .mmab q acq rel x y b ld → cmdRun t .M c = mmaM t X b.toNat x y ld ld) ∧
    (c.i = .rels q → cmdRun t .M c = modify fun s => s.updCluster (t / 4) fun k => k.release (t % 4)) ∧
    (c.i = .mz q acq rel b → cmdRun t .M c = mzM t X b.toNat) ∧
    P (.azero q acq rel b xp) (azeroM t b.toNat A) ∧ P (.ard q acq rel b x xp sr) (ardM t b.toNat A x sr) ∧
    P (.awr q acq rel b x xp) (awrM t b.toNat A x) ∧ P (.aadd q acq rel b x xp) (aaddM t b.toNat A x) ∧
    P (.amaxr q acq rel b x xp) (amaxrM t b.toNat A x) ∧ P (.ascl q acq rel b x xp) (asclM t b.toNat A x) ∧
    K (.dotk q acq rel x y z) (dotScores t D x y z) ∧ K (.dots q acq rel x y z) (dotScores t D x y z) ∧
    K (.dotv q acq rel x y z) (dotSums t D x y z) ∧ K (.dotx q acq rel x y z) (dotSums t D x y z) ∧
    Q (.bind q acq rel x) (bindM t c x acq rel) ∧ Q (.unbind q acq rel x) (unbindM t x) ∧ Q (.sadv q acq rel x n) (sadvM t c x n.toNat) ∧
    Q (.idxld q acq rel v tag spc) (idxldM t c) ∧ Q (.qpush q acq xp xq) (qpushM t c) ∧
    Q (.tagclr q xp) (modify fun s => s.updTile t fun x => x.tagClearMask (nth 0 c.xv 0).toNat)

/-- R323, R324, R326, R327, R340 to R350, R352 to R358, R363 to R366: the programs of the engine commands, and what they write of
streams, accumulators and tags (R214 to R219 give their values). -/
def Obligations.EnginePrograms : Prop :=
  EngineCommandPrograms ∧ AccumulatorAndTagWrites ∧ FloatChainOperations ∧ IntegerChainOperations ∧ ChainElements ∧ ChainCommandElements ∧
    BlockQuantisation ∧ ArrayResults ∧ DotResults ∧ AccumulatorResults

/-- R176: the DWAIT at the head of an engine's queue leaves it once every command that was pushed before it to the engine it
names, with a number at or before its own target, has completed; before that nothing changes. -/
def Sys2Proof.Claims.QueueWaitIsSatisfied : Prop :=
  ∀ (s : State) (t : Nat) (e f : Eng) (c : Cmd) (n : BitVec 16), (s.tile t).engHead e = some c → dwaitTarget c = some (f, n) →
    ((s.tile t).signalled f c.num n c.ord = true →
      ∃ u, Gives (.dwaitSatisfied t e) s u ∧ ((u.tile t).queue e).q = ((s.tile t).queue e).q.tail ∧ (∀ k, k ≠ t → u.tile k = s.tile k) ∧
        (u.tile t).xs = (s.tile t).xs ∧ u.phys = s.phys) ∧
    ((s.tile t).signalled f c.num n c.ord = false → Gives (.dwaitSatisfied t e) s s)

/-- R176, R328: DSIG and DWAIT. -/
def Obligations.QueueSignalAndWaitResults : Prop := QueueSignalResults ∧ QueueWaitIsSatisfied

/-- R120, R317, R320, R321: the oldest copy that has not started starts when fewer than 8 run: its checks and its reading of
the tensor descriptor made, it is running; a copy between scratchpads has then read its source and posted it to its
target's tile, unless a tile of it is frozen for a swap (R29) or an earlier copy writes what it reads (R147), for which it
waits, or its source lies in a bank in retention, which it wakes (R112). A copy whose tensor descriptor an earlier copy writes waits
(R147). A SEND whose bytes do not fit in its stream's receive queue waits in its place, and the copies after it (R396): that it waits
unstarted is the model's choice (notes/assumptions/99.md), and so are the waits of an OPS copy for a frozen tile (notes/assumptions/61.md)
and for a bank (notes/assumptions/82.md). -/
def Sys2Proof.Claims.CopyStarts : Prop :=
  ∀ (s : State) (t : Nat) (c : Copy), ((s.tile t).copyQ.find? fun k => k.phase == 0) = some c → (s.tile t).copyLive = true →
    (s.tile t).running.length < 8 →
    let a := copyArgs c.cmd.stg true
    let ss := ∃ q acq rel g k, c.cmd.i = .cpyss q acq rel g k
    let r := ∃ q acq g k, c.cmd.i = .cpyr q acq g k
    (s.sendHeld t c = true ∨ s.descHeld t c = true → Gives (.copyStart t) s s) ∧
    (s.sendHeld t c = true → ∃ q acq g k, c.cmd.i = .send q acq g k) ∧
    (ss ∨ r → s.opsWaits t c = true → Gives (.copyStart t) s s) ∧
    (∀ k b, ss ∨ r → s.opsWaits t c = false → s.opsBank a.epa a.len = some (k, b) →
      Gives (.copyStart t) s (s.updTile k fun x => x.leaveBank b)) ∧
    ∀ d u, s.runCopy t c (copyStartM t c.cmd) = (u, some d) →
      let v := u.updTile t fun x => x.setCopy c.id fun k => { k with phase := 1, cmd := { k.cmd with xv := d } }
      (¬ss → ¬r → s.sendHeld t c = false → s.descHeld t c = false → Gives (.copyStart t) s v) ∧
      (s.opsWaits t c = false → s.opsBank a.epa a.len = none →
        (ss → Gives (.copyStart t) s (v.opsPost t c.id a false)) ∧ (r → Gives (.copyStart t) s (v.opsPost t c.id a true)))

/-- R120, R121, R124, R147: a running copy completes: one to or from memory with its transfer made, once no earlier copy is
to write what it reads, one between scratchpads once its write has landed; it leaves the queue, and the last item of its
tag sets the tag's bit, where the instance that issued it still has the tile. That a transfer is made whole as it completes is the
model's choice (notes/assumptions/7.md). -/
def Sys2Proof.Claims.CopyCompletes : Prop :=
  ∀ (s : State) (t k : Nat) (c : Copy), (s.tile t).running[k]? = some c → (s.tile t).copyLive = true →
    (∀ q acq rel g n, c.cmd.i = .cpyss q acq rel g n → c.phase = 3 →
      Gives (.copyComplete t k) s ((s.cmdReleases t c.cmd c.task).updTile t fun x => x.copyDone c)) ∧
    (∀ q acq g n, c.cmd.i = .cpyr q acq g n → c.phase = 3 →
      Gives (.copyComplete t k) s ((s.cmdReleases t c.cmd c.task).updTile t fun x => x.copyDone c)) ∧
    (∀ u v, ((∃ q acq rel g n lin spc, c.cmd.i = .cpyin q acq rel g n lin spc) ∨
        (∃ q acq rel g n lin spc, c.cmd.i = .cpyout q acq rel g n lin spc) ∨
        ∃ q acq rel g n lin spc m, c.cmd.i = .mcast q acq rel g n lin spc m) →
      ((s.tile t).readsAfter t c = true → Gives (.copyComplete t k) s s) ∧
      ((s.tile t).readsAfter t c = false → s.runCopy t c (copyM t c.cmd) = (u, some v) →
        Gives (.copyComplete t k) s ((u.cmdReleases t c.cmd c.task).updTile t fun x => x.copyDone c))) ∧
    (∀ x : Tile, (∀ q ∈ (x.copyDone c).copyQ, q.id ≠ c.id) ∧
      (∀ g, tagOf c.cmd.i = some g → c.task = x.task → mget 0 x.tcnt g.toNat = 1 → (x.copyDone c).tags.getLsbD g.toNat = true) ∧
      (c.task ≠ x.task → (x.copyDone c).tags = x.tags))

/-- R329, R396: a SEND that is first of its tile's SENDs to an open stream, none of another tile's (a swapped-out one's among them) being under way, gives the
peer's receive queue the bytes that it has room for, in order (from banks that are out of retention, R112), and completes when all are accepted. -/
def Sys2Proof.Claims.SendCompletes : Prop :=
  ∀ (s : State) (t k : Nat) (c : Copy) (q : BitVec 2) (acq g : Bool) (tag : BitVec 6),
    (s.tile t).running[k]? = some c → (s.tile t).copyLive = true → c.cmd.i = .send q acq g tag →
    let p := s.linkArgs (s.tile t).ctx (nth 0 c.cmd.stg 12) (nth 0 c.cmd.stg 14) (nth 0 c.cmd.stg 15)
    ((s.tile t).running.find? fun r => r.sendTo p.port p.strm).map (·.id) = some c.id →
    (s.allTiles.any fun y => y.1 != some t && y.2.copyQ.any fun r => r.sendTo p.port p.strm && r.pos != 0) = false → p.ok = true →
    (s.tile t).readsAfter t c = false → (∀ r ∈ (s.tile t).copyQ, r.id = c.id → r = c) →
    let n := min ((s.port p.port).room p.strm) (p.len - c.pos)
    (s.tile t).bankHeld (p.off + c.pos) n = none →
    ∃ u, Gives (.sendComplete t k) s u ∧
      mget [] (u.port p.port).tx p.strm = mget [] (s.port p.port).tx p.strm ++ s.bytes (.spad t) (p.off + c.pos) n ∧
      (p.len ≤ c.pos + n → ∀ r ∈ (u.tile t).copyQ, r.id ≠ c.id) ∧
      (c.pos + n < p.len → ∀ r ∈ (u.tile t).copyQ, r.id = c.id → r.pos = c.pos + n) ∧ (∀ j, j ≠ t → u.tile j = s.tile j)

/-- R320, with the frame of a copy's transfer: one into scratchpads writes no other bytes than those of the tiles that it names, and a linear one
into a scratchpad without poison or bound streams only its own len bytes; one out of the scratchpad writes memory alone, and a linear one
only the segments that its range translates to. Registers, condition bits and staging registers stay. -/
def Sys2Proof.Claims.CopyTransferFrame : Prop :=
  ∀ (s u : State) (t : Nat) (c : Cmd) (q : BitVec 2) (acq rel g lin : Bool) (n : BitVec 6) (spc : BitVec 2) (m : BitVec 4),
    (copyM t c).run.run s = (.ok (), u) →
    let a := copyArgs c.stg false
    let x := s.tile t
    ((u.tile t).xs = x.xs ∧ (u.tile t).cs = x.cs ∧ (u.tile t).stg = x.stg) ∧
    (c.i = .cpyin q acq rel g n lin spc →
      (∀ l b, l ≠ .spad t → u.byte l b = s.byte l b) ∧
      (lin = true → linearOk a = true → x.qs = [] → x.spadBad = [] →
        ∀ b, ¬(a.epa ≤ b ∧ b < a.epa + a.len) → u.byte (.spad t) b = s.byte (.spad t) b)) ∧
    (c.i = .mcast q acq rel g n lin spc m → ∀ l b, (∀ k ∈ mcastTiles t m, l ≠ .spad k) → u.byte l b = s.byte l b) ∧
    (c.i = .cpyout q acq rel g n lin spc →
      (∀ k b, u.byte (.spad k) b = s.byte (.spad k) b ∧ u.byte (.acc k) b = s.byte (.acc k) b) ∧
      (lin = true → ∀ v gs,
        s.translateAll x.ctx (some t) (t / 128) .w (s.tileExt t) (vaPieces (VA.ofNat (VA.toNat ⟨c.asp, BitVec.ofNat 64 a.epb⟩)) a.len) = (v, .ok gs) →
        ∀ l b, (∀ h ∈ gs, ¬(h.l = l ∧ h.a ≤ b ∧ b < h.a + h.len)) → u.byte l b = s.byte l b))

/-- R120, R121, R320, R329: copies and SENDs. -/
def Obligations.CopiesStartAndComplete : Prop := CopyStarts ∧ CopyCompletes ∧ SendCompletes ∧ CopyTransferFrame

/-- R27, R112, R124: the oldest OPS write accepted for a tile lands, after the results that land at the same boundary: its
bytes, then the flag of a CPYR, are written, and the copy that made it is landed; a bank in retention is woken first. A
stream that may fetch or drain elements (R68) does so, as its program says. That an OPS write lands in a step of its own, the oldest
accepted first, is the model's choice (notes/assumptions/61.md), and so are the waking of a bank as the write lands (notes/assumptions/82.md)
and one element of a stream a step (notes/assumptions/7.md). A CPYR's fill releases what came before the CPYR (R124). -/
def Obligations.OpsWritesAndStreamStepsLand : Prop :=
  ∀ (s : State) (t : Nat),
    (∀ w r, (s.tile t).opsIn = w :: r →
      let u := (s.updTile t fun x => { x with opsIn := r }).opsWrite t w.win w.off w.bytes
      let due := ∃ p ∈ (s.tile t).pend, p.timed = true ∧ p.due ≤ (s.tile t).clk
      (due → Gives (.opsWriteLand t) s s) ∧
      (∀ b, ¬due → w.win = 0 → (s.tile t).bankHeld w.off w.bytes.length = some b →
        Gives (.opsWriteLand t) s (s.updTile t fun x => x.leaveBank b)) ∧
      (¬due → (w.win = 0 → (s.tile t).bankHeld w.off w.bytes.length = none) →
        (∀ o v, w.flag = some (o, v) → (s.tile t).bankHeld o 8 = none) →
        Gives (.opsWriteLand t) s
          ((match w.flag with
            | some (o, v) => (u.flagFill t o v).fillReleases w (.spad t o (o + 8))
            | none => u).updTile w.srcTile fun x => x.setCopy w.srcId fun c => { c with phase := 3 }))) ∧
    (∀ (n : BitVec 5) (q : Stream), (s.tile t).stream n = some q → (s.tile t).live = true →
      (∀ u, q.canFill = true → (streamFillOne t n q).run.run s = (.ok (), u) → Gives (.streamFill t n) s u) ∧
      (∀ u, q.canDrain = true → (streamDrainOne t n q).run.run s = (.ok (), u) → Gives (.streamDrain t n) s u))

/-! ## Steps of a tile beside its bundles -/

/-- R263, R264: an interlocked result that has come back lands in its destination where no earlier result to it is in
flight; one that returned poison raises POISON at its load instead (R109). -/
def Sys2Proof.Claims.InterlockedResultLands : Prop :=
  ∀ (s : State) (t : Nat) (p : Pend), (s.tile t).dueIlk = some p →
    (p.poison = false → Gives (.interlockedResultLand t) s (s.setTile t ((s.tile t).landPend p))) ∧
    (p.poison = true → ∃ u, Gives (.interlockedResultLand t) s u ∧
      (s.killed t = false → (s.tile t).raised = none → (u.tile t).stat = .frozen ∧
        ∃ r, (u.tile t).raised = some r ∧ r.cause = .poison ∧ r.faddr = p.addr ∧ r.fva = p.fva) ∧ (u.tile t).xs = (s.tile t).xs)

/-- R262 to R264, R281: results go in flight and land, and sources read, as the parts say. -/
def Obligations.ResultsInFlightLandAndSourcesRead : Prop :=
  ResultGoesInFlight ∧ SourceReads ∧ ResultLandWritesDestination ∧ InterlockedResultLands

/-- R265, R288, R325: a group that waits at one WAITC, WAITTA or WAITTL whose condition holds now waits no longer after
WAITING_INSTRUCTION_COMPLETE, and issues its next bundle in the next cycle at the earliest; no register, tag, condition bit or
memory changes. A waiting instruction whose condition does not hold stays. -/
def Sys2Proof.Claims.ConditionWaitsEnd : Prop :=
  ∀ (s : State) (t g : Nat) (w : WaitRec), (s.tile t).stat = .running → (s.tile t).mems = [] →
    (∃ h ∈ (s.tile t).groups, h.num = g) → (∀ h ∈ (s.tile t).groups, h.num = g → h.waits = [w] ∧ h.ppStop = false) →
    let holds : Prop := match w.w with
      | .tags mask all => mask = 0 ∨ (if all then (s.tile t).tags &&& mask = mask else (s.tile t).tags &&& mask ≠ 0)
      | .waitc c neg => xor ((s.atWait t g w).readC c) neg = true
      | _ => False
    (holds → ∃ u, Gives (.waitingComplete t g) s u ∧
      (∀ h ∈ (u.tile t).groups, h.num = g → h.waits = [] ∧ (s.tile t).clk + 1 ≤ h.nextIssue) ∧
      (u.tile t).xs = (s.tile t).xs ∧ (u.tile t).cs = (s.tile t).cs ∧ (u.tile t).tags = (s.tile t).tags ∧
      (u.tile t).spad = (s.tile t).spad ∧ (u.tile t).acc = (s.tile t).acc ∧ (∀ k, k ≠ t → u.tile k = s.tile k) ∧
      u.phys = s.phys ∧ u.flt = s.flt ∧ u.host = s.host) ∧
    (¬holds → (∃ mask all, w.w = .tags mask all) ∨ (∃ c neg, w.w = .waitc c neg) → (s.atWait t g w).tryWait w = s.atWait t g w)

/-- R125, R313: FLAG_WAKE of a word: the one group that waits at a WAITF which a write of the word has woken with VALUE has VALUE in
its destination and waits no longer; no other register, and no memory, changes. -/
def Sys2Proof.Claims.FlagWakes : Prop :=
  ∀ (s : State) (t off : Nat) (h : Group) (w : WaitRec) (d : BitVec 7) (v : Word), (s.tile t).stat = .running →
    h ∈ (s.tile t).groups → ((s.tile t).groups.map (·.num)).Nodup → h.waits = [w] → h.ppStop = false → w.w = .waitf d off true (some v) →
    (∀ k ∈ (s.tile t).groups, k.num ≠ h.num → k.wokenAt off = []) →
    ∃ u, Gives (.flagWake t off) s u ∧ (∀ k ∈ (u.tile t).groups, k.num = h.num → k.waits = []) ∧
      (d ≠ 0 → mget 0 (u.tile t).xs d.toNat = v) ∧ (∀ k, (k ≠ d.toNat ∨ d = 0) → mget 0 (u.tile t).xs k = mget 0 (s.tile t).xs k) ∧
      (1 ≤ w.scope → (u.tile t).l1 = []) ∧ (u.tile t).cs = (s.tile t).cs ∧ (u.tile t).tags = (s.tile t).tags ∧
      (u.tile t).spad = (s.tile t).spad ∧ (u.tile t).acc = (s.tile t).acc ∧ (∀ k, k ≠ t → u.tile k = s.tile k) ∧ u.phys = s.phys

/-- R142, R143: a write that has waited and still must stays; one of n scratchpad bytes that may be performed, as a release or not, puts them in their
place, in a scratchpad whose map is in its canonical form (notes/assumptions/2.md). -/
def Sys2Proof.Claims.WaitedWrites : Prop :=
  ∀ (s : State) (t : Nat) (w : MemWait),
    ((s.tile t).memReady w = false → s.tryWrite t w = s) ∧
    (∀ (a n : Nat) (v : Word), w.op = .st a n v → (s.tile t).live = true → (s.tile t).memReady { w with rl := true } = true → n ≤ 8 → a + n ≤ 2 ^ 20 →
      Memory.wf (s.tile t).spad = true → (s.tile t).spadBad = [] → (s.tile t).qs = [] →
      ∀ j < n, (s.tryWrite t w).byte (.spad t) (a + j) = BitVec.ofNat 8 (v.toNat / 256 ^ j))

/-- Every WAITING_INSTRUCTION_COMPLETE and every FLAG_WAKE of every state answers a next state: with a running tile, that in which the group's
waiting instructions, or the WAITFs of the word that a write has woken, have been tried in order. Writes that waited come first (R142); a
tile that does not run keeps what waits. -/
def Sys2Proof.Claims.WaitStepsComplete : Prop :=
  ∀ (s : State) (t g off : Nat),
    let u := if (s.tile t).mems.isEmpty then s else s.tryWrites t g
    exec (.waitingComplete t g) s =
      .next (if (u.tile t).stat = .running then u.tryWaits t g ((u.tile t).group g).waits else u) ∧
    exec (.flagWake t off) s =
      .next (if (s.tile t).stat = .running then
          ((s.tile t).groups.filter fun h => !(h.wokenAt off).isEmpty).foldl (fun s h => s.tryWaits t h.num (h.wokenAt off)) s
        else s)

/-- R265, R288, R325, R404: each of the waiting instructions of a group whose condition holds now is complete; when none is left the
group moves on. FLAG_WAKE does the same for the WAITFs of a word that a write has woken (R125), each with its VALUE; with none
woken it changes nothing. Writes that waited come first (R142). -/
def Obligations.WaitingInstructionsComplete : Prop :=
  WaitStepsComplete ∧ ConditionWaitsEnd ∧ FlagWakes ∧ WaitedWrites ∧
  ∀ (s : State) (t g : Nat), (s.tile t).stat = .running →
    ((s.tile t).mems = [] → Gives (.waitingComplete t g) s (s.tryWaits t g ((s.tile t).group g).waits)) ∧
    (∀ (w : WaitRec) (mask : Word) (all : Bool), w.w = .tags mask all →
      (tagsHold s.here.tags mask all = true → s.tryWait w = (s.waitDone w).tagsSeen s.cur.tile (s.here.tags &&& mask)) ∧
      (tagsHold s.here.tags mask all = false → s.tryWait w = s)) ∧
    (∀ (w : WaitRec) (d : BitVec 7) (off : Nat) (v : Word) (p : Bool), w.w = .waitf d off p (some v) →
      s.tryWait w = ((s.waitDone w).acquire true (.spad s.cur.tile off (off + 8))).putHere (.x d) v) ∧
    (∀ off, (∀ h ∈ (s.tile t).groups, h.wokenAt off = []) → Gives (.flagWake t off) s s)

namespace Sys2Proof.Claims
open Sys2Proof.Machine

/-- The conditions under which the tile of a step records a cause raised now: it runs, has recorded nothing, is not being
ended, and holds no interlocked result with poison. -/
def TakesCause (s : State) (t : Nat) : Prop :=
  (s.tile t).stat = .running ∧ (s.tile t).raised = none ∧ s.killed t = false ∧
    ∀ p ∈ (s.tile t).latches.map Latch.p ++ (s.tile t).pend, (p.ilk && p.poison) = false

/-- In `u` tile t has frozen with a cause of group g at an address, with the index code, and its program's registers,
positions and scratchpad are those of `s`. -/
def FrozenBy (s u : State) (t g : Nat) (c : Cause) (a : Word) (code : Nat) : Prop :=
  (u.tile t).stat = .frozen ∧ (∃ r, (u.tile t).raised = some r ∧ r.cause = c ∧ r.grp = g ∧ r.faddr = a ∧ r.code = code) ∧
    (u.tile t).xs = (s.tile t).xs ∧ (u.tile t).cs = (s.tile t).cs ∧ (u.tile t).stg = (s.tile t).stg ∧
    (u.tile t).seqs = (s.tile t).seqs ∧ (u.tile t).spad = (s.tile t).spad ∧ (∀ k, k ≠ t → u.tile k = s.tile k) ∧ u.phys = s.phys

end Sys2Proof.Claims

/-- R378, R277: BREAK of a group that may issue, at a breakpoint, freezes the tile with the restartable cause BREAK and the
breakpoint's index; a bundle that is no instruction freezes it with its cause. Neither has another effect. -/
def Sys2Proof.Claims.BundlesThatFreeze : Prop :=
  ∀ (s : State),
    (∀ (t g k : Nat) (q : Group), TakesCause s t → ((s.tile t).groups.find? fun h => h.num == g) = some q →
      (s.tile t).ready q = true → s.breakAt t q = some k →
      ∃ u, Gives (.breakHit t g) s u ∧ FrozenBy s u t g .brk ((s.tile t).groupSeq q).addr k) ∧
    (∀ (c : Cause) (b : Bundle), TakesCause s s.cur.tile →
      (s.fetchBundle s.cur.tile s.cur.addr).2 = .bundle b →
      ∃ u, Gives (.notAnInstruction c) s u ∧ FrozenBy s u s.cur.tile s.cur.group c s.cur.addr 0) ∧
    (∀ (c d : Cause) (va : Nat) (why : ProbeWhy), TakesCause s s.cur.tile →
      (s.fetchBundle s.cur.tile s.cur.addr).2 = .fails d va why →
      ∃ u, Gives (.notAnInstruction c) s u ∧ FrozenBy s u s.cur.tile s.cur.group c s.cur.addr 0)

/-- R277: the checks after the first in their order, and the cause that the first failing one gives: the header's fields ILLEGAL; R255
BUNDLE; slots outside the group's of a forked tile BUNDLE; a syllable that is no instruction of the tile ILLEGAL, in the first such slot;
one in a slot it may not stand in, or with a qualifier on a level that is not open, BUNDLE, in the first such slot; R259, and FORK or EXIT
outside lockstep, BUNDLE. A bundle that passes them all gives its instructions. -/
def Sys2Proof.Claims.BundleChecks : Prop :=
  ∀ (x : Tile) (q : Group) (b : Bundle),
    let r := checkBundle x q b
    let first := q.slotList.headD 0
    let head := b.h.rsvd = 0 ∧ b.h.scope ≤ 4 ∧ b.h.iqlev ≠ 6
    let slots := x.lockstep = true ∨ ∀ k ∈ b.h.slotList, q.hasSlot k = true
    let is := b.syls.filterMap fun p => (sylInstr x.feat p.2).map fun i => (p.1, p.2, i)
    let fits (p : Nat × Syl × Instr) : Prop := slotOk b (x.groupSeq q).loops.length p.1 p.2.1 p.2.2 = true
    let across := crossOk (is.map fun p => p.2.2) = true ∧ (x.lockstep = true ∨ ∀ p ∈ is, lockstepOnly p.2.2 = false)
    (¬head → r = .error (.illegal, first)) ∧
    (head → b.formed = false → r = .error (.bundle, first)) ∧
    (head → b.formed = true → ¬slots → r = .error (.bundle, first)) ∧
    (head → b.formed = true → slots →
      (∀ l p l', b.syls = l ++ p :: l' → (∀ k ∈ l, (sylInstr x.feat k.2).isSome = true) → sylInstr x.feat p.2 = none →
        r = .error (.illegal, p.1)) ∧
      ((∀ p ∈ b.syls, (sylInstr x.feat p.2).isSome = true) →
        (∀ l p l', is = l ++ p :: l' → (∀ k ∈ l, fits k) → ¬fits p → r = .error (.bundle, p.1)) ∧
        ((∀ p ∈ is, fits p) → (¬across → r = .error (.bundle, first)) ∧ (across → r = .ok (is.map fun p => (p.1, p.2.2))))))

/-- R54, R277: where nothing else is due and the first tile's first group is ready, a bundle that cannot be fetched, or that fails a
check, makes the step NOT_AN_INSTRUCTION with the cause that the fetch, or the first failing check, gives. -/
def Sys2Proof.Claims.FailingBundleSteps : Prop :=
  ∀ (s s1 : State) (t : Nat) (ts : List Nat) (q : Group) (gs : List Group),
    s.agenda = [] → s.slotsDec = 0 → s.slotsIss = 0 → s.tripped = false → mkeys s.tiles = t :: ts → (s.tile t).portOrder = q :: gs →
    (s.tile t).ready q = true →
    let s0 : State := { s with freeCtr := s.freeCtr + 1, slotsDec := 0, slotsIss := 0 }
    (∀ c va why, s0.fetchBundle t ((s.tile t).groupSeq q).addr = (s1, .fails c va why) →
      step s = exec (.notAnInstruction c) (s1.atBundle t q ⟨headerOf 0, []⟩)) ∧
    (∀ b c k, s0.fetchBundle t ((s.tile t).groupSeq q).addr = (s1, .bundle b) → checkBundle ((s1.atBundle t q b).tile t) q b = .error (c, k) →
      step s = exec (.notAnInstruction c) ((s1.atBundle t q b).atSlot k))

/-- R255, R285: a bundle without syllables, at which no loop body ends, of a running tile whose other groups have no bundle in
hand: its group is at the bundle that follows, which issues 1 + GAP cycles later at the earliest; nothing else of the program
changes. -/
def Sys2Proof.Claims.EmptyBundlePasses : Prop :=
  ∀ (s : State) (gap : BitVec 4) (g : Group), let x := s.here
    x.stat = .running → x.raised = none → x.preSig = none → g ∈ x.groups → g.num = s.cur.group → (x.groups.map (·.num)).Nodup →
    g.waits = [] → x.tried.contains g.num = false → (x.groupSeq g).loops = [] → (∀ h ∈ x.groups, h.num ≠ g.num → h.opened = false) →
    ∃ t, Gives (.headerOnlyBundle gap) s t ∧
      (∀ (k : Nat) (r : Seqr), x.seqs[k]? = some r → t.here.seqs[k]? = some
        (if g.hasSlot k then { r with addr := s.cur.addr + BitVec.ofNat 64 s.cur.len, loops := [] } else r)) ∧
      (∀ h ∈ t.here.groups, h.num = g.num → h.nextIssue = x.clk + 1 + gap.toNat ∧ h.opened = false) ∧
      t.here.xs = x.xs ∧ t.here.cs = x.cs ∧ t.here.stg = x.stg ∧ t.here.pend = x.pend ∧ t.here.spad = x.spad ∧ t.here.stat = .running ∧
      (∀ k, k ≠ s.cur.tile → t.tile k = s.tile k) ∧ t.phys = s.phys

/-- R378: a breakpoint at the next bundle of a group that may issue raises the restartable cause BREAK with the breakpoint's
index in CODE; the bundle has no effect. R277: the first check that fails gives the cause; a bundle that is no instruction raises it, and one without syllables (R255) holds
its group for 1 + GAP cycles and sends it to the next bundle. -/
def Obligations.BreakAndOddBundles : Prop :=
  BundlesThatFreeze ∧ BundleChecks ∧ FailingBundleSteps ∧ EmptyBundlePasses ∧
  ∀ (s : State),
    (∀ (t g k : Nat) (q : Group), ((s.tile t).groups.find? fun h => h.num == g) = some q → (s.tile t).ready q = true →
      s.breakAt t q = some k →
      Gives (.breakHit t g) s
        ((s.triedAt t g).raiseIn t
          ⟨.brk, (s.tile t).clk, none, false, g, 0, 0, k, ((s.tile t).groupSeq q).addr, 0, none, none, .none⟩)) ∧
    (∀ gap : BitVec 4,
      Gives (.headerOnlyBundle gap) s (({ s with cur := { s.cur with gap := gap.toNat } } : State).openBundle.finish s.cur.tile)) ∧
    (∀ (c : Cause) (b : Bundle), (s.fetchBundle s.cur.tile s.cur.addr).2 = .bundle b → Gives (.notAnInstruction c) s (s.raise c)) ∧
    (∀ (c d : Cause) (va : Nat) (why : ProbeWhy), c ≠ .poison → (s.fetchBundle s.cur.tile s.cur.addr).2 = .fails d va why →
      Gives (.notAnInstruction c) s (s.raiseWhy c va 0 none why))

/-- R373: a tile frozen by a restartable cause, with a handler and outside it, enters the handler 16 cycles after its last freeze
point at the earliest: one group without a partition at TRAPH, empty loop stacks, lockstep; what was interrupted is set
aside with its latches and frame; the registers stay. -/
def Sys2Proof.Claims.HandlerEntered : Prop :=
  ∀ (s : State) (t : Nat), (s.tile t).toHandler = true → (s.ctx (s.tile t).ctx).preempting = false →
    let x := s.tile t
    (x.lastPoint + 16 ≤ x.clk →
      ∃ u, Gives (.handlerEntry t) s u ∧
        let y := u.tile t
        y.stat = .running ∧ y.inHandler = true ∧ y.lockstep = true ∧ y.latches = [] ∧ y.raised = none ∧
        (∀ k < 8, (y.seq k).addr = x.traph ∧ (y.seq k).loops = []) ∧ y.groups.length = 1 ∧
        (∃ o, y.outer = some o ∧ o.groups = x.groups ∧ o.seqs = x.seqs ∧ o.lockstep = x.lockstep ∧ o.latches = x.latches ∧ o.frame = x.frame) ∧
        y.xs = x.xs ∧ y.cs = x.cs ∧ y.frame = x.frame ∧ (∀ k, k ≠ t → u.tile k = s.tile k)) ∧
    (x.clk < x.lastPoint + 16 → Gives (.handlerEntry t) s s)

/-- R373, R374, R375: entering a handler and returning from it, as the parts say. -/
def Obligations.HandlerEntryAndReturn : Prop := HandlerEntered ∧ ReturnFromHandler ∧ ForkedHandlerReturn

/-- R193, R379: a tile frozen by a cause fatal to its kernel ends the kernel, by the frame of the tile with the lowest GRANK where
the causes of several tiles of its gang came in the same cycle. Ending a kernel puts the tile's frame into the context's record, unless
that of an older faulting task stands there, and ends the gang. -/
def Sys2Proof.Claims.FatalCauseEndsKernel : Prop :=
  ∀ (s : State) (t : Nat) (r : Raised), (s.tile t).raised = some r →
    let gang := s.gangTiles (s.tile t).ctx (s.tile t).task
    ((s.tile t).stat = .frozen → causeClass r.cause = 1 →
      (∀ j rj, j ∈ gang → (s.tile j).fatalNow = true → (s.tile j).raised = some rj → rj.cycle = r.cycle) →
      ∀ k rk, k ∈ gang → (s.tile k).stat = .frozen → (s.tile k).raised = some rk → causeClass rk.cause = 1 →
      (∀ j ∈ gang, j ≠ k → (s.tile j).fatalNow = true → (s.tile k).grank.toNat < (s.tile j).grank.toNat) →
      (t ∈ gang ∨ t = k) → Gives (.kernelFatal t) s (s.endKernel k rk)) ∧
    (let kept := ∃ e ∈ (s.ctx (s.tile t).ctx).entries.takeWhile (fun e => e.sn != (s.tile t).task), e.st = .fault ∧ e.frameOff ≠ 0
     (¬kept → ((s.endKernel t r).ctx (s.tile t).ctx).frame = (List.range 128).map fun k => mget 0 (s.tile t).frame (0x100 + k)) ∧
     (kept → ((s.endKernel t r).ctx (s.tile t).ctx).frame = (s.ctx (s.tile t).ctx).frame)) ∧
    (∀ g ∈ ((s.endKernel t r).ctx (s.tile t).ctx).gangs, g.sn = (s.tile t).task → g.ending = true)

/-- R377: a restartable cause without a handler goes to the firmware. TRAP ends the kernel; BREAK holds the tile for the host's debugger
(R378). PROBE and FETCH that met a page which was not far, and HOLDFULL, end the kernel; those that met a far page request the promotion
of the first page of their range that is far now, and resume the tile once the whole range is there, in the cycle after and with HRET
0 (R375). What is done when a page of the range has gone meanwhile, for another cause than being far, is the model's choice
(notes/assumptions/78.md). -/
def Sys2Proof.Claims.FirmwareHandlesCauses : Prop :=
  ∀ (s : State) (t : Nat) (r : Raised), (s.tile t).raised = some r → (s.tile t).toFirmware = true →
    (s.ctx (s.tile t).ctx).preempting = false →
    let c := (s.tile t).ctx
    let page (va : VA) (len : Nat) (k : Acc) : Prop :=
      (r.why ≠ .far → Gives (.firmwareTrap t) s (s.endKernel t r)) ∧
      (r.why = .far →
        (∀ u gs, s.translateAll c none 4 k (s.tileExt t) (vaPieces va len) = (u, .ok gs) → Gives (.firmwareTrap t) s (s.firmwareResume t)) ∧
        (∀ u n f, s.translateAll c none 4 k (s.tileExt t) (vaPieces va len) = (u, .error (.far n, f)) →
          Gives (.firmwareTrap t) s (s.requestPromotion c f none)) ∧
        (∀ u o f, s.translateAll c none 4 k (s.tileExt t) (vaPieces va len) = (u, .error (o, f)) → (∀ n, o ≠ .far n) →
          Gives (.firmwareTrap t) s
            (if (s.transitAt c va.toNat len).isSome then s.cancelDemotions c va.toNat len else s.firmwareResume t)))
    (r.cause = .trap → Gives (.firmwareTrap t) s (s.endKernel t r)) ∧
    (r.cause = .brk → Gives (.firmwareTrap t) s (s.updTile t fun x => { x with stat := .held })) ∧
    (r.cause = .fetch → page (VA.ofNat r.fva) 64 .x) ∧
    (r.cause = .probe → ∀ va len wr, (s.tile t).probeOf r.grp = some (va, len, wr) → page va len (if wr then .rw else .r)) ∧
    (let y := (s.firmwareResume t).tile t
     y.stat = .running ∧ y.raised = none ∧ y.latches = [] ∧ (∀ g ∈ y.groups, g.nextIssue = (s.tile t).clk + 1) ∧
     (∀ l ∈ (s.tile t).latches, { l.p with due := (s.tile t).clk + 1 + l.d, born := 0, latch := true } ∈ y.pend) ∧
     y.xs = (s.tile t).xs ∧ y.spad = (s.tile t).spad ∧ y.seqs = (s.tile t).seqs ∧ ∀ k, k ≠ t → (s.firmwareResume t).tile k = s.tile k)

/-- R193, R377, R379: kernel faults and the firmware's handling, as the parts say. -/
def Sys2Proof.Claims.KernelFaultsAndFirmwareHandling : Prop := FatalCauseEndsKernel ∧ FirmwareHandlesCauses

/-- R382: the watchdog of a placed, unfrozen instance raises WATCHDOG when its count reaches the limit of WDOG (0: the
default) × 1,024 cycles, and not before. R383, R384: the pre-emption signal reaches a running tile once; PREBND = 0 freezes it at once, and
else it freezes when PREBND cycles have passed, if it has not stopped before. -/
def Sys2Proof.Claims.WatchdogAndPreemption : Prop :=
  ∀ (s : State) (t : Nat), let x := s.tile t
    let limit := (if x.wdog = 0 then s.wdogDef else x.wdog) * 1024
    (s.wdCounts t = true → limit ≤ x.wd →
      Gives (.watchdog t) s (s.raiseIn t ⟨.watchdog, x.clk, none, false, 0, 0, 0, 0, 0, 0, none, none, .none⟩)) ∧
    (x.wd < limit → Gives (.watchdog t) s s) ∧
    ((s.ctx x.ctx).preempting = true → x.stat = .running → x.preSig = none →
      ∃ u, Gives (.preemptSignal t) s u ∧ (u.tile t).preSig = some x.clk ∧ (x.prebnd = 0 → (u.tile t).stat = .frozen) ∧
        (u.tile t).xs = x.xs ∧ (∀ k, k ≠ t → u.tile k = s.tile k)) ∧
    (∀ c, x.preSig = some c → x.stat = .running →
      (c + x.prebnd ≤ x.clk → ∃ u, Gives (.prebndExpiry t) s u ∧ (u.tile t).stat = .frozen ∧ (u.tile t).xs = x.xs) ∧
      (x.clk < c + x.prebnd → Gives (.prebndExpiry t) s s))

/-- R193, R377 to R379, R382 to R384: kernel faults, the firmware's handling, the watchdog and pre-emption, as the parts say. -/
def Obligations.KernelFaultsWatchdogAndPreemption : Prop := KernelFaultsAndFirmwareHandling ∧ WatchdogAndPreemption

/-- R129: an instance that has reached its EXIT ends once its commands are done, its copies no longer hold it and its
output streams have drained: the tile is idle, its L1 and streams are gone, and a read of its scratchpad or
accumulators that reaches it answers undefined bytes (R8); its registers and memories stand (R409).
A lease that it holds passes to the next tile in round-robin order that waits for it, with a new period, or is free where none waits; a request
of its own ends (R175). That the instance waits for its queues and its copies is the model's choice (notes/assumptions/34.md). -/
def Sys2Proof.Claims.InstanceEnds : Prop :=
  ∀ (s : State) (t : Nat), (s.tile t).stat = .ending → (s.tile t).mems = [] → (s.tile t).qD.q = [] → (s.tile t).qV.q = [] → (s.tile t).qM.q = [] →
    (s.tile t).qK.q = [] → (s.tile t).qA.q = [] → (∀ c ∈ (s.tile t).copyQ, c.holdsEnd t = false) →
    (∀ p ∈ (s.tile t).qs, p.2.canDrain = false) →
    ∃ u, Gives (.tileEnd t) s u ∧ (u.tile t).stat = .idle ∧ (u.tile t).l1 = [] ∧ (u.tile t).qs = [] ∧
      (u.tile t).xs = (s.tile t).xs ∧ (u.tile t).stg = (s.tile t).stg ∧ (u.tile t).spad = (s.tile t).spad ∧ (u.tile t).acc = (s.tile t).acc ∧
      (∀ oa n, let p := opsParts oa
        p.tile = t → (p.win = 0 ∧ p.off + n ≤ 2 ^ 20 ∨ p.win = 1 ∧ p.off + n ≤ 2 ^ 18) →
        (u.opsRead oa n).map Prod.fst = (List.range n).map fun i => Config.freeByte u.freeCtr (p.off + i)) ∧
      let c := s.cluster (t / 4)
      let v := u.cluster (t / 4)
      let i := t % 4
      (c.held = true → c.holder = i →
        ((∀ d, 1 ≤ d → d ≤ 3 → c.req.getLsbD ((i + d) % 4) = false) → v.held = false) ∧
        (∀ d, 1 ≤ d → d ≤ 3 → c.req.getLsbD ((i + d) % 4) = true → (∀ e, 1 ≤ e → e < d → c.req.getLsbD ((i + e) % 4) = false) →
          v.held = true ∧ v.holder = (i + d) % 4 ∧ v.cmdLeft = 64 ∧ v.cycLeft = 8192 ∧ v.req.getLsbD ((i + d) % 4) = false)) ∧
      (¬(c.held = true ∧ c.holder = i) → v.held = c.held ∧ v.holder = c.holder ∧ v.req.getLsbD i = false)

/-- R111, R112, R136: a bank's entry to retention and its exit end when their cycle has come, and not before, SPRET's bit being 0
after an exit; L1 lines go 4,096 cycles after their fill. -/
def Sys2Proof.Claims.RetentionAndExpiry : Prop :=
  ∀ (s : State) (t b till : Nat), let x := s.tile t
    (mget .active x.ret b = .entering till →
      (till ≤ x.clk → Gives (.retentionEntryComplete t b) s (s.setTile t { x with ret := mput x.ret b .retained })) ∧
      (x.clk < till → Gives (.retentionEntryComplete t b) s s)) ∧
    (mget .active x.ret b = .leaving till →
      (till ≤ x.clk → Gives (.retentionExitComplete t b) s (s.setTile t { x with ret := mdel x.ret b, spret := x.spret &&& ~~~((1 : BitVec 32) <<< b) })) ∧
      (x.clk < till → Gives (.retentionExitComplete t b) s s)) ∧
    Gives (.l1LineExpiry t) s (s.setTile t { x with l1 := x.l1.filter fun l => decide (x.clk < l.fill + 4096) })

/-- R105, R106, R108: an error met in a granule of resident memory. A corrected error is recorded; an uncorrectable one poisons
the granule's 64 bytes and is recorded; the data bytes stay. UNIT says where the granule's frame stands. That the number names a granule
and that the scrub stands for the read that meets the error is the model's choice (notes/assumptions/75.md), and so is the extent of the
mark and of the record (notes/assumptions/26.md, notes/assumptions/86.md). -/
def Sys2Proof.Claims.PatrolScrubResults : Prop :=
  ∀ (s : State) (g : Nat), paExists s.form (64 * g) 64 = true →
    Gives (.patrolScrub g .clean) s s ∧
    (∃ u, Gives (.patrolScrub g .corrected) s u ∧ { u with log := s.log } = s ∧
      ∃ r ∈ u.log, r.kind = 1 ∧ r.addr = 64 * g ∧ r.unit = s.unitOf .phys (64 * g)) ∧
    (∃ u, Gives (.patrolScrub g .uncorrectable) s u ∧ u.phys = s.phys ∧ (∀ a, 64 * g ≤ a → a < 64 * g + 64 → u.poisoned .phys a 1 = true) ∧
      (∀ a, (a < 64 * g ∨ 64 * g + 64 ≤ a) → u.poisoned .phys a 1 = s.poisoned .phys a 1) ∧ 
      ∃ r ∈ u.log, r.kind = 2 ∧ r.addr = 64 * g ∧ r.unit = s.unitOf .phys (64 * g))

/-- R105, R106, R111, R112, R136. -/
def Sys2Proof.Claims.RetentionExpiryAndScrub : Prop := RetentionAndExpiry ∧ PatrolScrubResults

/-- R105, R106, R111, R112, R129, R136: the end of an instance, retention, expiry and the patrol, as the parts say. -/
def Obligations.InstanceEndRetentionAndScrub : Prop := InstanceEnds ∧ RetentionExpiryAndScrub


/-! ## Task-stream instructions -/

namespace Sys2Proof.Claims

/-- `i` decodes in `s` and gives `u`: the new, youngest entry of the window is `e`; the entry's number, TLI, address and
state; the retire view, the other contexts and the tiles stay. -/
def EntersWindow (i : Instr) (s u : State) (e : Entry) : Prop :=
  Gives i s u ∧ u.cx.entries = s.cx.entries ++ [e] ∧ e.sn = s.cx.nextSn ∧ e.tli = i ∧ e.addr = s.cx.dv.pos ∧ e.st = .wait ∧
    e.fault = none ∧ u.cx.nextSn = (s.cx.nextSn + 1) % 2 ^ 32 ∧ u.cx.rv = s.cx.rv ∧
    (∀ k, k ≠ s.cur.sub.ctx → u.ctx k = s.ctx k) ∧ u.tiles = s.tiles

/-- `i` faults at decode (R194): its entry is in FAULT with a code and OPND, and the position stays. -/
def FaultsAtDecode (i : Instr) (s : State) (code opnd : Nat) : Prop :=
  ∃ u e, Gives i s u ∧ u.cx.entries = s.cx.entries ++ [e] ∧ e.st = .fault ∧ e.fault = some (code, opnd, 0) ∧
    e.addr = s.cx.dv.pos ∧ u.cx.dv = s.cx.dv ∧ u.cx.rv = s.cx.rv ∧ u.tiles = s.tiles

/-- The position past a TLI (R222, R223). -/
def past (s : State) (t : Tli) : Word := s.cx.dv.pos + w64 (16 * tliUnits t.opnds.length)

/-- The task-stream instructions of the classes H, E and F, and TTRAP, TALLOC: those whose work comes after decode. -/
def workTlis (t : Tli) : List Instr :=
  [.ttrap .decode t, .tldy .decode t, .tsty .decode t, .talloc .decode t, .tlaunch .decode t, .tcopy .decode t, .tfill .decode t,
    .tfence .decode t, .tsync .decode t, .tprobe .decode t, .tmigr .decode t, .tacqr .decode t, .trelr .decode t,
    .twaitq .decode t, .tsigq .decode t, .trnginit .decode t, .tpark .decode t, .tseqnext .decode t, .tseqdone .decode t,
    .tkvappend .decode t, .tkvpin .decode t, .tkvunpin .decode t, .tpfxlook .decode t, .tpfxins .decode t]

end Sys2Proof.Claims

/-- R182, R185, R187: a TLI whose work comes after its decode enters the window with its ranges, its operands renamed, and
with the scalars that it takes at decode; decode goes on past it; no scalar is written. -/
def Obligations.TaskInstructionsEnterTheWindow : Prop :=
  ∀ (s : State) (t : Tli) (i : Instr), i ∈ workTlis t → s.cx.decodes = true →
    (∀ rs, s.gate s.cur.sub.ctx i = .go rs →
      ∃ u e, EntersWindow i s u e ∧ e.ranges = (s.cx.rename rs).2 ∧ e.sc = s.cx.taken (tliOpc i) t ∧ e.res = [] ∧
        (∀ f ∈ s.cx.entries, e.dependsOn f = true → f.sn ∈ e.deps) ∧
        u.cx.dv.pos = past s t ∧ u.cx.dv.stack = s.cx.dv.stack ∧ u.cx.decStop = s.cx.decStop ∧ (∀ n, u.cx.y n = s.cx.y n) ∧
        u.cx.dv.map = (s.cx.rename rs).1.dv.map ∧
        (tliWritesY (tliOpc i) t = true → u.cx.pending t.yd = true)) ∧
    (∀ k, s.gate s.cur.sub.ctx i = .stall k → Gives i s s) ∧
    (∀ code opnd, s.gate s.cur.sub.ctx i = .fail code opnd → FaultsAtDecode i s code opnd)

/-- R230: TSETY, TADDY, TSUBY and TCMPY write y[YD] at decode, and no other scalar. -/
def Sys2Proof.Claims.TaskScalarResults : Prop :=
  ∀ (s : State) (t : Tli), s.cx.decodes = true →
    let A := s.cx.y t.ya
    let I : Word := BitVec.ofNat 64 (t.w1.toNat + t.w2.toNat * 2 ^ 32)
    let B := if t.w3.getLsbD 0 then I else s.cx.y t.yb
    let P := bits t.w3.toNat 1 3
    let writes (i : Instr) (v : Word) : Prop := ∀ rs, s.gate s.cur.sub.ctx i = .go rs →
      ∃ u e, EntersWindow i s u e ∧ e.res = [(t.yd.toNat, v)] ∧ u.cx.y t.yd = v ∧ (∀ n, n ≠ t.yd → u.cx.y n = s.cx.y n) ∧
        u.cx.pending t.yd = false ∧ u.cx.dv.pos = past s t ∧ u.cx.dv.stack = s.cx.dv.stack
    writes (.tsety .decode t) I ∧ writes (.taddy .decode t) (A + B) ∧ writes (.tsuby .decode t) (A - B) ∧
    (P = 0 → writes (.tcmpy .decode t) (if A = B then 1 else 0)) ∧ (P = 1 → writes (.tcmpy .decode t) (if A = B then 0 else 1)) ∧
    (P = 2 → writes (.tcmpy .decode t) (if A.toInt < B.toInt then 1 else 0)) ∧
    (P = 3 → writes (.tcmpy .decode t) (if A.toInt ≤ B.toInt then 1 else 0)) ∧
    (P = 4 → writes (.tcmpy .decode t) (if A.toNat < B.toNat then 1 else 0)) ∧
    (P = 5 → writes (.tcmpy .decode t) (if A.toNat ≤ B.toNat then 1 else 0))

/-- R232, R233, R234: where decode goes after a TNOP, THALT, TBR, TBRC, TCALL, TRET or TFREE. A TCALL with sixteen
entries on the call stack, and a TRET with none, fault ILLEGAL. -/
def Sys2Proof.Claims.TaskControlResults : Prop :=
  ∀ (s : State) (t : Tli), s.cx.decodes = true →
    let target := s.cx.dv.pos + (t.w1.signExtend 64 <<< 4)
    let goes (i : Instr) (pos : Word) (stack : List Word) (stop : Bool) : Prop := ∀ rs, s.gate s.cur.sub.ctx i = .go rs →
      ∃ u e, EntersWindow i s u e ∧ u.cx.dv.pos = pos ∧ u.cx.dv.stack = stack ∧ u.cx.decStop = stop ∧ (∀ n, u.cx.y n = s.cx.y n)
    let st := s.cx.dv.stack
    let stop := s.cx.decStop
    goes (.tnop .decode t) (past s t) st stop ∧ goes (.thalt .decode t) (past s t) st true ∧ goes (.tbr .decode t) target st stop ∧
    (s.cx.y t.ya ≠ 0 → goes (.tbrc .decode t) (if t.w3.getLsbD 0 then past s t else target) st stop) ∧
    (s.cx.y t.ya = 0 → goes (.tbrc .decode t) (if t.w3.getLsbD 0 then target else past s t) st stop) ∧
    (st.length < 16 → goes (.tcall .decode t) target (past s t :: st) stop) ∧
    (16 ≤ st.length → ∀ rs, s.gate s.cur.sub.ctx (.tcall .decode t) = .go rs → FaultsAtDecode (.tcall .decode t) s 0x82 0x1F) ∧
    (∀ a r, st = a :: r → goes (.tret .decode t) a r stop) ∧
    (st = [] → ∀ rs, s.gate s.cur.sub.ctx (.tret .decode t) = .go rs → FaultsAtDecode (.tret .decode t) s 0x82 0x1F) ∧
    (∀ r rs, s.gate s.cur.sub.ctx (.tfree .decode t) = .go (r :: rs) →
      ∃ u e, EntersWindow (.tfree .decode t) s u e ∧ e.dealloc = some r.name ∧ e.ranges = [] ∧
        u.cx.dv.map = mdel s.cx.dv.map r.name ∧ u.cx.dv.pos = past s t)

/-- R230, R232 to R234: task-stream instructions that act at decode, as the parts say. -/
def Obligations.TaskScalarAndControlResults : Prop := TaskScalarResults ∧ TaskControlResults

/-- R56: no page of n bytes that the step's task is to write collapses, or must collapse first. -/
def Sys2Proof.Claims.HubMayWrite (s : State) (v : VA) (n : Nat) (ext : Bool) : Prop :=
  ∀ gs, (s.translateAll s.cur.sub.ctx none 4 .w ext (vaPieces v n)).2 = .ok gs → s.collapsing s.cur.sub.ctx gs = none

/-- R231, R233 to R238: the work of the tasks of buffers, launches, copies and order, for the running entry e of the task. A TSTY to
a read-duplicated page attaches to the page's collapse and is tried again (R56): that is the model's choice (notes/assumptions/73.md).
OPND of poison in an operand's bytes is 0x1F (notes/assumptions/93.md, the model's choice). What a TFENCE and a TSYNC order for the host
is the model's (notes/assumptions/84.md). -/
def Sys2Proof.Claims.BufferAndOrderTaskWork : Prop :=
  ∀ (s : State) (t : Tli) (e : Entry), s.running = some e →
    let c := s.cur.sub.ctx
    let n := (e.op 0).len
    Gives (.ttrap .run t) s (s.failTask c s.cur.sub.n 0x86 0x1F 0) ∧
    Gives (.talloc .run t) s (s.taskMade []) ∧ Gives (.tlaunch .run t) s (s.taskMade []) ∧
    Gives (.tfence .run t) s
      ((if t.w3.toNat % 8 = 4 then s.systemRelease c s.cur.sub.n else s.fencePast c s.cur.sub.n).taskMade []) ∧
    (∃ u : State, Gives (.tsync .run t) s (u.taskMade []) ∧ u.cx.syncCnt = s.cx.syncCnt + 1 ∧
      u.msix = (if t.w3.getLsbD 0 then s.msix ++ [(s.cx.port, t.w1.toNat % 2048)] else s.msix) ∧ u.tiles = s.tiles ∧ u.phys = s.phys ∧
      (∀ w ∈ u.unseen, w.ctx ≠ c ∨ w.lost = true ∨ (w.tasks ≠ [] ∧ w.past = false ∧ ∀ k ∈ w.tasks, s.cur.sub.n ≤ k))) ∧
    (∀ s1 b, s.vaRead c none 4 (s.opVA e 0) n .r = (s1, .ok b) →
      (b.any Prod.snd = false →
        Gives (.tldy .run t) s (s1.taskMade [(t.yd.toNat,
          if t.w3.getLsbD 0 then BitVec.ofInt 64 (sgn (8 * b.length) (leNat (b.map Prod.fst)))
          else BitVec.ofNat 64 (leNat (b.map Prod.fst)))])) ∧
      (b.any Prod.snd = true → Gives (.tldy .run t) s ((s1.hubConsumed s1.cur.sub.ctx (s.opVA e 0) n).taskFail 0x85 0)) ∧
      ∀ s2 y, HubMayWrite s1 (s1.opVA e 1) b.length (e.ext 1) → s1.taskStore (s1.opVA e 1) b (e.ext 1) = (s2, .ok y) →
        Gives (.tcopy .run t) s (s2.taskMade [])) ∧
    (∀ s1 y, HubMayWrite s (s.opVA e 0) n (e.ext 0) →
      s.taskStore (s.opVA e 0) ((leBytes n (nth 0 e.sc 0).toNat).map fun b => (b, false)) (e.ext 0) = (s1, .ok y) →
      Gives (.tsty .run t) s (s1.taskMade [])) ∧
    (∀ gs g, (s.translateAll c none 4 .w (e.ext 0) (vaPieces (s.opVA e 0) n)).2 = .ok gs → s.collapsing c gs = some g →
      Gives (.tsty .run t) s (s.stallWrite c g.va g.e ⟨hubWriter, 0, (s.opVA e 0).toNat, []⟩)) ∧
    (∀ s1 y, let w := 2 ^ (t.w3.toNat % 4)
      let v : Word := if t.w3.getLsbD 2 then nth 0 e.sc 0 else BitVec.ofNat 64 (t.w1.toNat + t.w2.toNat * 2 ^ 32)
      let bs := ((List.replicate (n / w) (leBytes w v.toNat)).flatten).map fun b => (b, false)
      HubMayWrite s (s.opVA e 0) bs.length (e.ext 0) → s.taskStore (s.opVA e 0) bs (e.ext 0) = (s1, .ok y) → Gives (.tfill .run t) s (s1.taskMade []))

/-- Whether the hub can read some bytes of its tables for the step's task: they translate, and hold no poison (R41, R109). -/
def Sys2Proof.Claims.Readable (s : State) (reads : List (VA × Nat)) : Prop :=
  ∀ p ∈ reads, ∃ u b, s.vaRead s.cur.sub.ctx none 4 p.1 p.2 .r = (u, .ok b) ∧ b.any Prod.snd = false

/-- R239 to R243: the work of the tasks of residency (once the header of the sequence that they name is read), shared ranges
(R18: one request of the table in a hub cycle, in arrival order), queues (of QFORM 0 with an operand, 1 with a scalar and 2 for a
notification) and range units. The model's choices: a name that PFORM, MFORM, QFORM or FORM may not give is ILLEGAL
(notes/assumptions/50.md); what TMIGR counts and waits for (notes/assumptions/51.md). -/
def Sys2Proof.Claims.ResidencyAndUnitTaskWork : Prop :=
  ∀ (s : State) (t : Tli) (e : Entry), s.running = some e →
    let c := s.cur.sub.ctx
    let illegal : State := s.failTask c s.cur.sub.n 0x82 0x1F 0
    let y (v : Word) : List (Nat × Word) := [(t.yd.toNat, v)]
    let z := s.afterReads (s.namedHdr t e.sc)
    (Readable s (s.namedHdr t e.sc) →
      (∀ l, z.probeItems t e = some l → l.length ≤ e.probed → Gives (.tprobe .run t) s (z.taskMade [])) ∧
      (∀ l p ps s1, z.probeItems t e = some l → l.drop e.probed = p :: ps →
        (∀ fva, z.hubProbe c p.va p.len p.k false e.sn = (s1, .fault fva) →
          Gives (.tprobe .run t) s (s1.failTask c e.sn 0x80 p.opnd fva)) ∧
        (∀ va, z.hubProbe c p.va p.len p.k false e.sn = (s1, .far va) →
          Gives (.tprobe .run t) s (s1.failTask c e.sn 0x80 p.opnd (s1.failPage c va))) ∧
        (ps = [] → z.hubProbe c p.va p.len p.k false e.sn = (s1, .ok) →
          Gives (.tprobe .run t) s ((s1.updTask fun e => { e with probed := e.probed + 1 }).taskMade []))) ∧
      (z.probeItems t e = none → Gives (.tprobe .run t) s (z.taskFail 0x82 0)) ∧
      (z.namedRanges t e.sc = none → Gives (.tmigr .run t) s (z.taskFail 0x82 0)) ∧
      (∀ l, z.namedRanges t e.sc = some l → tliForm t = 2 → 0x8000 ≤ t.w1.toNat % 2 ^ 16 →
        Gives (.tmigr .run t) s (z.taskFatal .access (VA.toNat ⟨t.w1.truncate 16, nth 0 e.sc 0⟩))) ∧
      (∀ l, z.namedRanges t e.sc = some l → (tliForm t = 2 → t.w1.toNat % 2 ^ 16 < 0x8000) →
        (z.pagesOf c l = [] → ∃ u : State, Gives (.tmigr .run t) s (u.taskMade (y 0)) ∧ u.tiles = z.tiles) ∧
        (∀ p, z.pagesOf c l = [p] → bits t.w3.toNat 2 2 = 0 → pteTier p.2 ≠ 0 →
          Gives (.tmigr .run t) s
            (((z.requestPromotion c p.1 none).updTask fun e => { e with asked := if t.w3.getLsbD 4 then [p.1] else [] }).taskMade (y 1))))) ∧
    (let base := (if t.w3.getLsbD 0 then nth 0 e.sc 0 else BitVec.ofNat 64 (t.w1.toNat + t.w2.toNat * 2 ^ 32)).toNat
     (s.shAt c base = none → e.inval = false → Gives (.tacqr .run t) s illegal ∧ Gives (.trelr .run t) s illegal) ∧
     (∀ r, s.shAt c base = some r → e.inval = false →
      (r.own = .host → Gives (.tacqr .run t) s s) ∧
      (s.ownTurn (some c) = false → (r.own ≠ .host → Gives (.tacqr .run t) s (s.ownWaits c)) ∧ Gives (.trelr .run t) s (s.ownWaits c)) ∧
      (s.ownTurn (some c) = true →
        let u := s.ownTaken (some c)
        u.ownAt = s.time / 15 + 1 ∧
        (r.own = .none → Gives (.tacqr .run t) s (u.ownChange r .device)) ∧
        (r.own = .device → Gives (.tacqr .run t) s (u.ownWarned.taskMade []) ∧ Gives (.trelr .run t) s (u.ownChange r .none)) ∧
        (r.own ≠ .device → Gives (.trelr .run t) s (u.ownWarned.taskMade [])))) ∧
     (e.inval = true → s.invalDone base = true → Gives (.tacqr .run t) s (s.taskMade []) ∧ Gives (.trelr .run t) s (s.taskMade [])) ∧
     (e.inval = true → s.invalDone base = false → Gives (.tacqr .run t) s s ∧ Gives (.trelr .run t) s s)) ∧
    (let qid := queueId t e.sc
     (s.taskQueue t e = none → Gives (.tsigq .run t) s illegal ∧ Gives (.twaitq .run t) s illegal) ∧
     (∀ q, s.taskQueue t e = some q →
      (tliForm t = 2 → Gives (.tsigq .run t) s ((s.queueNotify qid (nth 0 e.sc 1)).taskMade [])) ∧
      (tliForm t ≠ 2 → s.queueFull q = true → Gives (.tsigq .run t) s s) ∧
      (tliForm t = 1 → s.queueFull q = false →
        Gives (.tsigq .run t) s ((s.taskPush qid q (leBytes 8 (nth 0 e.sc 1).toNat)).taskMade [])) ∧
      (tliForm t = 0 → s.queueFull q = false → ∀ s1 b, s.vaRead c none 4 (s.opVA e 0) (e.op 0).len .r = (s1, .ok b) →
        (b.any Prod.snd = false → Gives (.tsigq .run t) s ((s1.taskPush qid q (b.map Prod.fst)).taskMade [])) ∧
        (b.any Prod.snd = true → Gives (.tsigq .run t) s ((s1.hubConsumed s1.cur.sub.ctx (s.opVA e 0) (e.op 0).len).taskFail 0x85 0))) ∧
      (tliForm t = 2 → nth 0 e.sc 1 = 0 → Gives (.twaitq .run t) s illegal) ∧
      (let m := s.queueMap qid
       let p := (m.queue? qid).getD PQueue.none
       let r := m.taskPop qid
       let h := m.queueHTN p
       let v := h.2.2 &&& nth 0 e.sc 1
       (tliForm t = 1 → m.queueHas p = true → HubMayWrite m (m.opVA e 0) 0 (e.ext 0) →
        Gives (.twaitq .run t) s (r.1.taskMade (y (w64 (leNat r.2))))) ∧
       (tliForm t = 0 → m.queueHas p = true → HubMayWrite m (m.opVA e 0) p.esz (e.ext 0) → HubMayWrite r.1 (m.opVA e 0) r.2.length (e.ext 0) →
        ∀ s1 z', r.1.taskStore (m.opVA e 0) (r.2.map fun b => (b, false)) (e.ext 0) = (s1, .ok z') →
          Gives (.twaitq .run t) s (s1.taskMade [])) ∧
       (tliForm t = 2 → nth 0 e.sc 1 ≠ 0 → v = 0 → Gives (.twaitq .run t) s m) ∧
       (tliForm t = 2 → nth 0 e.sc 1 ≠ 0 → v ≠ 0 →
        Gives (.twaitq .run t) s ((m.queueStore qid p h.1 h.2.1 (h.2.2 &&& ~~~(nth 0 e.sc 1))).taskMade (y v))) ∧
       (tliForm t ≠ 2 → m.queueHas p = false → Gives (.twaitq .run t) s m)))) ∧
    (let A := nth 0 e.sc 0
     let B := nth 0 e.sc 1
     let ok := A.toNat ≤ B.toNat ∧ t.w1 ≠ 0 ∧ t.w2.toNat % 2 ^ 16 ≠ 0
     let unit : RangeUnit := ⟨some c, A, B, t.w1.toNat, t.w2.toNat % 2 ^ 16⟩
     let n := bits t.w2.toNat 16 10
     (t.w3.toNat % 4 = 0 → ok → ∀ k, s.freeUnit c = some k →
      Gives (.trnginit .run t) s (({ s with units := mput s.units k unit } : State).taskMade (y (w64 k)))) ∧
     (t.w3.toNat % 4 = 0 → ¬ok → Gives (.trnginit .run t) s illegal) ∧
     (t.w3.toNat % 4 = 0 → ok → s.freeUnit c = none → Gives (.trnginit .run t) s (s.failTask c s.cur.sub.n 0x83 0x1F 0)) ∧
     (t.w3.toNat % 4 = 1 → ok → (mget RangeUnit.reset s.units n).ctx = some c →
      Gives (.trnginit .run t) s (({ s with units := mput s.units n unit } : State).taskMade [])) ∧
     (t.w3.toNat % 4 = 2 → (mget RangeUnit.reset s.units n).ctx = some c →
      Gives (.trnginit .run t) s (({ s with units := mdel s.units n } : State).taskMade [])))

/-- R245: the work of a serving instruction waits for its probes; here they are all made (`probed` counts them), and what it
reads of its tables can be read. -/
def Sys2Proof.Claims.Probed (s : State) (e : Entry) (spans reads : List (VA × Nat)) : Prop :=
  (spans.filter fun p => p.2 != 0).length ≤ e.probed - e.ranges.length ∧ Readable s reads

/-- R246 to R251: the work of the serving instructions, for the running entry e of the task: each is ILLEGAL in a context without sequences;
TPARK by the state of the mailbox, TSEQNEXT by the ready list, TSEQDONE, TKVPIN, TKVUNPIN, TKVAPPEND, TPFXLOOK and TPFXINS once
their probes are made. Each works on the state that its reads of its tables leave. The model's choices: what each instruction probes and
reads, and in which order (notes/assumptions/52.md), which the premises Probed and Readable name; that TPARK leaves GUSTS of a sequence in
PENDING (notes/assumptions/53.md) and waits for the gust writes of its hub cycle (notes/assumptions/88.md); that a page list past PLCAP is
ILLEGAL (notes/assumptions/50.md); OPND of these faults (notes/assumptions/93.md, notes/assumptions/49.md). -/
def Sys2Proof.Claims.ServingWork : Prop :=
  ∀ (s : State) (t : Tli) (e : Entry), s.running = some e →
    let c := s.cur.sub.ctx
    let x := s.cx
    let illegal : State := s.failTask c s.cur.sub.n 0x82 0x1F 0
    let n := (nth 0 e.sc 0).toNat
    let y (v : Word) : List (Nat × Word) := [(t.yd.toNat, v)]
    (x.serv.seqN = 0 → Gives (.tpark .run t) s illegal ∧ Gives (.tseqnext .run t) s illegal ∧ Gives (.tseqdone .run t) s illegal ∧
      Gives (.tkvappend .run t) s illegal ∧ Gives (.tkvpin .run t) s illegal ∧ Gives (.tkvunpin .run t) s illegal ∧
      Gives (.tpfxlook .run t) s illegal ∧ Gives (.tpfxins .run t) s illegal) ∧
    (x.serv.seqN ≠ 0 →
      (s.gustsDue = true → Gives (.tpark .run t) s s) ∧
      (let z := s.afterReads (x.hdrSpans [n])
       Readable s (x.hdrSpans [n]) → s.gustsDue = false →
        (∀ m, z.seqOk c n = true → x.mbox n = some m →
          (m.st = .pending → Gives (.tpark .run t) s
            (((z.setMbox c { m with st := .ready }).updCx fun x => x.readyAdd (z.time / 15 + 1) n).taskMade (y 1))) ∧
          (m.st = .idle ∨ m.st = .ready → ∃ (u : State) (m' : Mbox), Gives (.tpark .run t) s (u.taskMade (y 0)) ∧
            u = (z.setMbox c m').updCx (fun x => x.readyDrop (z.time / 15 + 1) n) ∧
            m'.sn = m.sn ∧ m'.va = m.va ∧ m'.st = .becalmed ∧ m'.gusts = 0 ∧ m'.pt = z.ticks) ∧
          (m.st = .becalmed ∨ m.st = .waking ∨ m.st = .wakefail → Gives (.tpark .run t) s (z.taskFail 0x82 0))) ∧
        (z.seqOk c n = false ∨ x.mbox n = none → Gives (.tpark .run t) s (z.taskFail 0x82 0))) ∧
      (x.readyL = [] →
        (t.w3.getLsbD 0 = true → Gives (.tseqnext .run t) s (s.taskMade (y 0xFFFF_FFFF_FFFF_FFFF))) ∧
        (t.w3.getLsbD 0 = false → Gives (.tseqnext .run t) s s)) ∧
      (∀ k r m, x.readyL = k :: r → x.mbox k = some m →
        Gives (.tseqnext .run t) s ((((s.updCx fun x => { x with readyL := r }).setMbox c { m with st := .idle })).taskMade (y (w64 k)))) ∧
      (let z := s.afterReads (x.hdrSpans [n])
       let sp := (z.seqHdr c n).listSpan 0 (z.seqHdr c n).npg :: x.serv.cntSpans (z.listed c n)
       let v := z.afterReads sp
       Readable s (x.hdrSpans [n]) →
        (z.seqOk c n = true → x.mstate n = .idle → Probed z e sp sp →
          Gives (.tseqdone .run t) s ((((v.listed c n).foldl (fun s p => s.unlist c p) v).setLenNpg c n 0 0).taskMade [])) ∧
        (z.seqOk c n = false ∨ x.mstate n ≠ .idle → Gives (.tseqdone .run t) s (z.taskFail 0x82 0))) ∧
      (∀ s1 b, s.vaRead c none 4 (s.opVA e 0) (e.op 0).len .r = (s1, .ok b) → b.any Prod.snd = false →
        let d := b.map Prod.fst
        (let ps := (leWords d).map BitVec.toNat
         let z := s1.afterReads (x.serv.cntSpans ps)
         Probed s1 e (x.serv.cntSpans ps) (x.serv.cntSpans ps) →
          (z.pinsOk c true ps = true → Gives (.tkvpin .run t) s ((ps.foldl (fun s p => s.pinOne c true p) z).taskMade [])) ∧
          (z.pinsOk c false ps = true → Gives (.tkvunpin .run t) s ((ps.foldl (fun s p => s.pinOne c false p) z).taskMade [])) ∧
          (z.pinsOk c true ps = false → Gives (.tkvpin .run t) s (z.taskFail 0x82 0)) ∧
          (z.pinsOk c false ps = false → Gives (.tkvunpin .run t) s (z.taskFail 0x82 0))) ∧
        (let items := kvItems d
         let hd := x.hdrSpans (items.map (·.seq))
         let z := s1.afterReads hd
         let v := z.afterReads (z.kvReads c items)
         Readable s1 hd → Probed z e (z.kvSpans c items) (z.kvReads c items) →
          (v.kvChecks c ⟨[], [], 0⟩ items = none → Gives (.tkvappend .run t) s (v.taskFail 0x82 0)) ∧
          ∀ a, v.kvChecks c ⟨[], [], 0⟩ items = some a →
            (a.need ≤ x.serv.kvFree → Gives (.tkvappend .run t) s ((items.foldl (fun s i => s.kvApply c i) v).taskMade [])) ∧
            (x.serv.kvFree < a.need → Gives (.tkvappend .run t) s (v.taskFail 0x83 0))) ∧
        (let hs := leDwords d
         let none' := x.serv.pfxVA.toNat = 0
         let reads := if none' then [] else s1.lookReads c hs
         let z := s1.afterReads reads
         Probed s1 e [] reads → ∀ s2 w,
          let r := if none' then (z, []) else z.pfxLookup c hs
          let out := r.2 ++ List.replicate (hs.length - r.2.length) 0xFFFF_FFFF
          let bs := (out.flatMap fun h => leBytes 4 h).map fun b => (b, false)
          HubMayWrite z (z.opVA e 1) (e.op 1).len (e.ext 1) → HubMayWrite r.1 (z.opVA e 1) bs.length (e.ext 1) →
          r.1.taskStore (z.opVA e 1) bs (e.ext 1) = (s2, .ok w) →
          Gives (.tpfxlook .run t) s (s2.taskMade (y (w64 r.2.length)))) ∧
        (let pr := (List.range (d.length / 16)).map fun k => leNat ((d.drop (16 * k)).take 16)
         let tc := s1.insTouches c (pr.map fun w => (bits w 0 64, bits w 64 32))
         let z := s1.afterReads tc.2
         ((∃ w ∈ pr, bits w 96 32 ≠ 0 ∨ x.serv.kvN ≤ bits w 64 32) → Gives (.tpfxins .run t) s (s1.taskFail 0x82 0)) ∧
         ((∀ w ∈ pr, bits w 96 32 = 0 ∧ bits w 64 32 < x.serv.kvN) →
          (x.serv.pfxVA.toNat = 0 → Gives (.tpfxins .run t) s (s1.taskMade (y 0))) ∧
          (x.serv.pfxVA.toNat ≠ 0 → Probed s1 e tc.1 tc.2 →
            let ins := pr.foldl (fun (a : State × Nat) w =>
              let i := a.1.pfxInsert c (bits w 0 64) (bits w 64 32)
              (i.1, a.2 + b2n i.2)) (z, 0)
            Gives (.tpfxins .run t) s (ins.1.taskMade (y (w64 ins.2))))))))

/-- R251: what an insert of hash h with page p writes, and whether it counts. An entry that holds h has its AGE renewed; a page
with PINC 65,535, and a window without a free or evictable entry, write nothing; else the first invalid entry, or the evictable one
of greatest age, is written, the entry evicted giving up its page first, and PINC of p goes up by one. -/
def Sys2Proof.Claims.PrefixInsertWrites : Prop :=
  ∀ (s : State) (c h p : Nat),
    let w := (s.ctx c).serv.window h
    let age (i : Nat) : Nat := (s.pepoch + 2 ^ 15 - (s.pfx c i).age) % 2 ^ 15
    let put (u : State) (i : Nat) : State × Bool :=
      let v := u.setPfx c i ⟨h, p, 0, u.pepoch, true⟩
      (v.setKvCount c p (v.kvCount c p).1 ((v.kvCount c p).2 + 1), true)
    (∀ i, s.pfxFind c h = some i → s.pfxInsert c h p = (s.setPfx c i { s.pfx c i with age := s.pepoch }, false) ∧
      i ∈ w ∧ (s.pfx c i).v = true ∧ (s.pfx c i).hash = h) ∧
    (s.pfxFind c h = none →
      ((s.kvCount c p).2 = 65535 → s.pfxInsert c h p = (s, false)) ∧
      (s.pfxSlot c h = none → s.pfxInsert c h p = (s, false)) ∧
      ((s.kvCount c p).2 ≠ 65535 → ∀ i, s.pfxSlot c h = some i →
        let o := s.pfx c i
        (o.v = false → s.pfxInsert c h p = put s i) ∧
        (o.v = true →
          let u := s.setPfx c i { o with v := false }
          let v := u.setKvCount c o.handle (u.kvCount c o.handle).1 ((u.kvCount c o.handle).2 - 1)
          s.pfxInsert c h p = put (if o.handle = p then v else v.freeKv c o.handle) i))) ∧
    (∀ i, s.pfxSlot c h = some i → i ∈ w ∧
      ((∃ j ∈ w, (s.pfx c j).v = false) → (s.pfx c i).v = false) ∧
      ((s.pfx c i).v = true → (s.pfx c i).pins = 0 ∧ ∀ j ∈ w, (s.pfx c j).pins = 0 → age j ≤ age i)) ∧
    (s.pfxSlot c h = none ↔ ∀ j ∈ w, (s.pfx c j).v = true ∧ (s.pfx c j).pins ≠ 0)

/-- R246 to R251: the work of the serving instructions, and what an insert in the prefix table writes, as the parts say. -/
def Obligations.ServingTaskWork : Prop := ServingWork ∧ PrefixInsertWrites

/-- R231, R233 to R243: the work of the other task-stream instructions, as the parts say. -/
def Obligations.TaskWork : Prop := BufferAndOrderTaskWork ∧ ResidencyAndUnitTaskWork

/-! ## The course of tasks -/

/-- R51 to R53, R190: the first operand, in entry order, that still has to be probed is probed; the others wait for it only
where it gets somewhere. -/
def Sys2Proof.Claims.OperandProbed : Prop :=
  ∀ (s u : State) (a b : List Entry) (e : Entry) (k : Nat) (r : Range), s.cx.issues = true → s.cx.entries = a ++ e :: b →
    (∀ f ∈ a, f.toProbe = none) → e.toProbe = some (k, r) → s.probeOperand s.cur.sub.ctx e k r = (u, true) →
    Gives .operandProbe s u

/-- R159 to R161, R235: the launch record of the oldest TLAUNCH that may be read. A valid one lets its gang be placed; one that is
misaligned or invalid faults ILLEGAL, one that holds poison faults POISON. -/
def Sys2Proof.Claims.LaunchRecordIsRead : Prop :=
  ∀ (s : State) (e : Entry), s.cx.toRead = some e → s.cx.issues = true →
    let c := s.cur.sub.ctx
    let t := tliOf e.tli
    let v : VA := ⟨t.w3.truncate 16, tliImm t⟩
    (v.off.toNat % 64 ≠ 0 → Gives .launchRecordRead s (s.failTask c e.sn 0x82 0x1F 0)) ∧
    (v.off.toNat % 64 = 0 → ∀ u b, s.vaRead c none 4 v 256 .r = (u, .ok b) →
      (b.any Prod.snd = true → Gives .launchRecordRead s ((u.hubConsumed c v 256).failTask c e.sn 0x85 0x1F 0)) ∧
      (b.any Prod.snd = false → recOk (b.map Prod.fst) e.ranges.length = false →
        Gives .launchRecordRead s (u.failTask c e.sn 0x82 0x1F 0)) ∧
      (b.any Prod.snd = false → recOk (b.map Prod.fst) e.ranges.length = true →
        Gives .launchRecordRead s (u.updEntry c e.sn fun f => { f with st := .place, lrec := b.map Prod.fst, placeAt := u.ticks })))

/-- R162: a gang that can be placed is handed its tiles, in GRANK order; one that no partition of free tiles could ever hold
faults; every tile chosen is one that the gang may have. -/
def Sys2Proof.Claims.GangIsPlaced : Prop :=
  (∀ (s : State), s.tripped = false → s.cx.issues = true → s.cx.preempting = false → s.cx.swapped = false →
    let c := s.cur.sub.ctx
    (∀ e ps, s.nextPlacing c s.cx.entries = some (e, .gang ps) →
      let u := s.handTiles c e ps
      let g : Gang := ⟨e.sn, ps.map Prod.fst, (recLevels e.lrec).map (·.count), false, false, []⟩
      Gives .gangPlacement s ((u.updEntry c e.sn fun f => { f with placed := true }).updCtx c fun x => { x with gangs := x.gangs ++ [g] })) ∧
    (∀ e, s.nextPlacing c s.cx.entries = some (e, .never) → Gives .gangPlacement s (s.failTask c e.sn 0x84 0x1F 0)) ∧
    (s.nextPlacing c s.cx.entries = none → Gives .gangPlacement s s)) ∧
  (∀ (ok : Nat → Bool) (ls : List Lev) ps, placeGang ok ls = some ps → ∀ p ∈ ps, ok p.1 = true)

/-- R162: a gang unplaced for 100 µs holds back younger ones. -/
def Sys2Proof.Claims.PlacementWaitExpires : Prop :=
  ∀ (s : State), ∃ u, Gives .placeWaitExpiry s u ∧ u.cx.entries.length = s.cx.entries.length ∧
    ∀ (k : Nat) (e : Entry), s.cx.entries[k]? = some e → u.cx.entries[k]? =
      some (if e.st = .place ∧ e.placed = false ∧ e.placeAt + 100 ≤ s.ticks then { e with blocks := true } else e)

/-- R119, R165, R235, R410: a tile of an issued launch gets its shape block and its operand block, poison carried; the gang's tiles go
when all of them have theirs. What came before the task has happened for the tile (R154; notes/assumptions/84.md). -/
def Sys2Proof.Claims.TileInstanceStarts : Prop :=
  ∀ (s u : State) (t : Nat) (e : Entry) (b : List (Byte × Bool)), (s.tile t).stat = .starting →
    (s.ctx (s.tile t).ctx).entry (s.tile t).task = some e → e.st = .run → e.started = true →
    let c := (s.tile t).ctx
    let sh := recShape e.lrec
    ((s.updTile t fun x => { x with icache := [] }).launchSees t).vaRead c none 4 (VA.ofNat (leNat ((e.lrec.drop 0x30).take 10))) sh.2 .r =
      (u, .ok b) →
    Gives (.tileStart t) s
      (let ob := ((u.ctx c).operandBlock e).map fun b => (b, false)
       ((((u.writeP (.spad t) sh.1 (b ++ ob) c).spadWrote t sh.1 (b ++ ob).length).updTile t fun x =>
        { x with stat := .loaded }).startGang c e.sn))

/-- R51 to R53, R119, R159 to R162, R165, R190, R235: from decode to the start of a gang, as the parts say. -/
def Obligations.OperandProbesAndLaunches : Prop :=
  OperandProbed ∧ LaunchRecordIsRead ∧ GangIsPlaced ∧ PlacementWaitExpires ∧ TileInstanceStarts

/-- R190, R192, R197: the oldest entry that may issue issues: a TLI of class D is done, another runs. A running task whose work
is complete is done, its gang released, and its scalars are no longer pending. The oldest entry, once done, retires. What the tasks
before an issuing one have written stands in its history (R154; notes/assumptions/84.md). -/
def Sys2Proof.Claims.TasksIssueEndAndRetire : Prop :=
  ∀ (s : State),
    (∀ e, s.cx.toIssue = some e →
      Gives .taskIssue s ((s.updCx fun x =>
        { x.updEntry e.sn fun e => { e with st := if e.cls = .D then .done else .run } with defIss := x.defIss - 1 }).taskLearn
          s.cur.sub.ctx e.sn e.deps (e.ranges.any fun r => r.mode == .EXT))) ∧
    (∀ e, s.cx.entry s.cur.sub.n = some e → s.workDone s.cur.sub.ctx e = true →
      ∃ u, Gives .taskDone s u ∧ (∀ g ∈ u.cx.gangs, g.sn ≠ s.cur.sub.n) ∧ u.cx.rv = s.cx.rv ∧ u.cx.dv.map = s.cx.dv.map ∧
        (∀ p, e.res = [p] → (u.cx.yPend.contains (p.1, s.cur.sub.n) = false) ∧
          (s.cx.yPend.contains (p.1, s.cur.sub.n) = true → mget 0 u.cx.dv.ys p.1 = p.2) ∧
          (s.cx.yPend.contains (p.1, s.cur.sub.n) = false → u.cx.dv.ys = s.cx.dv.ys))) ∧
    (∀ e r, s.cx.entries = e :: r → s.cx.st = .run → s.cx.fatal = none → e.st = .done →
      ∃ u, Gives .taskRetire s u ∧ u.cx.entries = r ∧ (∀ h ∈ u.cx.holds, h.sn ≠ e.sn) ∧ u.cx.dv = s.cx.dv ∧
        (∀ p, e.res = [p] → mget 0 u.cx.rv.ys p.1 = p.2) ∧ u.cx.rv.stack = e.retireStack s.cx.rv.stack ∧
        (∀ f q, r = f :: q → u.cx.rv.pos = f.addr) ∧ (r = [] → u.cx.rv.pos = s.cx.dv.pos) ∧
        (tliOpc e.tli = 0x01 → u.cx.st = .halted) ∧ (tliOpc e.tli ≠ 0x01 → u.cx.st = .run) ∧ u.tiles = s.tiles) ∧
    (∀ e r, s.cx.entries = e :: r → e.st ≠ .done → ∃ u, Gives .taskRetire s u ∧ u.cx = s.cx)

/-- R194, R195: a fault of the oldest entry, once every gang of its context has ended: the window is empty, the decode view is
the retire view at the faulting task, the context is FAULTED, and the record says what failed; a far page whose probe failed
is promoted: that is the model's choice (notes/assumptions/78.md: R50 leaves it to the firmware). FRAMEOFF is the model's
(notes/assumptions/33.md), and so is that a fault waits for the entries before it while younger ones issue (notes/assumptions/57.md). -/
def Sys2Proof.Claims.TaskFaultIsTaken : Prop :=
  ∀ (s : State) (e : Entry) (r : List Entry) (code opnd fva : Nat), s.cx.entries = e :: r → e.fault = some (code, opnd, fva) →
    s.cx.st = .run → s.cx.fatal = none → (s.stopGangs s.cur.sub.ctx).2 = true →
    ∃ v : State, let u := v.promoteFault s.cur.sub.ctx code fva
      Gives .takeFault s u ∧ u.cx.entries = [] ∧ u.cx.gangs = [] ∧ u.cx.holds = [] ∧ u.cx.yPend = [] ∧ u.cx.st = .faulted ∧
      u.cx.rv = s.cx.rv ∧ u.cx.dv = { s.cx.rv with pos := e.addr } ∧
      u.cx.frec = ⟨e.addr, code, opnd, false, e.sn, fva, e.frameOff, s.ticks⟩

/-- R194, R195, R199, R380: a fatal error of a context that is not DEAD yet: it is DEAD, its window is empty, and its record has
FATAL = 1 with the cause; FRAMEOFF is 0. -/
def Sys2Proof.Claims.FatalErrorEndsTheContext : Prop :=
  ∀ (s : State) (cause : Cause) (fva : Nat) (who : Option (Nat × Nat × Nat)), s.cx.fatal = some (cause, fva, who) → s.cx.st ≠ .dead →
    let w := who.getD (0, 0, 0x1F)
    ∃ u : State, Gives .fatalContextError s (u.leaveDead s.cur.sub.ctx) ∧ u.cx.st = .dead ∧ u.cx.entries = [] ∧
      u.cx.frec = ⟨BitVec.ofNat 64 w.1, causeCode cause, w.2.2, true, w.2.1, fva, 0, s.ticks⟩

/-- R50, R182, R223: what is no instruction at the decode position faults ILLEGAL; a far page of the stream is promoted. -/
def Sys2Proof.Claims.StreamWithoutInstruction : Prop :=
  ∀ (s : State), s.cx.decodes = true → (s.cx.entries.any fun e => e.st == .fault) = false → s.windowFull s.cur.sub.ctx = false →
    (∀ ws, s.fetchTli s.cur.sub.ctx = .words ws →
      (decodeTli ws = .unassigned → FaultsAtDecode .unassignedTli s 0x82 0x1F) ∧
      (∀ k, decodeTli ws = .illegal k → FaultsAtDecode .unassignedTli s 0x82 k)) ∧
    (∀ va, s.fetchTli s.cur.sub.ctx = .far va → Gives .unassignedTli s (s.requestPromotion s.cur.sub.ctx va none))

/-- R190, R192, R194, R195, R197, R223: issue, completion, retire and the faults of tasks, as the parts say. -/
def Obligations.TaskCourse : Prop :=
  TasksIssueEndAndRetire ∧ TaskFaultIsTaken ∧ FatalErrorEndsTheContext ∧ StreamWithoutInstruction

/-- R198: the turn of a context starts with its deficit grown by its class's quantum times its weight where it is eligible, and
0 where it is not; a turn goes to a context with a slot left and lasts while it has one. R158, R199: a QUEUED context becomes resident in
the lowest free slot, with its partition, once the clusters are free and the pool of window entries takes its saved ones
(R181); one that is kept out makes a FAULTED context with no tile in use leave residency (notes/assumptions/78.md). -/
def Obligations.ArbitrationAndLoading : Prop :=
  ∀ (s : State),
    (Gives .arbitrationRound s
      (let d := s.nextTurn true
       let u : State := { d.1 with turnDec := d.2 }
       let i := u.nextTurn false
       { i.1 with turnIss := i.2 })) ∧
    (∀ dec c, (s.nextTurn dec).2.head? = some c → (s.nextTurn dec).1.hasTurn dec c = true) ∧
    (∀ c r, s.turnDec = c :: r → s.hasTurn true c = true → s.nextTurn true = (s, c :: r)) ∧
    (∀ c, let q := nth 0 s.cf (s.ctx c).pclass * (s.ctx c).weight
      ((s.turnStart true c).ctx c).defDec = (if s.canDecode c = true then (s.ctx c).defDec + q else 0) ∧
      ((s.turnStart false c).ctx c).defIss = (if s.canIssue c = true then (s.ctx c).defIss + q else 0) ∧
      ∀ k, k ≠ c → (s.turnStart true c).ctx k = s.ctx k) ∧
    (∀ k, s.freeSlot = some k → s.cx.st = .queued → s.cx.destroying = false → s.partFree s.cur.sub.ctx = true →
      s.poolTakes s.cur.sub.ctx = true →
      k < 64 ∧ (s.ctxs.any fun p => p.2.resident && p.2.rslot == k) = false ∧
      ∃ u, Gives .contextLoad s u ∧ u.cx = { s.cx with
          st := .run, resident := true, residentAt := s.time, rslot := k, part := if s.cx.swapped then [] else s.cx.want } ∧
        ∀ c, c ≠ s.cur.sub.ctx → u.ctx c = s.ctx c) ∧
    ((s.freeSlot = none ∨ s.cx.st ≠ .queued ∨ s.cx.destroying = true ∨ s.partFree s.cur.sub.ctx = false ∨
        s.poolTakes s.cur.sub.ctx = false) →
      (s.faultedIdle s.cur.sub.ctx = none → Gives .contextLoad s s) ∧
      ∀ k, s.faultedIdle s.cur.sub.ctx = some k →
        ∃ u, Gives .contextLoad s u ∧ (s.ctx k).st = .faulted ∧ (u.ctx k).st = .faulted ∧ (u.ctx k).resident = false ∧ (u.ctx k).part = [])

/-! ## Host commands -/

namespace Sys2Proof.Claims

/-- The step's mailbox holds a command with an OPC that the firmware may serve, not waiting; the chip is not in recovery mode. -/
def Submitted (s : State) (opc : Nat) (m : Mailbox) : Prop :=
  s.mbx s.cur.sub.mb = m ∧ m.run = true ∧ m.waiting = false ∧ m.opc.toNat = opc ∧ s.cur.sub.mb ∈ s.servable ∧
    s.sec.recovery = false

/-- The step's mailbox holds such a command on the context c, which is live. -/
def SubmittedOn (s : State) (opc : Nat) (m : Mailbox) (c : Nat) (x : Context) : Prop :=
  Submitted s opc m ∧ m.ctx.toNat = c ∧ mget? s.ctxs c = some x ∧ x.destroying = false

/-- The commands that act on the context of their mailbox, with their codes. -/
def contextCommands : List (Nat × Instr) :=
  [(0x02, .ctxDestroy), (0x03, .ctxStart), (0x04, .ctxSuspend), (0x05, .ctxResume), (0x06, .ctxPreempt), (0x07, .ctxQuery),
    (0x08, .mcRead), (0x10, .mapPages), (0x11, .unmapPages), (0x12, .replicate), (0x18, .shrRegister), (0x19, .shrUnregister),
    (0x1A, .shrAcquire), (0x1B, .shrRelease), (0x20, .srvConfig), (0x21, .seqConfig), (0x22, .mbxRegister), (0x24, .wakeRetry),
    (0x25, .pfxPin), (0x28, .queueReg), (0x29, .queueUnreg), (0x30, .cntMap), (0x38, .linkOpen), (0x39, .linkClose),
    (0x40, .dbgBreak), (0x41, .dbgCont), (0x42, .dbgKill), (0x48, .imgLoad)]

/-- The other commands, with their codes; ATTEST and GUST among them. -/
def otherCommands : List (Nat × Instr) :=
  [(0x01, .ctxCreate), (0x23, .gust), (0x31, .cntAttrib), (0x32, .cxmConfig), (0x50, .attest)]

end Sys2Proof.Claims

/-- R390, R391, R422: what every command has in common. They are served in the order submitted; while a SHR command waits for its
turn at the shared-range table (R18) it holds back the SHR commands behind it and no other. GO submits; a GO while a command runs is ignored and logged; a command
completes with its results and STATUS and raises its vector if it asked for one; a code that is not assigned gives BADCMD; a command
on no context, NOCTX; in recovery mode a command but FW_UPDATE and QUERY gives AUTH. -/
def Obligations.MailboxProtocol : Prop :=
  ∀ (s : State) (mb : Nat),
    (∀ st res, let u := s.cmdEnd mb st res
      (u.mbx mb).status = st ∧ (u.mbx mb).run = false ∧ (u.mbx mb).waiting = false ∧
      (∀ (k : Nat) v, k < 4 → res[k]? = some v → mget 0 (u.mbx mb).res k = v) ∧ mb ∉ u.submitted ∧
      u.msix = (if (s.mbx mb).ien = true then s.msix ++ [(mb / 16, mb % 16)] else s.msix) ∧
      (∀ k, k ≠ mb → u.mbx k = s.mbx k) ∧ u.ctxs = s.ctxs ∧ u.tiles = s.tiles ∧ u.phys = s.phys) ∧
    (∀ v : BitVec 64, v.getLsbD 0 = true → mb < 32 →
      ((s.mbx mb).run = true → Gives (.registerWrite mb 0x80 v) s (s.logMgmt 0xFFFF mb)) ∧
      ((s.mbx mb).run = false → ∃ u, Gives (.registerWrite mb 0x80 v) s u ∧ (u.mbx mb).run = true ∧ u.submitted = s.submitted ++ [mb])) ∧
    (∀ (off : Nat) (v : BitVec 64), mb < 32 → off ≠ 0x80 → ∃ u, Gives (.registerWrite mb off v) s u ∧ u.mbx mb = (s.mbx mb).put off v ∧
      (∀ k, k ≠ mb → u.mbx k = s.mbx k) ∧ u.submitted = s.submitted) ∧
    (s.submitted.head? = some mb → mb ∈ s.servable) ∧ (none ∉ s.ownQ → (mb ∈ s.servable ↔ s.submitted.head? = some mb)) ∧
    (none ∈ s.ownQ → (mb ∈ s.servable ↔ (s.submitted.filter fun k => s.shCmd k == s.shCmd mb).head? = some mb)) ∧
    (∀ m, s.cur.sub.mb = mb → s.mbx mb = m → m.run = true → m.waiting = false → mb ∉ s.servable →
      Gives .badcmd s s ∧ ∀ p ∈ contextCommands ++ otherCommands, m.opc.toNat = p.1 → Gives p.2 s s) ∧
    (∀ m, s.cur.sub.mb = mb → s.mbx mb = m → m.run = true → m.waiting = false → mb ∈ s.servable →
      (assignedCommands.contains m.opc.toNat = false → s.sec.recovery = false → Gives .badcmd s (s.cmdEnd mb .badcmd [])) ∧
      (assignedCommands.contains m.opc.toNat = false → s.sec.recovery = true → Gives .badcmd s (s.cmdEnd mb .auth [])) ∧
      (∀ p ∈ contextCommands, m.opc.toNat = p.1 → s.sec.recovery = false → mget? s.ctxs m.ctx.toNat = none →
        Gives p.2 s (s.cmdEnd mb .noctx [])) ∧
      (∀ p ∈ contextCommands ++ otherCommands, m.opc.toNat = p.1 → s.sec.recovery = true → Gives p.2 s (s.cmdEnd mb .auth [])))

/-- R186, R199, R392: CTX_CREATE with arguments that are allowed makes a context with a handle of its own, CREATED, every buffer of its
arenas free in rising order, and a root node for its tables; with clusters that another context holds it is refused. Which context
holds clusters (notes/assumptions/41.md) and which handle is given (notes/assumptions/48.md) are the model's choice. -/
def Sys2Proof.Claims.ContextIsCreated : Prop :=
  ∀ (s : State) (m : Mailbox), Submitted s 0x01 m →
    let mask := leNat (m.bytes 0 16)
    let a4 := (m.arg 4).toNat
    let blk := s.hostRead (m.arg 5) 832
    (∀ tt ar tp h u root, m.va 2 = some tt → arenasOf (blk.take 768) = some ar → tierOf (blk.drop 768) = some tp → s.freeHandle = some h →
      m.arg 1 = 0 → m.arg 6 = 0 → bits a4 2 2 = 0 → bits a4 8 8 = 0 → bits a4 17 47 = 0 → bits a4 4 4 ≠ 0 →
      bits mask 0 128 = bits mask 0 (32 * s.form.dies) → (∀ k ∈ maskClusters mask, s.heldClusters.contains k = false) →
      tt.off.toNat % 64 = 0 → arenasApart ar = true → s.bufsInUse + (ar.map Prod.snd).sum ≤ 262144 →
      (s.setCtx h (newContext (s.cur.sub.mb / 16) (m.arg 0).toNat (maskClusters mask) m tt ar tp)).newNode h = some (u, root) →
      Gives .ctxCreate s ((u.updCtx h fun x => { x with root := root }).done [w64 h, w64 (0x400000 + 64 * h)])) ∧
    (∀ port cap want tt ar tp, let x := newContext port cap want m tt ar tp
      x.st = .created ∧ x.entries = [] ∧ x.resident = false ∧ x.arenas = ar ∧ x.dv = View.reset ∧ x.rv = View.reset ∧ x.want = want) ∧
    ((∃ k ∈ maskClusters mask, s.heldClusters.contains k = true) → Gives .ctxCreate s (s.refuse .reject))

/-- R196, R199: how CTX_START, CTX_RESUME, CTX_SUSPEND, CTX_PREEMPT and CTX_DESTROY change the state of a context, and where they find it
in another state than they may. The model's choices: when each of them answers (notes/assumptions/47.md), what a resume at a new
address sets (notes/assumptions/55.md), the order of the checks of CTX_START and CTX_RESUME (notes/assumptions/95.md). -/
def Sys2Proof.Claims.ContextStateCommands : Prop :=
  ∀ (s : State) (m : Mailbox) (c : Nat) (x : Context),
    (SubmittedOn s 0x03 m c x →
      (∀ v, m.va 0 = some v → v.off.toNat % 16 = 0 → (x.st = .created ∨ x.st = .halted) →
        ∃ u : State, Gives .ctxStart s (u.done []) ∧ u = (s.updCtx c fun x =>
          { x with
            st := if x.st = .created then .queued else .run
            space := v.space, dv := { x.dv with pos := v.off }, rv := { x.rv with pos := v.off }, decStop := false })) ∧
      (∀ v, m.va 0 = some v → x.st ≠ .created → x.st ≠ .halted → Gives .ctxStart s (s.refuse .busy))) ∧
    (SubmittedOn s 0x05 m c x →
      (m.va 0 = some ⟨0, 0⟩ → (x.st = .faulted ∨ x.st = .suspended) →
        Gives .ctxResume s ((s.updCtx c fun x => { x with st := if x.st = .faulted ∧ x.resident = true then .run else .queued }).done [])) ∧
      (∀ v, m.va 0 = some v → v.off.toNat % 16 = 0 → v.toNat ≠ 0 → (x.st = .faulted ∨ x.st = .suspended) →
        ∃ u : State, Gives .ctxResume s (u.done []) ∧ (u.ctx c).dv.pos = v.off ∧ (u.ctx c).space = v.space ∧
          (u.ctx c).entries = x.entries ∧ (u.ctx c).dv.ys = x.dv.ys ∧ (∀ k, k ≠ c → u.ctx k = s.ctx k)) ∧
      (∀ v, m.va 0 = some v → x.st ≠ .faulted → x.st ≠ .suspended → Gives .ctxResume s (s.refuse .busy))) ∧
    (SubmittedOn s 0x04 m c x →
      (x.st = .run → Gives .ctxSuspend s ((s.updCtx c fun x => { x with st := .draining }).cmdWait s.cur.sub.mb)) ∧
      (x.st ≠ .run → Gives .ctxSuspend s (s.refuse .busy))) ∧
    (SubmittedOn s 0x06 m c x →
      (x.st = .run → x.swapped = false → Gives .ctxPreempt s ((s.updCtx c fun x => { x with preempting := true }).done [])) ∧
      (x.st ≠ .run → Gives .ctxPreempt s (s.refuse .busy))) ∧
    (SubmittedOn s 0x02 m c x → Gives .ctxDestroy s ((s.beginDestroy c).cmdWait s.cur.sub.mb) ∧ ((s.beginDestroy c).ctx c).destroying = true)

/-- R378, R377, R381, R392: CTX_QUERY, MC_READ and the debugger's commands. The codes and words of CTX_QUERY
(notes/assumptions/17.md) and REJECT for DBG_BREAK with an index of 4 or more (notes/assumptions/59.md) are the model's choice. -/
def Sys2Proof.Claims.ContextReadAndDebugCommands : Prop :=
  ∀ (s : State) (m : Mailbox) (c : Nat) (x : Context),
    (SubmittedOn s 0x07 m c x →
      ∃ b : List Byte, Gives .ctxQuery s ((s.hostWrite (m.arg 0) b).done [w64 x.st.code]) ∧ b.length = 512 ∧ b.take 64 = x.frec.bytes ∧
        leNat ((b.drop 96).take 8) = x.syncCnt.toNat) ∧
    (SubmittedOn s 0x08 m c x →
      let n := min (m.arg 1).toNat x.mcq.length
      Gives .mcRead s
        (((s.hostWrite (m.arg 0) ((x.mcq.take n).flatMap LogRec.bytes)).updCtx c fun x => { x with mcq := x.mcq.drop n }).done
          [w64 n, w64 x.mclost])) ∧
    (SubmittedOn s 0x40 m c x →
      (4 ≤ (m.arg 0).toNat → Gives .dbgBreak s (s.refuse .reject)) ∧
      ((m.arg 0).toNat < 4 → m.arg 1 ≠ 0 → ∃ u : State, Gives .dbgBreak s (u.done []) ∧ mget 0 (u.ctx c).brks (m.arg 0).toNat = m.arg 1 ∧
        ∀ k, k ≠ (m.arg 0).toNat → mget? (u.ctx c).brks k = mget? x.brks k)) ∧
    (SubmittedOn s 0x41 m c x → Gives .dbgCont s (((s.heldTiles c).foldl (fun s t => s.firmwareResume t) s).done []) ∧
      ∀ t, t ∈ s.heldTiles c ↔ ∃ p ∈ s.tiles, p.1 = t ∧ p.2.ctx = c ∧ p.2.stat = .held) ∧
    (SubmittedOn s 0x42 m c x → ∀ t r, s.heldTiles c = [t] → (s.tile t).raised = some r → Gives .dbgKill s ((s.endKernel t r).done []))

/-- R186, R196, R199, R377, R378, R381, R392: the commands of contexts. -/
def Obligations.ContextCommandResults : Prop := ContextIsCreated ∧ ContextStateCommands ∧ ContextReadAndDebugCommands

/-- R15 to R19, R35 to R39, R55, R84, R85, R90, R429: MAP, UNMAP, REPLICATE, the shared ranges' commands, CNT_MAP, CNT_ATTRIB and CXM_CONFIG
with arguments that are allowed. A SHR_REGISTER whose range breaks a condition of R16 completes with REJECT and changes
nothing; one that breaks none adds the range. A range owned by DEVICE is BUSY for the host's commands. The model's choices: the one frame of the
counter page (notes/assumptions/15.md), the leaves of a shared range (notes/assumptions/28.md, notes/assumptions/83.md), the
frames taken (notes/assumptions/10.md). -/
def Obligations.MemoryCommandResults : Prop :=
  ∀ (s : State) (m : Mailbox) (c : Nat) (x : Context),
    (SubmittedOn s 0x10 m c x → ∀ v u, m.va 0 = some v →
      let e := (m.arg 3).toNat
      let k := (m.arg 4).toNat
      k ≠ 0 → pteV e = true → pteLeaf e = true → pteFrame e = 0 → pteRepl e = false → pteSize e < 12 → v.toNat % pageBytes (pteSize e) = 0 →
      privateRange v.toNat (k * pageBytes (pteSize e)) = true → s.mapPages c e k v.toNat (m.arg 2).toNat = some u → Gives .mapPages s (u.done [])) ∧
    (SubmittedOn s 0x11 m c x → ∀ v l, m.va 0 = some v → m.arg 4 ≠ 0 → s.toUnmap c (m.arg 4).toNat v.toNat = .ok l →
      Gives .unmapPages s ((l.foldl (fun s p => s.unmapPage c p.1 p.2) s).done []) ∧ l.length = (m.arg 4).toNat) ∧
    (SubmittedOn s 0x12 m c x → ∀ v e u fs, m.va 0 = some v → s.leaf c v.toNat = some e → pteTier e = 0 → pteRepl e = false → s.form.dies = 4 →
      pageBase v.toNat e = v.toNat → s.sharedFrames (pteFrame e * 4096) (pageBytes (pteSize e)) = false →
      s.takeCopies c (pteHS e) (pteFrame e * 4096) (pageBytes (pteSize e)) [1, 2, 3] = some (u, fs) →
      malformedPte u (pteWithCopies e fs) (leafLevel (pteSize (pteWithCopies e fs))) = false →
      fs.length = 3 ∧ ∃ w : State, Gives .replicate s (w.done []) ∧ w.phys = (u.rewrite c v.toNat (pteSize e) (pteWithCopies e fs)).phys) ∧
    (SubmittedOn s 0x18 m c x →
      let base := (m.arg 0).toNat
      let n := (m.arg 1).toNat
      let fits := base % 4096 = 0 ∧ n % 4096 = 0 ∧ 0 < n ∧ n ≤ 2 ^ 48 ∧ (∀ r ∈ s.ranges, r.ctx = c → meets base n r.base r.len = false) ∧
        (s.ranges.filter fun r => r.ctx == c).length < 1024 ∧ s.ranges.length < 16384
      (¬fits → Gives .shrRegister s (s.refuse .reject)) ∧
      (fits → base + n ≤ 2 ^ 64 → m.arg 2 = 0 →
        let r : ShRange := ⟨c, base, n, false, .host, 0⟩
        ∀ u, ({ s with ranges := s.ranges ++ [r] } : State).installRange r = some u → Gives .shrRegister s (u.done [])) ∧
      (fits → base + n ≤ 2 ^ 64 → m.arg 2 = 1 → ∀ pa, s.rangeFrame c n = some pa →
        let r : ShRange := ⟨c, base, n, true, .host, pa⟩
        ∀ u, ({ s.takeFrames pa (alignUp n 65536) 0 c with ranges := s.ranges ++ [r] } : State).installRange r = some u →
          ((u.done []).shAt c base).isSome = true → Gives .shrRegister s (u.done []))) ∧
    (∀ r, s.shAt c (m.arg 0).toNat = some r →
      (let w := s.ownTaken none
       (SubmittedOn s 0x19 m c x →
         (s.ownTurn none = false → Gives .shrUnregister s (s.ownWaits none)) ∧
         (s.ownTurn none = true → r.own = .device → Gives .shrUnregister s (w.refuse .busy)) ∧
         (s.ownTurn none = true → r.own ≠ .device →
           let v := if r.devMem then (w.removeRange r).dropFrames r.frame 0 r.ctx else w.removeRange r
           Gives .shrUnregister s (({ v with ranges := v.ranges.erase r } : State).done []))) ∧
       (SubmittedOn s 0x1A m c x →
         (s.ownTurn none = false → Gives .shrAcquire s (s.ownWaits none)) ∧
         (s.ownTurn none = true → r.own = .device → Gives .shrAcquire s (w.refuse .busy)) ∧
         (s.ownTurn none = true → r.own ≠ .device → Gives .shrAcquire s ((w.setOwn r.ctx r.base .host).done []))) ∧
       (SubmittedOn s 0x1B m c x →
         (s.ownTurn none = false → Gives .shrRelease s (s.ownWaits none)) ∧
         (s.ownTurn none = true → r.own = .device → Gives .shrRelease s (w.refuse .busy)) ∧
         (s.ownTurn none = true → r.own ≠ .device → Gives .shrRelease s ((w.setOwn r.ctx r.base .none).done []))))) ∧
    (SubmittedOn s 0x30 m c x → ∀ v u w pa, m.va 0 = some v → s.cntPA = some (u, pa) → v.toNat % 65536 = 0 → privateRange v.toNat 65536 = true →
      u.mapPage c v.toNat cntLeaf pa = some w →
      Gives .cntMap s (({ w with cntPages := w.cntPages ++ [(c, v)] } : State).done [])) ∧
    (Submitted s 0x31 m →
      (1 ≤ (m.arg 0).toNat → (m.arg 0).toNat ≤ 3 → (m.arg 1).toNat < 2 ^ 17 →
        Gives .cntAttrib s (({ s with attr := mput s.attr (m.arg 0).toNat (m.arg 1) } : State).done [])) ∧
      ((m.arg 0 = 0 ∨ 3 < (m.arg 0).toNat) → Gives .cntAttrib s (s.refuse .reject))) ∧
    (Submitted s 0x32 m →
      let n := (m.arg 1).toNat
      0 < n → n ≤ 2 ^ 32 → (m.arg 0).toNat % 4096 = 0 →
      (s.cxmUnits = [] → Gives .cxmConfig s (({ s with cxmBase := (m.arg 0).toNat, cxmLen := n * 4096 } : State).done [])) ∧
      (s.cxmUnits ≠ [] → Gives .cxmConfig s (s.refuse .busy)))

/-- R99, R102, R178, R244, R245, R249, R393 to R398, R430: SRV_CONFIG, SEQ_CONFIG, PFX_PIN, MBX_REGISTER, GUST, WAKE_RETRY, QUEUE_REG,
QUEUE_UNREG, LINK_OPEN and LINK_CLOSE with arguments that are allowed, and where some of them are refused. A table that the hub cannot
reach ends the context (R41, R50). The model's choices: REJECT of PFX_PIN, WAKE_RETRY and LINK_CLOSE in a wrong state (notes/assumptions/59.md),
what MBX_REGISTER keeps (notes/assumptions/53.md), the gust slot taken (notes/assumptions/14.md), the image that QUEUE_REG
writes (notes/assumptions/40.md). -/
def Obligations.ServingAndPortCommandResults : Prop :=
  ∀ (s : State) (m : Mailbox) (c : Nat) (x : Context),
    let n := (m.arg 0).toNat
    (SubmittedOn s 0x20 m c x → ∀ v, servOf (m.bytes 0 128) = some v →
      (x.st = .run → Gives .srvConfig s (s.refuse .reject)) ∧
      (x.st ≠ .run → s.servPages c v = true → ∃ u : State, Gives .srvConfig s (u.done []) ∧
        u = ((s.updCtx c fun x => { x with serv := v }).hubStore c v.kvFlVA
          ((List.range v.kvN).flatMap fun i => leBytes 4 (v.kvN - 1 - i))).hubStore c v.kvCntVA (List.replicate (4 * v.kvN) 0))) ∧
    (∀ va bs u y, s.vaWrite c none 4 va (bs.map fun b => (b, false)) true = (u, .ok y) → s.hubStore c va bs = u) ∧
    (∀ va bs u o fva, s.vaWrite c none 4 va (bs.map fun b => (b, false)) true = (u, .error (o, fva)) →
      (u.ctx c).fatal = none → ((s.hubStore c va bs).ctx c).fatal = some ((o.fatal true).getD .access, fva, none)) ∧
    (SubmittedOn s 0x21 m c x → n < x.serv.seqN → bits (leNat (m.bytes 0 40)) 144 48 = 0 → bits (leNat (m.bytes 0 40)) 272 48 = 0 →
      (∀ s' z u y, s.vaRead c none 4 (x.seqVA n) 64 .r = (s', .ok z) → (s.seqHdr c n).npg = 0 →
        s'.vaWrite c none 4 (VA.plus (x.seqVA n) 8) ((m.bytes 0 40).map fun b => (b, false)) true = (u, .ok y) →
        Gives .seqConfig s (u.done [])) ∧
      (∀ s' z, s.vaRead c none 4 (x.seqVA n) 64 .r = (s', .ok z) → (s.seqHdr c n).npg ≠ 0 → Gives .seqConfig s (s'.refuse .reject))) ∧
    (SubmittedOn s 0x25 m c x → x.serv.pfxVA.toNat ≠ 0 → n < 2 ^ x.serv.pfxLog →
      ∀ s' z, s.vaRead c none 4 (x.serv.pfxAt n) 16 .r = (s', .ok z) →
      ((s.pfx c n).v = true → m.arg 1 = 1 → (s.pfx c n).pins ≠ 65535 →
        Gives .pfxPin s ((s'.setPfx c n { s.pfx c n with pins := (s.pfx c n).pins + 1 }).done [])) ∧
      ((s.pfx c n).v = true → m.arg 1 = 0xFFFF_FFFF_FFFF_FFFF → (s.pfx c n).pins ≠ 0 →
        Gives .pfxPin s ((s'.setPfx c n { s.pfx c n with pins := (s.pfx c n).pins - 1 }).done [])) ∧
      ((s.pfx c n).v = false → Gives .pfxPin s (s'.refuse .reject))) ∧
    (SubmittedOn s 0x22 m c x → ∀ v slot, m.va 1 = some v → x.mbox n = none → s.freeGust = some slot → n < x.serv.seqN → v.off.toNat % 64 = 0 →
      s.onPages c v 64 pinnedExtw = true → (∀ b ∈ x.mboxes, b.va ≠ v) →
      ∃ (u : State) (b : Mbox), Gives .mbxRegister s ((u.setMbox c b).done [w64 slot]) ∧ b.sn = n ∧ b.slot = slot ∧ b.va = v ∧ b.st = .idle) ∧
    (Submitted s 0x23 m →
      (18 < (m.arg 3).toNat → Gives .gust s (s.refuse .reject)) ∧
      (1 ≤ (m.arg 3).toNat → (m.arg 3).toNat ≤ 18 → Gives .gust s (s.cmdWait s.cur.sub.mb)) ∧
      (∀ u st, m.arg 3 = 0 → (m.arg 1).toNat ≤ 3840 → bits (m.arg 2).toNat 1 31 = 0 →
        s.gustDeliver n (m.arg 1).toNat ((m.arg 2).toNat / 2 ^ 32) (m.bytes 0 (m.arg 1).toNat) ((m.arg 2).getLsbD 0) = some (u, st) →
        Gives .gust s (u.done (if (m.arg 2).getLsbD 0 then [w64 st] else [])))) ∧
    (SubmittedOn s 0x24 m c x →
      (∀ b, x.mbox n = some b → b.st = .wakefail →
        Gives .wakeRetry s ((((s.setMbox c { b with st := .waking }).stagePromotion c b.sn).wakeCheck c).done [])) ∧
      (x.mbox n = none → Gives .wakeRetry s (s.refuse .reject))) ∧
    (SubmittedOn s 0x28 m c x → ∀ v, m.va 1 = some v →
      let a3 := (m.arg 3).toNat
      let q : PQueue := { PQueue.none with ldepth := bits a3 0 5, esize := bits a3 5 2 }
      n < 2 ^ 32 → a3 < 2 ^ 7 → 4 ≤ q.ldepth → q.ldepth ≤ 16 → v.off.toNat % 64 = 0 →
      (s.onPages c v q.imageBytes fun e => pinnedExtw e && ptePR e) = true → s.queue? n = none →
      let k : PQueue := { q with regs := [(c, v)] }
      Gives .queueReg s
        (((s.setQueue n k).imgWrite k 0 (leBytes 8 (n + q.ldepth * 2 ^ 32 + q.esize * 2 ^ 37) ++ List.replicate 56 0)).done [])) ∧
    (SubmittedOn s 0x29 m c x →
      ((s.queue? n).filter (fun q => q.regFor c) = none → Gives .queueUnreg s (s.refuse .reject)) ∧
      (∀ q, s.queue? n = some q → q.regFor c = true →
        (s.queueBusy c n = true → Gives .queueUnreg s (s.refuse .busy)) ∧
        (s.queueBusy c n = false → Gives .queueUnreg s ((s.dropReg c n).done [])))) ∧
    (SubmittedOn s 0x38 m c x →
      (18 ≤ n → Gives .linkOpen s (s.refuse .reject)) ∧
      (n < 18 → (∃ d, (s.port n).ctx = some d ∧ d ≠ c) → Gives .linkOpen s (s.refuse .busy)) ∧
      (n < 18 → (s.port n).ctx = none →
        Gives .linkOpen s
          ((s.setPort n { Port.reset with ctx := some c, peer := m.arg 1, pctx := m.arg 2, peerOpen := (s.port n).peerOpen }).done [])) ∧
      (n < 18 → (s.port n).ctx = some c →
        Gives .linkOpen s
          ((s.setPort n { s.port n with failed := false, ctx := some c, peer := m.arg 1, pctx := m.arg 2 }).done []))) ∧
    (SubmittedOn s 0x39 m c x →
      (n < 18 → (s.port n).ctx = some c → Gives .linkClose s ((s.closePort n).done []) ∧ ((s.closePort n).port n) = Port.reset ∧
        (s.closePort n).tiles = mmap (fun _ x => x.unlink n) s.tiles) ∧
      ((18 ≤ n ∨ (s.port n).ctx ≠ some c) → Gives .linkClose s (s.refuse .reject)))

/-- R85, R391, R392, R402, R422 to R425: image loading, attestation, firmware update, queries, and the end of commands that wait. The
model's choices: the places of QUERY's results (notes/assumptions/74.md), IMG_LOAD's checks (notes/assumptions/45.md), the slots and
the signature of a firmware image (notes/assumptions/16.md), the identity key and the signature's number (notes/assumptions/44.md),
when CTX_DESTROY ends (notes/assumptions/47.md). -/
def Obligations.ImageSecurityAndWaitingCommands : Prop :=
  ∀ (s : State) (m : Mailbox) (c : Nat) (x : Context),
    (SubmittedOn s 0x48 m c x →
      let f := s.hostRead (m.arg 0) (m.arg 1).toNat
      (x.st ≠ .created → x.st ≠ .halted → x.st ≠ .suspended → Gives .imgLoad s (s.refuse .busy)) ∧
      ((x.st = .created ∨ x.st = .halted ∨ x.st = .suspended) →
        (imageOk f = false → Gives .imgLoad s (s.refuse .reject)) ∧
        (imageOk f = true → (m.arg 2).toNat < 2 ^ 16 → (x.sigreq = true ∨ fileNum f 0x18 8 ≠ 0) → imageSigned s.sec.running.keys f = false →
          Gives .imgLoad s (s.refuse .auth)) ∧
        (imageOk f = true → (m.arg 2).toNat < 2 ^ 16 → x.sigreq = false → fileNum f 0x18 8 = 0 → featsAgree f = true →
          ∀ u, s.loadSections c f ⟨(m.arg 2).truncate 16, m.arg 3⟩ (sectionsOf f) = (u, true) →
            ∀ q, ((sectionsOf f).find? fun q => q.type == 8) = some q → Gives .imgLoad s (u.done [m.arg 3 + w64 q.loff])))) ∧
    (Submitted s 0x50 m →
      let body := s.sec.report (s.hostRead (m.arg 0) 48)
      Gives .attest s ((s.hostWrite (m.arg 1) (body ++ signature s.sec.idKey s.freeScalar body)).done [])) ∧
    (Submitted s 0x51 m →
      (s.sec.updating ≠ none → Gives .fwUpdate s (s.refuse .busy)) ∧
      (s.sec.updating = none →
        Gives .fwUpdate s ((({ s with sec := { s.sec with updating := some s.cur.sub.mb } } : State)).cmdWait s.cur.sub.mb))) ∧
    (Submitted s 0x52 m →
      ∃ w : Word, bits w.toNat 0 4 = s.tiersPresent ∧
        Gives .query s (s.done [w, BitVec.ofNat 64 s.linksUp, (s.tile (m.arg 0).toNat).featmask]) ∧
        (s.tiersPresent.testBit 1 = s.form.hasLpm ∧ s.tiersPresent.testBit 3 = s.form.hasLpm)) ∧
    (s.mbx s.cur.sub.mb = m → m.run = true → m.waiting = true → m.ctx.toNat = c →
      (m.opc = 0x02 → s.destroyDone c = true → mget? s.ctxs c = some x → Gives .commandCompletion s ((s.removeCtx c).cmdEnd s.cur.sub.mb .ok [])) ∧
      (m.opc = 0x02 → s.destroyDone c = false → mget? s.ctxs c = some x → Gives .commandCompletion s s) ∧
      (m.opc = 0x04 → mget? s.ctxs c = some x → x.st ≠ .dead → x.drained = true → x.destroying = false →
        Gives .commandCompletion s ((s.suspended c).cmdEnd s.cur.sub.mb .ok [])) ∧
      (m.opc = 0x51 →
        let b := s.hostRead (m.arg 0) (m.arg 1).toNat
        (s.sec.signed b = false →
          Gives .commandCompletion s (({ s with sec := { s.sec with updating := none } } : State).cmdEnd s.cur.sub.mb .auth [])) ∧
        (s.sec.signed b = true → s.sec.svn ≤ (firmwareOf b).version → ∃ u : State, Gives .commandCompletion s (u.cmdEnd s.cur.sub.mb .ok []) ∧
          u.sec.slots = setNth s.sec.slots (1 - s.sec.active) (firmwareOf b) ∧ u.sec.pendingBoot = true ∧ u.sec.running = s.sec.running)))

/-! ## The Fuller, the walkers and the collapse of copies -/

/-- R40, R43, R44: a walker takes the oldest miss of its die; one that the shared TLB holds by now, and one whose page is not resident,
fill nothing. The oldest invalidation takes effect. That the queue holds prefetches alone (notes/assumptions/70.md) and where a walk
fills (notes/assumptions/71.md) are the model's choice. -/
def Sys2Proof.Claims.WalksAndInvalidations : Prop :=
  ∀ (s : State),
    (∀ c va r, (s.die s.cur.sub.die).missQ = (c, va) :: r →
      let d := s.cur.sub.die
      let u := s.updDie d fun x => { x with missQ := r }
      ((u.tlbHit (.shared d) c va).isSome = true → Gives .tlbWalk s u) ∧
      ((u.tlbHit (.shared d) c va) = none →
        let f := (u.countWalk d c va).walkFill d c va
        let own := if va / 2 ^ 64 = 0 then (f.shRange? c va).map (·.own) else none
        (∀ e, walkOn u d c va = .entry e → pteTier e = 0 → Gives .tlbWalk s (f.tlbFill [.shared d] c va e (copyBase e d) own)) ∧
        (∀ e, walkOn u d c va = .entry e → pteTier e ≠ 0 → Gives .tlbWalk s f) ∧
        ((∀ e, walkOn u d c va ≠ .entry e) → Gives .tlbWalk s f))) ∧
    ((s.die s.cur.sub.die).missQ = [] → Gives .tlbWalk s s) ∧
    (∀ q r, s.invQ = q :: r → Gives .invalidation s (({ s with invQ := r } : State).invalidate q)) ∧
    (s.invQ = [] → Gives .invalidation s s)

/-- R56: a collapse begins with the page's one copy; the writes that wait for it proceed when all four dies have answered. The record
of a collapse and its step of beginning are the model's (notes/assumptions/31.md). -/
def Sys2Proof.Claims.ReplicasCollapse : Prop :=
  ∀ (s : State),
    (∀ r, (s.collapses.find? fun q => q.ctx == s.cur.sub.ctx && q.va == s.cur.sub.n && !q.begun) = some r →
      ∃ u : State, Gives .collapse s u ∧ { u with collapses := [] } = { s.unreplicate r.ctx r.va r.pte with collapses := [] } ∧
        u.collapses = (s.unreplicate r.ctx r.va r.pte).collapses.map fun q => if q = r then { q with begun := true } else q) ∧
    (∀ r, s.collapses[s.cur.sub.k]? = some r → r.begun = true →
      let a := r.acks ||| ((1 : BitVec 4) <<< s.cur.sub.die)
      let u : State := { s with collapses := s.collapses.map fun q => if q = r then { r with acks := a } else q }
      (a = 0xF → Gives .collapseAck s (u.collapseEnd { r with acks := a })) ∧ (a ≠ 0xF → Gives .collapseAck s u))

/-- R88, R89: the counts restart at an epoch's end; a frame is requested for a swap once in an epoch; a swap begins with its group BUSY,
and ends with the two locations exchanged, unless one of the frames has become a replica (R55). That a frame asks once in an epoch is the
model's choice (notes/assumptions/32.md). -/
def Sys2Proof.Claims.CongruenceSwaps : Prop :=
  ∀ (s : State),
    (s.epoch ≠ 0 → s.epochAt + s.epoch ≤ s.ticks →
      Gives .epochExpiry s { s with hot := [], hotAsked := [], epochAt := s.epochStart } ∧
      s.epochStart ≤ s.ticks ∧ s.ticks < s.epochStart + s.epoch ∧ (s.epochStart - s.epochAt) % s.epoch = 0) ∧
    (s.epoch = 0 ∨ s.ticks < s.epochAt + s.epoch → Gives .epochExpiry s s) ∧
    (let p := groupOfPA (s.cur.sub.n * 65536)
     (s.swth ≠ 0 → s.swth ≤ mget 0 s.hot s.cur.sub.n → s.cur.sub.n ∉ s.hotAsked → s.swapAllowed p.1 p.2 = true →
       Gives .swapRequest s { s with hotAsked := s.hotAsked ++ [s.cur.sub.n], swapQ := s.swapQ ++ [⟨p.1, p.2⟩] }) ∧
     (mget 0 s.hot s.cur.sub.n < s.swth ∨ s.cur.sub.n ∈ s.hotAsked ∨ s.swapAllowed p.1 p.2 = false → Gives .swapRequest s s)) ∧
    (∀ q r, s.swapQ = q :: r → s.copies < 32 → s.demoQ = [] → s.swapAllowed q.group q.slot = true →
      ∃ u, Gives .swap s u ∧ (u.remapOf q.group).busy = true ∧ u.swaps = s.swaps ++ [q] ∧ u.swapQ = r ∧ u.phys = s.phys) ∧
    (∀ q, (s.swaps.find? fun q => q.group == s.cur.sub.n) = some q →
      let r := s.remapOf q.group
      let dup := s.replicaAt (slotPA q.group q.slot) || s.replicaAt (slotPA q.group r.top)
      (dup = true → Gives .swapComplete s { s with remap := mput s.remap q.group { r with busy := false }, swaps := s.swaps.erase q }) ∧
      (dup = false → ∃ u, Gives .swapComplete s u ∧ u.swaps = s.swaps.erase q ∧ u.phys = s.phys ∧
        u.remapOf q.group = (s.remapOf q.group).swapped q.slot ∧ (u.remapOf q.group).busy = false ∧
        (∀ g, g ≠ q.group → u.remapOf g = s.remapOf g)))

/-- R40, R43, R44, R56, R88, R89: walks, invalidations, collapses and swaps, as the parts say. -/
def Obligations.TranslationAndSwapEvents : Prop := WalksAndInvalidations ∧ ReplicasCollapse ∧ CongruenceSwaps

/-- R93, R95 to R98, R102, R200: which copy starts, and how a demotion, a move to FLT and a promotion end, are cancelled or fail. No copy
starts while 32 are under way; three starts may pass a waiting demotion. What FAR_WRITE_ERROR and a failing promotion leave
(notes/assumptions/36.md) and the far units taken (notes/assumptions/10.md) are the model's choice. -/
def Obligations.FullerCopies : Prop :=
  ∀ (s : State),
    (32 ≤ s.copies → Gives .fullerCopyStart s s ∧ Gives .demotion s s) ∧
    (s.copies < 32 → ∀ q r, s.demoQ = q :: r → 3 ≤ s.fullerTurn →
      let u := ({ s with demoQ := r } : State).startDemotion q
      let v := if u.copies = s.copies then u else { u with fullerTurn := 0 }
      Gives .fullerCopyStart s v ∧ Gives .demotion s v) ∧
    (s.copies < 32 → ∀ q r u, s.demoQ = [] → s.swapQ = [] → s.promoQ = q :: r →
      ({ s with promoQ := r } : State).startPromotion q = some u →
      Gives .fullerCopyStart s (if u.copies = s.copies then u else { u with fullerTurn := s.fullerTurn + 1 })) ∧
    (∀ q e u, s.leaf q.ctx q.va = some e → s.findUnits q.target (pageBytes (pteSize e) / 4096) = some u → s.farAvailable q.ctx q.target = true →
      pteTier e = 0 → s.eligible q.ctx (pageBase q.va e) e = true →
      s.startDemotion q =
        (s.pinUse q.ctx (pageBase q.va e) (pageBytes (pteSize e))).demoteStart q.ctx (pageBase q.va e) e q.target u) ∧
    (∀ c va n, (s.ctx c).serv.kvUnder va n = [] → s.pinUse c va n = s) ∧
    (∀ r, s.transit[s.cur.sub.k]? = some r →
      (r.st = .demoting →
        Gives .demotionComplete s
          (let u := (s.writeRun r.ctx r.va (pteSize r.pte) (pteAt r.pte r.target.tier r.unit)).dropFrames r.frame (pteHS r.pte) r.ctx
           { u with transit := u.transit.erase r })) ∧
      (r.st = .demoting2 →
        Gives .demoting2Complete s
          (let u := (s.writeRun r.ctx r.va (pteSize r.pte) (pteAt r.pte 2 r.unit)).freeUnits .cxm (pteFrame r.pte)
           { u with transit := u.transit.erase r })) ∧
      (r.st = .demoting →
        let u := (s.writeRun r.ctx r.va (pteSize r.pte) r.pte).freeUnits r.target r.unit
        Gives .demotionCancel s { u with transit := u.transit.erase r } ∧
        Gives .farWriteError s (({ u with transit := u.transit.erase r } : State).logErr 7 r.target.unitCode r.ctx r.unit)) ∧
      (r.st = .promoting →
        Gives .demotionCancel s s ∧ Gives .farWriteError s s ∧
        (let u := (s.copyBytes r.target.loc (s.farAt r.target r.unit) .phys r.frame r.len).countMove r.ctx (pteHS r.pte) r.frame r.len
         let v := (u.writeRun r.ctx r.va (pteSize r.pte) (pteAt r.pte 0 (r.frame / 4096))).freeUnits r.target r.unit
         Gives .promotionComplete s ((({ v with transit := v.transit.erase r } : State).wakeCheck r.ctx).ageAgain r.ctx r.va r.len)) ∧
        ((s.ctx r.ctx).mboxes = [] →
          Gives .promotionFail s
            ((({ s with transit := s.transit.erase r } : State).dropFrames r.frame (pteHS r.pte) r.ctx).logErr 6 r.target.unitCode r.ctx r.unit))))

/-- R99 to R102, R394: a gust write to a mailbox that waits makes its state PENDING or WAKING and counts; aging's steps come at their times
and examine the pages that they skipped again. The word stored and GUSTS up to 255 (notes/assumptions/39.md), and the lists of skipped
pages with their timers (notes/assumptions/37.md), are the model's choice. -/
def Obligations.GustWritesAndAging : Prop :=
  ∀ (s : State) (slot c : Nat) (m : Mbox),
    (s.slotOwner slot = some (c, m) →
      (∀ w : BitVec 64, w.getLsbD 0 = true → Gives (.gustWrite slot w) s (s.gustDo c m (w.toNat / 2 ^ 32))) ∧
      (∀ w : BitVec 64, w.getLsbD 0 = false → Gives (.gustWrite slot w) s (s.mboxPut c m.va w.toNat)) ∧
      (∀ w : BitVec 64, w.toNat % 2 ^ 32 = 1 → Gives (.gustSlotWrite slot w) s (s.gustDo c m (w.toNat / 2 ^ 32)))) ∧
    (s.slotOwner slot = none → ∀ w : BitVec 64, w.toNat % 2 ^ 32 = 1 → Gives (.gustSlotWrite slot w) s s) ∧
    (∀ w : BitVec 64, w.toNat % 2 ^ 32 ≠ 1 → Gives (.gustSlotWrite slot w) s (s.logMgmt 0xFFFF slot)) ∧
    (∀ rlen, let h := s.mboxPut c m.va (1 + rlen * 2 ^ 32)
      let k : Mbox := { m with gusts := min 255 (m.gusts + 1), rlast := rlen }
      (m.st = .idle → s.gustDo c m rlen = h.setMbox c { k with st := .pending }) ∧
      (m.st = .pending ∨ m.st = .waking ∨ m.st = .ready → s.gustDo c m rlen = h.setMbox c k) ∧
      (m.st = .becalmed ∨ m.st = .wakefail →
        s.gustDo c m rlen = ((h.setMbox c { k with st := .waking }).stagePromotion c m.sn).wakeCheck c)) ∧
    (∀ port rlen off bs last, (s.port port).failed = false → rlen ≤ 3840 →
      (∀ u n, s.gustDeliver slot rlen off (bs.take rlen) last = some (u, n) → Gives (.gustMessage port slot rlen off bs last) s u) ∧
      (s.gustDeliver slot rlen off (bs.take rlen) last = none → Gives (.gustMessage port slot rlen off bs last) s s)) ∧
    (∀ b, s.becalmed s.cur.sub.ctx s.cur.sub.n = some b →
      (s.dueD1 s.cur.sub.ctx b = true → Gives .agingD1 s (s.ageOut s.cur.sub.ctx b.sn (s.seqPages s.cur.sub.ctx b.sn))) ∧
      (s.dueD1 s.cur.sub.ctx b = false → Gives .agingD1 s s) ∧
      (s.dueD2 s.cur.sub.ctx b = true → Gives .agingD2 s (s.ageDeep s.cur.sub.ctx b.sn (s.seqPages s.cur.sub.ctx b.sn))) ∧
      (s.dueD2 s.cur.sub.ctx b = false → Gives .agingD2 s s) ∧
      (s.dueAgain1 b = true → b.skip2 = [] → Gives .agingRecheck s (s.ageOut s.cur.sub.ctx b.sn b.skip1)))

/-- R20, R21, R178, R393, R395, R396, R398, R427: what comes to the chip from outside it: the host's accesses, links, and (20_platform.md) the debug
port and the reset of a function. The model's choices: the number of a PEER_LINK_OPEN (notes/assumptions/98.md), the token and the reach of the
debug port (notes/assumptions/42.md, notes/assumptions/43.md), when the contexts of a reset function end (notes/assumptions/47.md),
which of two ranges is taken (notes/assumptions/83.md), what the host sees of a device write (notes/assumptions/84.md). -/
def Obligations.OutsideAccessResults : Prop :=
  ∀ (s : State),
    (∀ (ha : Nat) (r : ShRange), (s.ranges.find? fun r => r.devMem && r.base ≤ ha && ha < r.base + r.len) = some r →
      let pa := r.frame + (ha - r.base)
      let n := min (64 - ha % 64) (r.base + r.len - ha)
      (∀ b, r.own = .host →
        let d := b.take (r.base + r.len - ha)
        Gives (.hostCxlMem ha (some b)) s
          (((s.write .phys pa d 0xFFFF).countRun 0xFFFF 0 pa d.length).unseenCut (· == r.ctx) ha (ha + d.length))) ∧
      (r.own = .host → ∃ u, Gives (.hostCxlMem ha none) s u ∧ u = { s.countRun 0xFFFF 0 pa n with cxlResp := u.cxlResp } ∧
        u.cxlResp.length = n ∧
        (∀ k, k < n → u.cxlResp[k]? = some (s.hostSees (· == r.ctx) .phys (pa + k) (ha + k))) ∧
        (∀ k, (∀ w ∈ s.unseen, w.ctx = r.ctx → ¬(w.lo ≤ ha + k ∧ ha + k < w.hi)) →
          s.hostSees (· == r.ctx) .phys (pa + k) (ha + k) = (s.byte .phys (pa + k), s.poisoned .phys (pa + k) 1))) ∧
      (∀ b, r.own ≠ .host → Gives (.hostCxlMem ha (some b)) s (s.logMgmt r.ctx r.base)) ∧
      (r.own ≠ .host → ∃ u, Gives (.hostCxlMem ha none) s u ∧ { u with cxlResp := [] } = { s.logMgmt r.ctx r.base with cxlResp := [] } ∧
        u.cxlResp.length = n ∧ ∀ p ∈ u.cxlResp, p.2 = true)) ∧
    (∀ ha bs, (∀ r ∈ s.ranges, r.devMem = true → ¬(r.base ≤ ha ∧ ha < r.base + r.len)) →
      Gives (.hostCxlMem ha (some bs)) s ((s.write .host ha bs 0xFFFF).unseenCut (fun c => s.hostBacked c ha) ha (ha + bs.length)) ∧
      ∃ u, Gives (.hostCxlMem ha none) s u ∧ { u with cxlResp := [] } = { s with cxlResp := [] } ∧ u.cxlResp.length = 64 - ha % 64 ∧
        ∀ k, k < 64 - ha % 64 → u.cxlResp[k]? = some (s.hostSees (fun c => s.hostBacked c ha) .host (ha + k) (ha + k))) ∧
    (∀ (q : BitVec 32) (v : BitVec 64),
      (s.queue? q.toNat = none → Gives (.notify q v) s (s.logMgmt 0xFFFF q.toNat)) ∧
      ((s.queue? q.toNat).isSome = true → Gives (.notify q v) s (s.queueNotify q.toNat v)) ∧
      Gives (.queueUnmap q) s (s.queueUnmap q.toNat)) ∧
    (∀ (k strm : Nat) (bs : List Byte), let p := s.port k
      let old := mget [] p.rx strm
      (∀ c, p.ctx = some c → p.openFor c = true → old.length + bs.length ≤ 65536 →
        ∃ u, Gives (.streamBytesArrive k strm bs) s u ∧ mget [] (u.port k).rx strm = old ++ bs ∧
          (∀ n, n ≠ strm → mget [] (u.port k).rx n = mget [] p.rx n) ∧ (∀ n, n ≠ k → u.port n = s.port n) ∧ (u.port k).tx = p.tx) ∧
      (p.ctx = none → Gives (.streamBytesArrive k strm bs) s s) ∧
      (∀ n, ∃ u, Gives (.receiveQueueCredit k strm n) s u ∧ mget [] (u.port k).tx strm = (mget [] p.tx strm).drop n ∧ (u.port k).rx = p.rx) ∧
      (∃ u, Gives (.linkFailure k) s u ∧ (u.port k).failed = true ∧ (u.port k).rx = [] ∧ (u.port k).tx = [] ∧ (u.port k).peerOpen = none ∧
        u.tiles = mmap (fun _ x => x.unlink k) s.tiles ∧ ∀ n, n ≠ k → u.port n = s.port n) ∧
      (∀ (chip : BitVec 64) (x : Nat), ∃ u, Gives (.peerLinkOpen k chip x) s u ∧ (u.port k).peerOpen = some (chip, BitVec.ofNat 64 (x % 2 ^ 16), x / 2 ^ 16) ∧
        (u.port k).ctx = p.ctx)) ∧
    (∀ port, Gives (.functionLevelReset port) s
      ((s.ctxs.filter fun p => p.2.port == port && !p.2.destroying).foldl (fun s p => s.beginDestroy p.1) s)) ∧
    (∀ token, (s.sec.tokenOk token = false → Gives (.debugUnlock token) s s) ∧
      (s.sec.tokenOk token = true →
        let u : State := { s.clearTiles with sec := { s.sec with debugOpen := true, debugSeen := true } }
        Gives (.debugUnlock token) s ((mkeys s.ctxs).foldl (fun s c => s.removeCtx c) u) ∧
        ∀ p ∈ u.tiles, p.2.spad = [] ∧ p.2.acc = [] ∧ p.2.xs = [])) ∧
    (∀ (oa : Nat) (b : Byte), let p := opsParts oa
      (s.jtagReaches oa = false → Gives (.jtagOps oa none) s { s with jtagResp := [0] } ∧ Gives (.jtagOps oa (some b)) s s) ∧
      (s.jtagReaches oa = true →
        Gives (.jtagOps oa none) s { s with jtagResp := [((s.opsRead oa 1).headD (0, false)).1] } ∧
        (p.win < 2 → Gives (.jtagOps oa (some b)) s (s.opsWrite p.tile p.win p.off [(b, false)])) ∧
        (p.win = 2 → ∃ w : List Byte, Gives (.jtagOps oa (some b)) s (s.opsWrite p.tile 2 (p.off / 8 * 8) (w.map fun b => (b, false))) ∧
          w.length = 8 ∧ w[p.off % 8]? = some b ∧
          ∀ k, k < 8 → k ≠ p.off % 8 → w[k]? = (leBytes 8 ((s.tile p.tile).regWord (p.off / 8)).toNat)[k]?) ∧
        (2 < p.win → Gives (.jtagOps oa (some b)) s s)) ∧
      (s.sec.debugOpen = false → s.jtagReaches oa = false))

/-! ## Pre-emption and the platform -/

/-- R383 to R387: the out-swap of a die waits until every one of its tiles is ready, saves each with its gang and frees the tile, and fills
the die's shadow store, which drains; a partition whose clusters are free comes back, each of its gangs that finds room by itself,
the others later, and the OPS writes that its tiles have pending land (R29). The model's choices: the order of the out-swap, the store's
slots, the resume gang by gang (notes/assumptions/66.md), leases (notes/assumptions/58.md), which clusters are reclaimed (notes/assumptions/41.md). -/
def Obligations.PartitionPreemption : Prop :=
  ∀ (s : State), let c := s.cur.sub.ctx
    let d := s.cur.sub.die
    let ts := s.ctxTiles c d
    (ts.all s.swapReady = false → Gives .outSwap s s) ∧
    (s.cx.preempting = true → s.cx.fatal = none → ts.all s.swapReady = true → s.idleQuiet s.cx d = true →
      (ts = [] → Gives .outSwap s (s.swapEnd c)) ∧
      (ts ≠ [] → (s.die d).shadow.isSome = true → Gives .outSwap s s) ∧
      (ts ≠ [] → (s.die d).shadow = none →
        let u := ts.foldl (fun s t => s.saveTile c t) s
        let v := u.saveClusters c (s.cx.part.filter fun k => k / 32 == d)
        let slots := (ts.take 16).map fun t => (⟨(s.tile t).task, (s.tile t).grank.toNat⟩ : ShadowSlot)
        Gives .outSwap s ((v.updDie d fun q => { q with shadow := some c, slots := slots }).swapEnd c))) ∧
    (∀ t g, s.cx.gangs = [g] → g.sn = (s.tile t).task →
      let u := s.saveTile c t
      (u.ctx c).gangs = [{ g with frozen := true, saved := g.saved ++ [s.tile t] }] ∧ (u.tile t).stat = .idle ∧ (u.tile t).spad = (s.tile t).spad ∧
        (∀ k, k ≠ t → u.tile k = s.tile k)) ∧
    (∃ u, Gives .shadowDrain s u ∧ (u.die d).shadow = none ∧ (u.die d).slots = [] ∧ ∀ k, k ≠ d → u.die k = s.die k) ∧
    (∀ taken, ∀ p ∈ s.replace c taken s.cx.gangs, p.1 ∈ s.cx.gangs ∧ p.1.frozen = true ∧ ∀ k ∈ p.2, s.tileFree c k = true ∧ k ∉ taken) ∧
    (s.tripped = false → s.cx.swapped = true → s.cx.resident = true → s.cx.preempting = false → s.cx.st ≠ .draining → s.cx.st ≠ .dead →
      (s.partFree c = false → Gives .partitionResume s s) ∧
      (s.partFree c = true →
        let r := s.replace c [] s.cx.gangs
        let u := (r.foldl (fun s p => s.restoreGang c p.1 p.2) s).restoreClusters c (tileMoves r)
        let whole := !((u.ctx c).gangs.any (·.frozen))
        let v := u.updCtx c fun x =>
          { x with
            part := x.want, swapped := false, savedCl := if whole then [] else x.savedCl
            entries := x.entries.map fun e => if e.st = .frozen ∧ (x.gang e.sn).any (fun g => g.frozen) = false then { e with st := .run } else e }
        Gives .partitionResume s
          ((if whole then
              { v with dies := mmap (fun _ d => if d.shadow = some c then { d with shadow := none, slots := [] } else d) v.dies }
            else v).applyHeld (r.flatMap Prod.snd)))) ∧
    (∀ v, s.waitsForPart c = true → (s.ctxs.any fun p => p.2.preempting) = false → s.victim c = some v →
      Gives .clusterReclaim s (s.updCtx v fun x => { x with preempting := true }) ∧ (mrising s.ctxs = true → s.cx.pclass < (s.ctx v).pclass))

/-- R85, R420 to R422, R426: the snapshot point; the clock's steps; the thermal trip; cold reset. The model's choices: one step a sample, and
from when the 10 ms count (notes/assumptions/35.md), the record of a trip (notes/assumptions/43.md), what a cold reset keeps
(notes/assumptions/46.md), memory that nothing has written (notes/assumptions/2.md). -/
def Obligations.PlatformEvents : Prop :=
  ∀ (s : State),
    (s.snapDue = false → Gives .counterSnapshot s s) ∧
    (s.snapDue = true → ∃ u, Gives .counterSnapshot s u ∧ u.snapSeq = s.snapSeq + 2 ∧ u.snapTime = s.ticks ∧ u.snapAt = s.ticks * 18000 ∧
      u.tiles = s.tiles) ∧
    (let k := s.cur.sub.die
     let d := s.die k
     (s.stepsDown k = true → ∃ u, Gives .clockStepDown s u ∧ (u.die k).step = d.step + 1 ∧ (u.die k).step ≤ 3) ∧
     (s.stepsDown k = false → Gives .clockStepDown s s) ∧
     (s.stepsUp k = true → ∃ u, Gives .clockStepUp s u ∧ (u.die k).step + 1 = d.step ∧ d.coolSince + 180_000_000 ≤ s.time) ∧
     (s.stepsUp k = false → Gives .clockStepUp s s) ∧
     (d.temp < 95 * 16 → d.power ≤ 380 * 16 → s.stepsDown k = false)) ∧
    (s.tripDue = false → Gives .thermalTrip s s) ∧
    (s.tripDue = true →
      let u : State := { s.clearTiles with tripped := true }
      let v := u.residents.foldl (fun s c => s.tripCtx c) u
      Gives .thermalTrip s (({ v with dies := mmap (fun _ d => { d with shadow := none, slots := [], missQ := [] }) v.dies } : State).logMgmt 0xFFFF 0) ∧
      u.clusters = [] ∧ ∀ p ∈ u.tiles, p.2.stat = .idle ∧ p.2.xs = [] ∧ p.2.spad = [] ∧ p.2.acc = []) ∧
    (∃ u, Gives .coldReset s u ∧ u.ctxs = [] ∧ u.phys = [] ∧ u.mbxs = [] ∧ u.tripped = false ∧ u.host = s.host ∧
      u.form = s.form ∧ u.sec = s.sec.boot ∧ netFrameOk u.netFrame = true ∧ (∀ k < 9, chanFrameOk (u.chanTable k) = true) ∧ (∀ p ∈ u.tiles, ∃ q ∈ s.tiles, p.1 = q.1 ∧ p.2 = { Tile.reset with featmask := q.2.featmask })) ∧
    (∀ n, s.sec.boots (nth ⟨[], 0, []⟩ s.sec.slots n) = true → s.sec.active = n → s.sec.pendingBoot = false →
      s.sec.boot.active = n ∧ s.sec.boot.recovery = false ∧ s.sec.boot.running = nth ⟨[], 0, []⟩ s.sec.slots n ∧ s.sec.svn ≤ s.sec.boot.svn) ∧
    ((∀ n, s.sec.boots (nth ⟨[], 0, []⟩ s.sec.slots n) = false) → s.sec.boot.recovery = true)

/-! ## Decoding and encoding -/

/-- Words written out from the encodings of R222, R254 and R268 to R276 decode to what they stand for; a long form without its immediate word, an
opcode that the map leaves free, and a reserved operand bit are no instruction. -/
def Obligations.DecodedWords : Prop :=
  -- brc c3, +0x40
  decodeSyl ⟨0x8086_0010, none⟩ = .ok (.brc 0 3 false 16) ∧
  -- loop x16, level 0, immediate counts
  decodeSyl ⟨0x8141_0030, some 0x0005_0009⟩ = .ok (.loop 0 0 16 3 5 9) ∧
  decodeSyl ⟨0x8141_0030, none⟩ = .error .wrongForm ∧
  -- exit; setc c2; clrc c2
  decodeSyl ⟨0x0260_0000, none⟩ = .ok (.exit 0) ∧ decodeSyl ⟨0x02C2_0000, none⟩ = .ok (.setc 0 2) ∧
  decodeSyl ⟨0x02E2_0000, none⟩ = .ok (.clrc 0 2) ∧
  -- add x1, x10, x3 in its short and long forms; a reserved operand bit
  decodeSyl ⟨0x0400_8A06, none⟩ = .ok (.add 0 1 10 3) ∧ decodeSyl ⟨0x0400_8A00, some 0xFFFF_FFFF⟩ = .ok (.addLong 0 1 10 0xFFFF_FFFF) ∧
  decodeSyl ⟨0x0400_8A07, none⟩ = .error .reservedBits ∧
  -- cmp c3, x20, x21, LT; addi x20, x20, 1 with qualifier 1
  decodeSyl ⟨0x8846_50AA, none⟩ = .ok (.cmp 0 3 20 21 2) ∧ decodeSyl ⟨0xA90A_1401, none⟩ = .ok (.addi 1 20 20 1) ∧
  -- fma x5, x6, x7; fadd x9, x5, x10
  decodeSyl ⟨0x0CC2_860E, none⟩ = .ok (.fma 0 5 6 7 false) ∧ decodeSyl ⟨0x8C04_8514, none⟩ = .ok (.fadd 0 9 5 10 false) ∧
  -- a load, a copy with tag 9, mma q2, q3, bank 5, vfill
  decodeSyl ⟨0x10C1_8445, none⟩ = .ok (.ldD 0 3 4 true 5) ∧ decodeSyl ⟨0x14B9_2000, none⟩ = .ok (.cpyss 0 true true true 9) ∧
  decodeSyl ⟨0x1A51_0D40, none⟩ = .ok (.mma 0 false true 2 3 5) ∧ decodeSyl ⟨0x1991_0011, none⟩ = .ok (.vfill 0 false true 2 true 1) ∧
  decodeSyl ⟨0x1C32_8038, none⟩ = .ok (.azero 0 true true 5 7) ∧
  decodeSyl ⟨0x1D00_0000, none⟩ = .error .reservedOpcode ∧
  -- y3 := 5
  decodeTli [0x2080_3000, 5, 0, 0] = .instr (.tsety .decode ⟨3, 0, 0, 5, 0, 0, []⟩)

/-- R254, R267 to R276 and the layouts of chapters 12 to 14: for every well-formed tile instruction, with every operand at every value that its
field admits, decode of its encoding is the instruction. -/
def Obligations.SyllableDecodeOfEncode : Prop :=
  ∀ (i : Instr) (y : Syl), i.WellFormed → encodeSyl i = some y → decodeSyl y = .ok i

/-- R222, R223, R225, R226: for every well-formed task-stream instruction as it stands at decode, with all its operand descriptors, decode of its words is the
instruction. -/
def Obligations.TaskInstructionDecodeOfEncode : Prop :=
  ∀ (i : Instr) (opc : Nat) (t : Tli) (ws : List (BitVec 32)), i.WellFormed → i.tli? = some (opc, .decode, t) → encodeTli i = some ws →
    decodeTli ws = .instr i ∧ ws.length = 4 * tliUnits t.opnds.length

/-! ## Steps -/

/-- What a step is (notes/assumptions/3.md): the head of the cycle's list; else a slot of the hub; else the syllables of the next bundle that a
tile may issue, each in its slot; else a tick. A decode slot runs the TLI that stands at the decode position of the context
whose turn it is (R182, R198). -/
def Obligations.StepOrder : Prop :=
  ∀ (s : State), let s0 : State := { s with freeCtr := s.freeCtr + 1 }
    (∀ u i r, s.agenda = (u, i) :: r → step s = exec i { s0 with agenda := r, cur := { s.cur with sub := u } }) ∧
    (s.agenda = [] →
      (∀ s1 u i r, s0.nextSlot = (s1, (u, i) :: r) → step s = exec i { s1 with cur := { s1.cur with sub := u } }) ∧
      (∀ s1, s0.nextSlot = (s1, []) →
        (s1.nextIssue = none → step s = .next s1.tick) ∧
        (∀ v q is, s1.nextIssue = some (v, q, .run is) → ∀ w, runSyls (issueOrder is) (v.openBundle.takePorts is) = .next w →
          step s = .next (w.finish v.cur.tile)))) ∧
    (∀ c r ws i, s.turnDec = c :: r → s.hasTurn true c = true → s.fetchTli c = .words ws → decodeTli ws = .instr i →
      s.slotEvent true = [({ Subject.none with ctx := c }, i)])

/-- R252 to R256, R277: where nothing else is due, the first tile's first group is ready, and its next bundle has one syllable that decodes to the
instruction i and passes the checks of R277, and nothing holds it back, the step is exec of i in its slot, after the bundle is marked as
issued, and then the end of the bundle. -/
def Obligations.StepRunsTheDecodedInstruction : Prop :=
  ∀ (s s1 : State) (t k : Nat) (ts : List Nat) (q : Group) (gs : List Group) (b : Bundle) (y : Syl) (i : Instr),
    s.agenda = [] → s.slotsDec = 0 → s.slotsIss = 0 → s.tripped = false → mkeys s.tiles = t :: ts → (s.tile t).portOrder = q :: gs →
    (s.tile t).ready q = true →
    ({ s with freeCtr := s.freeCtr + 1, slotsDec := 0, slotsIss := 0 } : State).fetchBundle t ((s.tile t).groupSeq q).addr = (s1, .bundle b) →
    b.syls = [(k, y)] → decodeSyl y = .ok i →
    let u := s1.atBundle t q b
    let x := u.tile t
    i.featNeed &&& x.feat = i.featNeed → b.h.rsvd = 0 → b.h.scope ≤ 4 → b.h.iqlev ≠ 6 → b.formed = true → u.sylCollapse i = none →
    (x.lockstep = true ∨ ((b.h.slotList.all q.hasSlot) = true ∧ lockstepOnly i = false)) →
    slotOk b (x.groupSeq q).loops.length k y i = true → crossOk [i] = true → u.breakAt t q = none → u.sylStalls k i = false →
    x.portsOk [(k, i)] = true →
    ∀ v, exec i ((u.openBundle.takePorts [(k, i)]).atSlot k) = .next v → step s = .next (v.finish t)

/-- Every step of every state answers a next state: no step faults or is refused. What the spec has a program do wrong is taken as one of the
machine's own exceptions, or is a free value (notes/assumptions/5.md). -/
def Obligations.EveryStepCompletes : Prop :=
  (∀ (i : Instr) (s : State), ∃ t, exec i s = .next t) ∧ ∀ s : State, ∃ t, step s = .next t

/-- Every step keeps every memory in its canonical form (addresses rising, no byte listed that reads as an unlisted one):
resident memory, the far tiers, host memory, every scratchpad and every accumulator array, saved ones among them (notes/assumptions/2.md). -/
def Obligations.MemoryStaysCanonical : Prop :=
  ∀ s t : State, MemoryCanonical s → step s = .next t → MemoryCanonical t

/-- Every step keeps the groups of every tile well formed, as the spec says that they are: each has a number of its own, 0 to 7, and
every slot is in exactly one group (R166, R167, R169), through forks, merges, handlers and pre-emption; and no engine's queue
comes to hold more than 16 commands (R261). -/
def Obligations.TilesStaySound : Prop :=
  ∀ s t : State, TilesSound s → step s = .next t → TilesSound t

/-- Reset: the canonical form; sound tiles; no context, no mailbox command, no tile instance; R78, R86, R131, R198, R382: the default frame tables, identity
remap, the class factors 8, 4, 2, 1 and the default watchdog limit, and, as this model chooses them, registers, memory and fuses (notes/assumptions/1.md, 2.md, 12.md, 16.md). -/
def Obligations.ResetValues : Prop :=
  MemoryCanonical State.reset ∧ TilesSound State.reset ∧ State.reset.ctxs = [] ∧ State.reset.submitted = [] ∧ State.reset.agenda = [] ∧
    (∀ t, State.reset.tile t = Tile.reset) ∧ Tile.reset.stat = .idle ∧ (∀ r, mget 0 Tile.reset.xs r = 0) ∧ Tile.reset.cs = 0 ∧
    (∀ g, (State.reset.remapOf g).loc = [0, 1, 2, 3, 4]) ∧ State.reset.cf = [8, 4, 2, 1] ∧ State.reset.wdogDef = 4096 ∧
    State.reset.netFrame = 0xC000_4000_8000_4000 ∧ (∀ k, State.reset.chanTable k = State.reset.chanFrame) ∧ netFrameOk State.reset.netFrame = true ∧
    chanFrameOk State.reset.chanFrame = true ∧
    (∀ l a, l ≠ .flt → State.reset.byte l a = 0) ∧ State.reset.sec.debugOpen = false ∧ State.reset.tripped = false
end

