-- ==== Sys2Proof/Laws/Maps.lean ====
section
/-! SUPPORT. Lookup after update in a sparse map, and the canonical form of memories: every operation on bytes keeps it. -/
namespace Sys2Proof.Machine

/-! ## Lookup -/

@[simp] theorem mget_nil {α : Type} (d : α) (a : Nat) : mget d [] a = d := rfl

@[simp] theorem mget?_nil {α : Type} (a : Nat) : mget? ([] : SMap α) a = none := rfl

/-- A key put reads as the value put. -/
@[simp] theorem mget_mput_same {α : Type} (d : α) (m : SMap α) (a : Nat) (v : α) : mget d (mput m a v) a = v := by
  induction m with
  | nil => simp [mput, mget]
  | cons p m ih =>
    obtain ⟨k, w⟩ := p
    unfold mput
    split
    · simp [mget]
    · split
      · simp [mget]
      · rename_i h1 h2
        simp [mget, show k ≠ a from fun h => h2 h.symm, ih]

/-- A put leaves every other key alone. -/
theorem mget_mput_ne {α : Type} (d : α) (m : SMap α) {a b : Nat} (v : α) (h : b ≠ a) : mget d (mput m a v) b = mget d m b := by
  induction m with
  | nil => simp [mput, mget, Ne.symm h]
  | cons p m ih =>
    obtain ⟨k, w⟩ := p
    unfold mput
    split
    · simp [mget, Ne.symm h]
    · split
      · rename_i h1 h2
        subst h2
        simp [mget, Ne.symm h]
      · simp only [mget]
        split
        · rfl
        · exact ih

/-- A key put is listed with the value put. -/
@[simp] theorem mget?_mput_same {α : Type} (m : SMap α) (a : Nat) (v : α) : mget? (mput m a v) a = some v := by
  induction m with
  | nil => simp [mput, mget?]
  | cons p m ih =>
    obtain ⟨k, w⟩ := p
    unfold mput
    split
    · simp [mget?]
    · split
      · simp [mget?]
      · rename_i h1 h2
        simp [mget?, show k ≠ a from fun h => h2 h.symm, ih]

/-- A put leaves every other key as it was listed. -/
theorem mget?_mput_ne {α : Type} (m : SMap α) {a b : Nat} (v : α) (h : b ≠ a) : mget? (mput m a v) b = mget? m b := by
  induction m with
  | nil => simp [mput, mget?, Ne.symm h]
  | cons p m ih =>
    obtain ⟨k, w⟩ := p
    unfold mput
    split
    · simp [mget?, Ne.symm h]
    · split
      · rename_i h1 h2
        subst h2
        simp [mget?, Ne.symm h]
      · simp only [mget?]
        split
        · rfl
        · exact ih

/-- A map that lists a key reads as the value listed. -/
theorem mget_of_mget? {α : Type} (d : α) {m : SMap α} {a : Nat} {v : α} (h : mget? m a = some v) : mget d m a = v := by
  induction m with
  | nil => simp [mget?] at h
  | cons p m ih =>
    obtain ⟨k, w⟩ := p
    simp only [mget?, mget] at *
    split at h
    · rename_i e; simp [e]; simpa using h
    · rename_i e; simp [e]; exact ih h

/-- An unlisted key reads as the default. -/
theorem mget_of_none {α : Type} (d : α) {m : SMap α} {a : Nat} (h : mget? m a = none) : mget d m a = d := by
  induction m with
  | nil => rfl
  | cons p m ih =>
    obtain ⟨k, w⟩ := p
    simp only [mget?, mget] at *
    split at h
    · cases h
    · rename_i e; simp [e]; exact ih h

/-! ## Rising keys -/

/-- A bound below every key. -/
def mabove {α : Type} (a : Nat) (m : SMap α) : Prop := ∀ p ∈ m, a < p.1

theorem mrising_cons {α : Type} (a : Nat) (v : α) (m : SMap α) : mrising ((a, v) :: m) = true ↔ mabove a m ∧ mrising m = true := by
  induction m generalizing a v with
  | nil => simp [mrising, mabove]
  | cons p m ih =>
    obtain ⟨b, w⟩ := p
    simp only [mrising, Bool.and_eq_true, decide_eq_true_eq]
    constructor
    · rintro ⟨h, r⟩
      refine ⟨?_, r⟩
      intro q hq
      cases hq with
      | head => exact h
      | tail _ hq => exact Nat.lt_trans h ((ih b w).1 r |>.1 q hq)
    · rintro ⟨h, r⟩
      exact ⟨h (b, w) (List.mem_cons_self ..), r⟩

theorem mabove_mput {α : Type} {a : Nat} {m : SMap α} {k : Nat} (v : α) (h : mabove a m) (hk : a < k) : mabove a (mput m k v) := by
  induction m with
  | nil => intro p hp; simp [mput] at hp; subst hp; exact hk
  | cons q m ih =>
    obtain ⟨b, w⟩ := q
    have hb : a < b := h (b, w) (List.mem_cons_self ..)
    have hm : mabove a m := fun p hp => h p (List.mem_cons_of_mem _ hp)
    unfold mput
    split
    · intro p hp
      cases hp with
      | head => exact hk
      | tail _ hp => exact h p hp
    · split
      · intro p hp
        cases hp with
        | head => exact hk
        | tail _ hp => exact hm p hp
      · intro p hp
        cases hp with
        | head => exact hb
        | tail _ hp => exact ih hm p hp

/-- A put keeps the keys rising. -/
theorem mrising_mput {α : Type} {m : SMap α} (a : Nat) (v : α) (h : mrising m = true) : mrising (mput m a v) = true := by
  induction m with
  | nil => rfl
  | cons p m ih =>
    obtain ⟨k, w⟩ := p
    have hk := (mrising_cons k w m).1 h
    unfold mput
    split
    · rename_i hlt
      refine (mrising_cons _ _ _).2 ⟨?_, h⟩
      intro q hq
      cases hq with
      | head => exact hlt
      | tail _ hq => exact Nat.lt_trans hlt (hk.1 q hq)
    · split
      · rename_i e; subst e
        exact (mrising_cons _ _ _).2 hk
      · exact (mrising_cons _ _ _).2 ⟨mabove_mput v hk.1 (by omega), ih hk.2⟩

theorem mem_mdel {α : Type} {m : SMap α} {a : Nat} {p : Nat × α} (h : p ∈ mdel m a) : p ∈ m := by
  induction m with
  | nil => exact h
  | cons q m ih =>
    obtain ⟨k, w⟩ := q
    unfold mdel at h
    split at h
    · exact List.mem_cons_of_mem _ h
    · cases h with
      | head => exact List.mem_cons_self ..
      | tail _ h => exact List.mem_cons_of_mem _ (ih h)

/-- Deleting a key keeps the keys rising. -/
theorem mrising_mdel {α : Type} {m : SMap α} (a : Nat) (h : mrising m = true) : mrising (mdel m a) = true := by
  induction m with
  | nil => rfl
  | cons p m ih =>
    obtain ⟨k, w⟩ := p
    have hk := (mrising_cons k w m).1 h
    unfold mdel
    split
    · exact hk.2
    · exact (mrising_cons _ _ _).2 ⟨fun q hq => hk.1 q (mem_mdel hq), ih hk.2⟩

/-- A filter keeps the keys rising. -/
theorem mrising_filter {α : Type} {m : SMap α} (f : Nat × α → Bool) (h : mrising m = true) : mrising (m.filter f) = true := by
  induction m with
  | nil => rfl
  | cons p m ih =>
    obtain ⟨k, w⟩ := p
    have hk := (mrising_cons k w m).1 h
    simp only [List.filter_cons]
    split
    · exact (mrising_cons _ _ _).2 ⟨fun q hq => hk.1 q (List.mem_filter.1 hq).1, ih hk.2⟩
    · exact ih hk.2

/-- A key below every listed key is not listed. -/
theorem mget_of_mabove {α : Type} (d : α) {m : SMap α} {a : Nat} (h : mabove a m) : mget d m a = d := by
  induction m with
  | nil => rfl
  | cons p m ih =>
    obtain ⟨k, w⟩ := p
    have hk : a < k := h (k, w) (List.mem_cons_self ..)
    simp only [mget]
    rw [if_neg (by omega)]
    exact ih fun q hq => h q (List.mem_cons_of_mem _ hq)

/-- In a map of rising keys, a deleted key reads as the default. -/
theorem mget_mdel_same {α : Type} (d : α) {m : SMap α} {a : Nat} (h : mrising m = true) : mget d (mdel m a) a = d := by
  induction m with
  | nil => rfl
  | cons p m ih =>
    obtain ⟨k, w⟩ := p
    have hk := (mrising_cons k w m).1 h
    unfold mdel
    split
    · rename_i e; subst e; exact mget_of_mabove d hk.1
    · rename_i e; simp only [mget, if_neg e]; exact ih hk.2

/-- A deletion leaves every other key alone. -/
theorem mget_mdel_ne {α : Type} (d : α) (m : SMap α) {a b : Nat} (h : b ≠ a) : mget d (mdel m a) b = mget d m b := by
  induction m with
  | nil => rfl
  | cons p m ih =>
    obtain ⟨k, w⟩ := p
    unfold mdel
    split
    · rename_i e; subst e; simp [mget, Ne.symm h]
    · simp only [mget]
      split
      · rfl
      · exact ih

/-! ## Bytes -/

theorem Memory.wf_iff (m : SMap Byte) : Memory.wf m = true ↔ mrising m = true ∧ ∀ p ∈ m, p.2 ≠ 0 := by
  simp [Memory.wf]

theorem mem_mput {α : Type} {m : SMap α} {a : Nat} {v : α} {p : Nat × α} (h : p ∈ mput m a v) : p = (a, v) ∨ p ∈ m := by
  induction m with
  | nil => simpa [mput] using h
  | cons q m ih =>
    obtain ⟨k, w⟩ := q
    unfold mput at h
    split at h
    · simpa using h
    · split at h
      · cases h with
        | head => exact .inl rfl
        | tail _ h => exact .inr (List.mem_cons_of_mem _ h)
      · cases h with
        | head => exact .inr (List.mem_cons_self ..)
        | tail _ h =>
          rcases ih h with e | e
          · exact .inl e
          · exact .inr (List.mem_cons_of_mem _ e)

/-- Writing one byte keeps the canonical form. -/
theorem Memory.wf_set {m : SMap Byte} (a : Nat) (b : Byte) (h : Memory.wf m = true) : Memory.wf (Memory.set m a b) = true := by
  rw [Memory.wf_iff] at *
  unfold Memory.set
  split
  · exact ⟨mrising_mdel a h.1, fun p hp => h.2 p (mem_mdel hp)⟩
  · rename_i hb
    refine ⟨mrising_mput a b h.1, fun p hp => ?_⟩
    rcases mem_mput hp with e | e
    · subst e; exact hb
    · exact h.2 p e

/-- Writing bytes keeps the canonical form. -/
theorem Memory.wf_write {m : SMap Byte} (a : Nat) (bs : List Byte) (h : Memory.wf m = true) : Memory.wf (Memory.write m a bs) = true := by
  induction bs generalizing m a with
  | nil => exact h
  | cons b bs ih => exact ih (a + 1) (Memory.wf_set a b h)

/-- Dropping bytes keeps the canonical form. -/
theorem Memory.wf_filter {m : SMap Byte} (f : Nat × Byte → Bool) (h : Memory.wf m = true) : Memory.wf (m.filter f) = true := by
  rw [Memory.wf_iff] at *
  exact ⟨mrising_filter f h.1, fun p hp => h.2 p (List.mem_filter.1 hp).1⟩

/-- A byte written reads back. -/
theorem Memory.get_set_same {m : SMap Byte} (a : Nat) (b : Byte) (h : Memory.wf m = true) : Memory.get (Memory.set m a b) a = b := by
  have h := ((Memory.wf_iff m).1 h).1
  unfold Memory.get Memory.set
  split
  · rename_i e; rw [mget_mdel_same 0 h, e]
  · exact mget_mput_same 0 m a b

/-- A write of one byte leaves every other alone. -/
theorem Memory.get_set_ne (m : SMap Byte) {a k : Nat} (b : Byte) (h : k ≠ a) : Memory.get (Memory.set m a b) k = Memory.get m k := by
  unfold Memory.get Memory.set
  split
  · exact mget_mdel_ne 0 m h
  · exact mget_mput_ne 0 m b h

/-- A write of bytes leaves every byte outside them alone. -/
theorem Memory.get_write_outside (m : SMap Byte) (a k : Nat) (bs : List Byte) (h : k < a ∨ a + bs.length ≤ k) :
    Memory.get (Memory.write m a bs) k = Memory.get m k := by
  induction bs generalizing m a with
  | nil => rfl
  | cons b bs ih =>
    simp only [List.length_cons] at h
    rw [Memory.write, ih _ _ (by omega), Memory.get_set_ne m b (by omega)]

/-- The bytes written read back. -/
theorem Memory.get_write_inside {m : SMap Byte} (a k : Nat) (bs : List Byte) (h : Memory.wf m = true) (hk : k < bs.length) :
    Memory.get (Memory.write m a bs) (a + k) = bs[k] := by
  induction bs generalizing m a k with
  | nil => simp at hk
  | cons b bs ih =>
    rw [Memory.write]
    cases k with
    | zero =>
      rw [Memory.get_write_outside _ _ _ _ (by omega)]
      simpa using Memory.get_set_same a b h
    | succ k =>
      have := ih (a + 1) k (Memory.wf_set a b h) (by simpa using hk)
      simpa [Nat.add_assoc, Nat.add_comm 1 k] using this

/-- A read of bytes is the bytes, one after another. -/
theorem Memory.read_eq (m : SMap Byte) (a n : Nat) : Memory.read m a n = (List.range n).map fun k => Memory.get m (a + k) := by
  induction n generalizing a with
  | zero => rfl
  | succ n ih =>
    rw [Memory.read, ih, List.range_succ_eq_map]
    simp [Nat.add_assoc, Nat.add_comm 1]

@[simp] theorem Memory.read_length (m : SMap Byte) (a n : Nat) : (Memory.read m a n).length = n := by
  simp [Memory.read_eq]

/-! ## Words and bytes (R10) -/

@[simp] theorem leBytes_length (n w : Nat) : (leBytes n w).length = n := by
  induction n generalizing w with
  | zero => rfl
  | succ n ih => simp [leBytes, ih]

/-- The little-endian number of a number's bytes is the number, cut to those bytes. -/
theorem leNat_leBytes (n w : Nat) : leNat (leBytes n w) = w % 2 ^ (8 * n) := by
  induction n generalizing w with
  | zero => simp [leBytes, leNat, Nat.mod_one]
  | succ n ih =>
    simp only [leBytes, leNat, ih]
    rw [show 8 * (n + 1) = 8 + 8 * n by omega, Nat.pow_add, Nat.mod_mul]
    simp

end Sys2Proof.Machine
end

