-- ==== Sys2Proof/Laws/State.lean ====
section
/-! SUPPORT. Each named update of the state: the field that it writes, and every field that it leaves alone. The updates of a
tile, a context or an entry by a function unfold to these. -/
namespace Sys2Proof.Machine

/-! ## What is read back -/

@[simp] theorem State.updTile_eq (s : State) (t : Nat) (f : Tile → Tile) : s.updTile t f = s.setTile t (f (s.tile t)) := rfl
@[simp] theorem State.updCtx_eq (s : State) (c : Nat) (f : Context → Context) : s.updCtx c f = s.setCtx c (f (s.ctx c)) := rfl
@[simp] theorem State.updHere_eq (s : State) (f : Tile → Tile) : s.updHere f = s.setTile s.cur.tile (f (s.tile s.cur.tile)) := rfl
@[simp] theorem State.updCx_eq (s : State) (f : Context → Context) : s.updCx f = s.setCtx s.cur.sub.ctx (f (s.ctx s.cur.sub.ctx)) := rfl
@[simp] theorem State.here_eq (s : State) : s.here = s.tile s.cur.tile := rfl
@[simp] theorem State.cx_eq (s : State) : s.cx = s.ctx s.cur.sub.ctx := rfl

@[simp] theorem State.tile_setTile_same (s : State) (t : Nat) (x : Tile) : (s.setTile t x).tile t = x := mget_mput_same ..
theorem State.tile_setTile_ne (s : State) {t k : Nat} (x : Tile) (h : k ≠ t) : (s.setTile t x).tile k = s.tile k := mget_mput_ne _ _ _ h
@[simp] theorem State.ctx_setCtx_same (s : State) (c : Nat) (x : Context) : (s.setCtx c x).ctx c = x := mget_mput_same ..
theorem State.ctx_setCtx_ne (s : State) {c k : Nat} (x : Context) (h : k ≠ c) : (s.setCtx c x).ctx k = s.ctx k := mget_mput_ne _ _ _ h
@[simp] theorem State.ctx_setTile (s : State) (t : Nat) (x : Tile) (c : Nat) : (s.setTile t x).ctx c = s.ctx c := rfl
@[simp] theorem State.tile_setCtx (s : State) (c : Nat) (x : Context) (t : Nat) : (s.setCtx c x).tile t = s.tile t := rfl
@[simp] theorem State.cluster_updCluster_same (s : State) (k : Nat) (f : Cluster → Cluster) :
    (s.updCluster k f).cluster k = f (s.cluster k) := mget_mput_same ..
theorem State.cluster_updCluster_ne (s : State) {k n : Nat} (f : Cluster → Cluster) (h : n ≠ k) :
    (s.updCluster k f).cluster n = s.cluster n := mget_mput_ne _ _ _ h
@[simp] theorem State.die_updDie_same (s : State) (d : Nat) (f : Die → Die) : (s.updDie d f).die d = f (s.die d) := mget_mput_same ..
theorem State.die_updDie_ne (s : State) {d k : Nat} (f : Die → Die) (h : k ≠ d) : (s.updDie d f).die k = s.die k := mget_mput_ne _ _ _ h
@[simp] theorem State.port_setPort_same (s : State) (k : Nat) (p : Port) : (s.setPort k p).port k = p := mget_mput_same ..
theorem State.port_setPort_ne (s : State) {k n : Nat} (p : Port) (h : n ≠ k) : (s.setPort k p).port n = s.port n := mget_mput_ne _ _ _ h
@[simp] theorem State.queue?_setQueue_same (s : State) (n : Nat) (q : PQueue) : (s.setQueue n q).queue? n = some q := mget?_mput_same ..
@[simp] theorem State.mbx_updMbx_same (s : State) (m : Nat) (f : Mailbox → Mailbox) : (s.updMbx m f).mbx m = f (s.mbx m) := mget_mput_same ..
theorem State.mbx_updMbx_ne (s : State) {m k : Nat} (f : Mailbox → Mailbox) (h : k ≠ m) : (s.updMbx m f).mbx k = s.mbx k := mget_mput_ne _ _ _ h

/-! ## State.setTile -/

@[simp] theorem State.setTile_form (s : State) (t : Nat) (x : Tile) : (s.setTile t x).form = s.form := rfl
@[simp] theorem State.setTile_time (s : State) (t : Nat) (x : Tile) : (s.setTile t x).time = s.time := rfl
@[simp] theorem State.setTile_cur (s : State) (t : Nat) (x : Tile) : (s.setTile t x).cur = s.cur := rfl
@[simp] theorem State.setTile_agenda (s : State) (t : Nat) (x : Tile) : (s.setTile t x).agenda = s.agenda := rfl
@[simp] theorem State.setTile_freeCtr (s : State) (t : Nat) (x : Tile) : (s.setTile t x).freeCtr = s.freeCtr := rfl
@[simp] theorem State.setTile_phys (s : State) (t : Nat) (x : Tile) : (s.setTile t x).phys = s.phys := rfl
@[simp] theorem State.setTile_physBad (s : State) (t : Nat) (x : Tile) : (s.setTile t x).physBad = s.physBad := rfl
@[simp] theorem State.setTile_physUndef (s : State) (t : Nat) (x : Tile) : (s.setTile t x).physUndef = s.physUndef := rfl
@[simp] theorem State.setTile_flt (s : State) (t : Nat) (x : Tile) : (s.setTile t x).flt = s.flt := rfl
@[simp] theorem State.setTile_fltBad (s : State) (t : Nat) (x : Tile) : (s.setTile t x).fltBad = s.fltBad := rfl
@[simp] theorem State.setTile_fltUndef (s : State) (t : Nat) (x : Tile) : (s.setTile t x).fltUndef = s.fltUndef := rfl
@[simp] theorem State.setTile_host (s : State) (t : Nat) (x : Tile) : (s.setTile t x).host = s.host := rfl
@[simp] theorem State.setTile_hostBad (s : State) (t : Nat) (x : Tile) : (s.setTile t x).hostBad = s.hostBad := rfl
@[simp] theorem State.setTile_hostUndef (s : State) (t : Nat) (x : Tile) : (s.setTile t x).hostUndef = s.hostUndef := rfl
@[simp] theorem State.setTile_netFrame (s : State) (t : Nat) (x : Tile) : (s.setTile t x).netFrame = s.netFrame := rfl
@[simp] theorem State.setTile_chanFrame (s : State) (t : Nat) (x : Tile) : (s.setTile t x).chanFrame = s.chanFrame := rfl
@[simp] theorem State.setTile_chanTables (s : State) (t : Nat) (x : Tile) : (s.setTile t x).chanTables = s.chanTables := rfl
@[simp] theorem State.setTile_chanPhase (s : State) (t : Nat) (x : Tile) : (s.setTile t x).chanPhase = s.chanPhase := rfl
@[simp] theorem State.setTile_routing (s : State) (t : Nat) (x : Tile) : (s.setTile t x).routing = s.routing := rfl
@[simp] theorem State.setTile_chanCnt (s : State) (t : Nat) (x : Tile) : (s.setTile t x).chanCnt = s.chanCnt := rfl
@[simp] theorem State.setTile_attrNow (s : State) (t : Nat) (x : Tile) : (s.setTile t x).attrNow = s.attrNow := rfl
@[simp] theorem State.setTile_cxlResp (s : State) (t : Nat) (x : Tile) : (s.setTile t x).cxlResp = s.cxlResp := rfl
@[simp] theorem State.setTile_jtagResp (s : State) (t : Nat) (x : Tile) : (s.setTile t x).jtagResp = s.jtagResp := rfl
@[simp] theorem State.setTile_unseen (s : State) (t : Nat) (x : Tile) : (s.setTile t x).unseen = s.unseen := rfl
@[simp] theorem State.setTile_ownAt (s : State) (t : Nat) (x : Tile) : (s.setTile t x).ownAt = s.ownAt := rfl
@[simp] theorem State.setTile_ownQ (s : State) (t : Nat) (x : Tile) : (s.setTile t x).ownQ = s.ownQ := rfl
@[simp] theorem State.setTile_hotAsked (s : State) (t : Nat) (x : Tile) : (s.setTile t x).hotAsked = s.hotAsked := rfl
@[simp] theorem State.setTile_walkCache (s : State) (t : Nat) (x : Tile) : (s.setTile t x).walkCache = s.walkCache := rfl
@[simp] theorem State.setTile_clusters (s : State) (t : Nat) (x : Tile) : (s.setTile t x).clusters = s.clusters := rfl
@[simp] theorem State.setTile_dies (s : State) (t : Nat) (x : Tile) : (s.setTile t x).dies = s.dies := rfl
@[simp] theorem State.setTile_tlb (s : State) (t : Nat) (x : Tile) : (s.setTile t x).tlb = s.tlb := rfl
@[simp] theorem State.setTile_invQ (s : State) (t : Nat) (x : Tile) : (s.setTile t x).invQ = s.invQ := rfl
@[simp] theorem State.setTile_remap (s : State) (t : Nat) (x : Tile) : (s.setTile t x).remap = s.remap := rfl
@[simp] theorem State.setTile_hot (s : State) (t : Nat) (x : Tile) : (s.setTile t x).hot = s.hot := rfl
@[simp] theorem State.setTile_swth (s : State) (t : Nat) (x : Tile) : (s.setTile t x).swth = s.swth := rfl
@[simp] theorem State.setTile_epoch (s : State) (t : Nat) (x : Tile) : (s.setTile t x).epoch = s.epoch := rfl
@[simp] theorem State.setTile_epochAt (s : State) (t : Nat) (x : Tile) : (s.setTile t x).epochAt = s.epochAt := rfl
@[simp] theorem State.setTile_swapQ (s : State) (t : Nat) (x : Tile) : (s.setTile t x).swapQ = s.swapQ := rfl
@[simp] theorem State.setTile_swaps (s : State) (t : Nat) (x : Tile) : (s.setTile t x).swaps = s.swaps := rfl
@[simp] theorem State.setTile_nodeFrames (s : State) (t : Nat) (x : Tile) : (s.setTile t x).nodeFrames = s.nodeFrames := rfl
@[simp] theorem State.setTile_frames (s : State) (t : Nat) (x : Tile) : (s.setTile t x).frames = s.frames := rfl
@[simp] theorem State.setTile_cxmUnits (s : State) (t : Nat) (x : Tile) : (s.setTile t x).cxmUnits = s.cxmUnits := rfl
@[simp] theorem State.setTile_fltUnits (s : State) (t : Nat) (x : Tile) : (s.setTile t x).fltUnits = s.fltUnits := rfl
@[simp] theorem State.setTile_cxmBase (s : State) (t : Nat) (x : Tile) : (s.setTile t x).cxmBase = s.cxmBase := rfl
@[simp] theorem State.setTile_cxmLen (s : State) (t : Nat) (x : Tile) : (s.setTile t x).cxmLen = s.cxmLen := rfl
@[simp] theorem State.setTile_transit (s : State) (t : Nat) (x : Tile) : (s.setTile t x).transit = s.transit := rfl
@[simp] theorem State.setTile_promoQ (s : State) (t : Nat) (x : Tile) : (s.setTile t x).promoQ = s.promoQ := rfl
@[simp] theorem State.setTile_stagedQ (s : State) (t : Nat) (x : Tile) : (s.setTile t x).stagedQ = s.stagedQ := rfl
@[simp] theorem State.setTile_demoQ (s : State) (t : Nat) (x : Tile) : (s.setTile t x).demoQ = s.demoQ := rfl
@[simp] theorem State.setTile_fullerTurn (s : State) (t : Nat) (x : Tile) : (s.setTile t x).fullerTurn = s.fullerTurn := rfl
@[simp] theorem State.setTile_collapses (s : State) (t : Nat) (x : Tile) : (s.setTile t x).collapses = s.collapses := rfl
@[simp] theorem State.setTile_cntFrame (s : State) (t : Nat) (x : Tile) : (s.setTile t x).cntFrame = s.cntFrame := rfl
@[simp] theorem State.setTile_attr (s : State) (t : Nat) (x : Tile) : (s.setTile t x).attr = s.attr := rfl
@[simp] theorem State.setTile_cntPages (s : State) (t : Nat) (x : Tile) : (s.setTile t x).cntPages = s.cntPages := rfl
@[simp] theorem State.setTile_snapSeq (s : State) (t : Nat) (x : Tile) : (s.setTile t x).snapSeq = s.snapSeq := rfl
@[simp] theorem State.setTile_snapTime (s : State) (t : Nat) (x : Tile) : (s.setTile t x).snapTime = s.snapTime := rfl
@[simp] theorem State.setTile_snapAt (s : State) (t : Nat) (x : Tile) : (s.setTile t x).snapAt = s.snapAt := rfl
@[simp] theorem State.setTile_log (s : State) (t : Nat) (x : Tile) : (s.setTile t x).log = s.log := rfl
@[simp] theorem State.setTile_fenceTot (s : State) (t : Nat) (x : Tile) : (s.setTile t x).fenceTot = s.fenceTot := rfl
@[simp] theorem State.setTile_cf (s : State) (t : Nat) (x : Tile) : (s.setTile t x).cf = s.cf := rfl
@[simp] theorem State.setTile_turnDec (s : State) (t : Nat) (x : Tile) : (s.setTile t x).turnDec = s.turnDec := rfl
@[simp] theorem State.setTile_turnIss (s : State) (t : Nat) (x : Tile) : (s.setTile t x).turnIss = s.turnIss := rfl
@[simp] theorem State.setTile_slotsDec (s : State) (t : Nat) (x : Tile) : (s.setTile t x).slotsDec = s.slotsDec := rfl
@[simp] theorem State.setTile_slotsIss (s : State) (t : Nat) (x : Tile) : (s.setTile t x).slotsIss = s.slotsIss := rfl
@[simp] theorem State.setTile_ctxs (s : State) (t : Nat) (x : Tile) : (s.setTile t x).ctxs = s.ctxs := rfl
@[simp] theorem State.setTile_units (s : State) (t : Nat) (x : Tile) : (s.setTile t x).units = s.units := rfl
@[simp] theorem State.setTile_queues (s : State) (t : Nat) (x : Tile) : (s.setTile t x).queues = s.queues := rfl
@[simp] theorem State.setTile_useCtr (s : State) (t : Nat) (x : Tile) : (s.setTile t x).useCtr = s.useCtr := rfl
@[simp] theorem State.setTile_ranges (s : State) (t : Nat) (x : Tile) : (s.setTile t x).ranges = s.ranges := rfl
@[simp] theorem State.setTile_mbxs (s : State) (t : Nat) (x : Tile) : (s.setTile t x).mbxs = s.mbxs := rfl
@[simp] theorem State.setTile_submitted (s : State) (t : Nat) (x : Tile) : (s.setTile t x).submitted = s.submitted := rfl
@[simp] theorem State.setTile_msix (s : State) (t : Nat) (x : Tile) : (s.setTile t x).msix = s.msix := rfl
@[simp] theorem State.setTile_ports (s : State) (t : Nat) (x : Tile) : (s.setTile t x).ports = s.ports := rfl
@[simp] theorem State.setTile_sec (s : State) (t : Nat) (x : Tile) : (s.setTile t x).sec = s.sec := rfl
@[simp] theorem State.setTile_telem (s : State) (t : Nat) (x : Tile) : (s.setTile t x).telem = s.telem := rfl
@[simp] theorem State.setTile_modPower (s : State) (t : Nat) (x : Tile) : (s.setTile t x).modPower = s.modPower := rfl
@[simp] theorem State.setTile_railPower (s : State) (t : Nat) (x : Tile) : (s.setTile t x).railPower = s.railPower := rfl
@[simp] theorem State.setTile_hubTemp (s : State) (t : Nat) (x : Tile) : (s.setTile t x).hubTemp = s.hubTemp := rfl
@[simp] theorem State.setTile_tripped (s : State) (t : Nat) (x : Tile) : (s.setTile t x).tripped = s.tripped := rfl
@[simp] theorem State.setTile_wdogDef (s : State) (t : Nat) (x : Tile) : (s.setTile t x).wdogDef = s.wdogDef := rfl

/-! ## State.setCtx -/

@[simp] theorem State.setCtx_form (s : State) (c : Nat) (x : Context) : (s.setCtx c x).form = s.form := rfl
@[simp] theorem State.setCtx_time (s : State) (c : Nat) (x : Context) : (s.setCtx c x).time = s.time := rfl
@[simp] theorem State.setCtx_cur (s : State) (c : Nat) (x : Context) : (s.setCtx c x).cur = s.cur := rfl
@[simp] theorem State.setCtx_agenda (s : State) (c : Nat) (x : Context) : (s.setCtx c x).agenda = s.agenda := rfl
@[simp] theorem State.setCtx_freeCtr (s : State) (c : Nat) (x : Context) : (s.setCtx c x).freeCtr = s.freeCtr := rfl
@[simp] theorem State.setCtx_phys (s : State) (c : Nat) (x : Context) : (s.setCtx c x).phys = s.phys := rfl
@[simp] theorem State.setCtx_physBad (s : State) (c : Nat) (x : Context) : (s.setCtx c x).physBad = s.physBad := rfl
@[simp] theorem State.setCtx_physUndef (s : State) (c : Nat) (x : Context) : (s.setCtx c x).physUndef = s.physUndef := rfl
@[simp] theorem State.setCtx_flt (s : State) (c : Nat) (x : Context) : (s.setCtx c x).flt = s.flt := rfl
@[simp] theorem State.setCtx_fltBad (s : State) (c : Nat) (x : Context) : (s.setCtx c x).fltBad = s.fltBad := rfl
@[simp] theorem State.setCtx_fltUndef (s : State) (c : Nat) (x : Context) : (s.setCtx c x).fltUndef = s.fltUndef := rfl
@[simp] theorem State.setCtx_host (s : State) (c : Nat) (x : Context) : (s.setCtx c x).host = s.host := rfl
@[simp] theorem State.setCtx_hostBad (s : State) (c : Nat) (x : Context) : (s.setCtx c x).hostBad = s.hostBad := rfl
@[simp] theorem State.setCtx_hostUndef (s : State) (c : Nat) (x : Context) : (s.setCtx c x).hostUndef = s.hostUndef := rfl
@[simp] theorem State.setCtx_netFrame (s : State) (c : Nat) (x : Context) : (s.setCtx c x).netFrame = s.netFrame := rfl
@[simp] theorem State.setCtx_chanFrame (s : State) (c : Nat) (x : Context) : (s.setCtx c x).chanFrame = s.chanFrame := rfl
@[simp] theorem State.setCtx_chanTables (s : State) (c : Nat) (x : Context) : (s.setCtx c x).chanTables = s.chanTables := rfl
@[simp] theorem State.setCtx_chanPhase (s : State) (c : Nat) (x : Context) : (s.setCtx c x).chanPhase = s.chanPhase := rfl
@[simp] theorem State.setCtx_routing (s : State) (c : Nat) (x : Context) : (s.setCtx c x).routing = s.routing := rfl
@[simp] theorem State.setCtx_chanCnt (s : State) (c : Nat) (x : Context) : (s.setCtx c x).chanCnt = s.chanCnt := rfl
@[simp] theorem State.setCtx_attrNow (s : State) (c : Nat) (x : Context) : (s.setCtx c x).attrNow = s.attrNow := rfl
@[simp] theorem State.setCtx_cxlResp (s : State) (c : Nat) (x : Context) : (s.setCtx c x).cxlResp = s.cxlResp := rfl
@[simp] theorem State.setCtx_jtagResp (s : State) (c : Nat) (x : Context) : (s.setCtx c x).jtagResp = s.jtagResp := rfl
@[simp] theorem State.setCtx_unseen (s : State) (c : Nat) (x : Context) : (s.setCtx c x).unseen = s.unseen := rfl
@[simp] theorem State.setCtx_ownAt (s : State) (c : Nat) (x : Context) : (s.setCtx c x).ownAt = s.ownAt := rfl
@[simp] theorem State.setCtx_ownQ (s : State) (c : Nat) (x : Context) : (s.setCtx c x).ownQ = s.ownQ := rfl
@[simp] theorem State.setCtx_hotAsked (s : State) (c : Nat) (x : Context) : (s.setCtx c x).hotAsked = s.hotAsked := rfl
@[simp] theorem State.setCtx_walkCache (s : State) (c : Nat) (x : Context) : (s.setCtx c x).walkCache = s.walkCache := rfl
@[simp] theorem State.setCtx_tiles (s : State) (c : Nat) (x : Context) : (s.setCtx c x).tiles = s.tiles := rfl
@[simp] theorem State.setCtx_clusters (s : State) (c : Nat) (x : Context) : (s.setCtx c x).clusters = s.clusters := rfl
@[simp] theorem State.setCtx_dies (s : State) (c : Nat) (x : Context) : (s.setCtx c x).dies = s.dies := rfl
@[simp] theorem State.setCtx_tlb (s : State) (c : Nat) (x : Context) : (s.setCtx c x).tlb = s.tlb := rfl
@[simp] theorem State.setCtx_invQ (s : State) (c : Nat) (x : Context) : (s.setCtx c x).invQ = s.invQ := rfl
@[simp] theorem State.setCtx_remap (s : State) (c : Nat) (x : Context) : (s.setCtx c x).remap = s.remap := rfl
@[simp] theorem State.setCtx_hot (s : State) (c : Nat) (x : Context) : (s.setCtx c x).hot = s.hot := rfl
@[simp] theorem State.setCtx_swth (s : State) (c : Nat) (x : Context) : (s.setCtx c x).swth = s.swth := rfl
@[simp] theorem State.setCtx_epoch (s : State) (c : Nat) (x : Context) : (s.setCtx c x).epoch = s.epoch := rfl
@[simp] theorem State.setCtx_epochAt (s : State) (c : Nat) (x : Context) : (s.setCtx c x).epochAt = s.epochAt := rfl
@[simp] theorem State.setCtx_swapQ (s : State) (c : Nat) (x : Context) : (s.setCtx c x).swapQ = s.swapQ := rfl
@[simp] theorem State.setCtx_swaps (s : State) (c : Nat) (x : Context) : (s.setCtx c x).swaps = s.swaps := rfl
@[simp] theorem State.setCtx_nodeFrames (s : State) (c : Nat) (x : Context) : (s.setCtx c x).nodeFrames = s.nodeFrames := rfl
@[simp] theorem State.setCtx_frames (s : State) (c : Nat) (x : Context) : (s.setCtx c x).frames = s.frames := rfl
@[simp] theorem State.setCtx_cxmUnits (s : State) (c : Nat) (x : Context) : (s.setCtx c x).cxmUnits = s.cxmUnits := rfl
@[simp] theorem State.setCtx_fltUnits (s : State) (c : Nat) (x : Context) : (s.setCtx c x).fltUnits = s.fltUnits := rfl
@[simp] theorem State.setCtx_cxmBase (s : State) (c : Nat) (x : Context) : (s.setCtx c x).cxmBase = s.cxmBase := rfl
@[simp] theorem State.setCtx_cxmLen (s : State) (c : Nat) (x : Context) : (s.setCtx c x).cxmLen = s.cxmLen := rfl
@[simp] theorem State.setCtx_transit (s : State) (c : Nat) (x : Context) : (s.setCtx c x).transit = s.transit := rfl
@[simp] theorem State.setCtx_promoQ (s : State) (c : Nat) (x : Context) : (s.setCtx c x).promoQ = s.promoQ := rfl
@[simp] theorem State.setCtx_stagedQ (s : State) (c : Nat) (x : Context) : (s.setCtx c x).stagedQ = s.stagedQ := rfl
@[simp] theorem State.setCtx_demoQ (s : State) (c : Nat) (x : Context) : (s.setCtx c x).demoQ = s.demoQ := rfl
@[simp] theorem State.setCtx_fullerTurn (s : State) (c : Nat) (x : Context) : (s.setCtx c x).fullerTurn = s.fullerTurn := rfl
@[simp] theorem State.setCtx_collapses (s : State) (c : Nat) (x : Context) : (s.setCtx c x).collapses = s.collapses := rfl
@[simp] theorem State.setCtx_cntFrame (s : State) (c : Nat) (x : Context) : (s.setCtx c x).cntFrame = s.cntFrame := rfl
@[simp] theorem State.setCtx_attr (s : State) (c : Nat) (x : Context) : (s.setCtx c x).attr = s.attr := rfl
@[simp] theorem State.setCtx_cntPages (s : State) (c : Nat) (x : Context) : (s.setCtx c x).cntPages = s.cntPages := rfl
@[simp] theorem State.setCtx_snapSeq (s : State) (c : Nat) (x : Context) : (s.setCtx c x).snapSeq = s.snapSeq := rfl
@[simp] theorem State.setCtx_snapTime (s : State) (c : Nat) (x : Context) : (s.setCtx c x).snapTime = s.snapTime := rfl
@[simp] theorem State.setCtx_snapAt (s : State) (c : Nat) (x : Context) : (s.setCtx c x).snapAt = s.snapAt := rfl
@[simp] theorem State.setCtx_log (s : State) (c : Nat) (x : Context) : (s.setCtx c x).log = s.log := rfl
@[simp] theorem State.setCtx_fenceTot (s : State) (c : Nat) (x : Context) : (s.setCtx c x).fenceTot = s.fenceTot := rfl
@[simp] theorem State.setCtx_cf (s : State) (c : Nat) (x : Context) : (s.setCtx c x).cf = s.cf := rfl
@[simp] theorem State.setCtx_turnDec (s : State) (c : Nat) (x : Context) : (s.setCtx c x).turnDec = s.turnDec := rfl
@[simp] theorem State.setCtx_turnIss (s : State) (c : Nat) (x : Context) : (s.setCtx c x).turnIss = s.turnIss := rfl
@[simp] theorem State.setCtx_slotsDec (s : State) (c : Nat) (x : Context) : (s.setCtx c x).slotsDec = s.slotsDec := rfl
@[simp] theorem State.setCtx_slotsIss (s : State) (c : Nat) (x : Context) : (s.setCtx c x).slotsIss = s.slotsIss := rfl
@[simp] theorem State.setCtx_units (s : State) (c : Nat) (x : Context) : (s.setCtx c x).units = s.units := rfl
@[simp] theorem State.setCtx_queues (s : State) (c : Nat) (x : Context) : (s.setCtx c x).queues = s.queues := rfl
@[simp] theorem State.setCtx_useCtr (s : State) (c : Nat) (x : Context) : (s.setCtx c x).useCtr = s.useCtr := rfl
@[simp] theorem State.setCtx_ranges (s : State) (c : Nat) (x : Context) : (s.setCtx c x).ranges = s.ranges := rfl
@[simp] theorem State.setCtx_mbxs (s : State) (c : Nat) (x : Context) : (s.setCtx c x).mbxs = s.mbxs := rfl
@[simp] theorem State.setCtx_submitted (s : State) (c : Nat) (x : Context) : (s.setCtx c x).submitted = s.submitted := rfl
@[simp] theorem State.setCtx_msix (s : State) (c : Nat) (x : Context) : (s.setCtx c x).msix = s.msix := rfl
@[simp] theorem State.setCtx_ports (s : State) (c : Nat) (x : Context) : (s.setCtx c x).ports = s.ports := rfl
@[simp] theorem State.setCtx_sec (s : State) (c : Nat) (x : Context) : (s.setCtx c x).sec = s.sec := rfl
@[simp] theorem State.setCtx_telem (s : State) (c : Nat) (x : Context) : (s.setCtx c x).telem = s.telem := rfl
@[simp] theorem State.setCtx_modPower (s : State) (c : Nat) (x : Context) : (s.setCtx c x).modPower = s.modPower := rfl
@[simp] theorem State.setCtx_railPower (s : State) (c : Nat) (x : Context) : (s.setCtx c x).railPower = s.railPower := rfl
@[simp] theorem State.setCtx_hubTemp (s : State) (c : Nat) (x : Context) : (s.setCtx c x).hubTemp = s.hubTemp := rfl
@[simp] theorem State.setCtx_tripped (s : State) (c : Nat) (x : Context) : (s.setCtx c x).tripped = s.tripped := rfl
@[simp] theorem State.setCtx_wdogDef (s : State) (c : Nat) (x : Context) : (s.setCtx c x).wdogDef = s.wdogDef := rfl

/-! ## State.updCluster -/

@[simp] theorem State.updCluster_form (s : State) (k : Nat) (f : Cluster → Cluster) : (s.updCluster k f).form = s.form := rfl
@[simp] theorem State.updCluster_time (s : State) (k : Nat) (f : Cluster → Cluster) : (s.updCluster k f).time = s.time := rfl
@[simp] theorem State.updCluster_cur (s : State) (k : Nat) (f : Cluster → Cluster) : (s.updCluster k f).cur = s.cur := rfl
@[simp] theorem State.updCluster_agenda (s : State) (k : Nat) (f : Cluster → Cluster) : (s.updCluster k f).agenda = s.agenda := rfl
@[simp] theorem State.updCluster_freeCtr (s : State) (k : Nat) (f : Cluster → Cluster) : (s.updCluster k f).freeCtr = s.freeCtr := rfl
@[simp] theorem State.updCluster_phys (s : State) (k : Nat) (f : Cluster → Cluster) : (s.updCluster k f).phys = s.phys := rfl
@[simp] theorem State.updCluster_physBad (s : State) (k : Nat) (f : Cluster → Cluster) : (s.updCluster k f).physBad = s.physBad := rfl
@[simp] theorem State.updCluster_physUndef (s : State) (k : Nat) (f : Cluster → Cluster) : (s.updCluster k f).physUndef = s.physUndef := rfl
@[simp] theorem State.updCluster_flt (s : State) (k : Nat) (f : Cluster → Cluster) : (s.updCluster k f).flt = s.flt := rfl
@[simp] theorem State.updCluster_fltBad (s : State) (k : Nat) (f : Cluster → Cluster) : (s.updCluster k f).fltBad = s.fltBad := rfl
@[simp] theorem State.updCluster_fltUndef (s : State) (k : Nat) (f : Cluster → Cluster) : (s.updCluster k f).fltUndef = s.fltUndef := rfl
@[simp] theorem State.updCluster_host (s : State) (k : Nat) (f : Cluster → Cluster) : (s.updCluster k f).host = s.host := rfl
@[simp] theorem State.updCluster_hostBad (s : State) (k : Nat) (f : Cluster → Cluster) : (s.updCluster k f).hostBad = s.hostBad := rfl
@[simp] theorem State.updCluster_hostUndef (s : State) (k : Nat) (f : Cluster → Cluster) : (s.updCluster k f).hostUndef = s.hostUndef := rfl
@[simp] theorem State.updCluster_netFrame (s : State) (k : Nat) (f : Cluster → Cluster) : (s.updCluster k f).netFrame = s.netFrame := rfl
@[simp] theorem State.updCluster_chanFrame (s : State) (k : Nat) (f : Cluster → Cluster) : (s.updCluster k f).chanFrame = s.chanFrame := rfl
@[simp] theorem State.updCluster_chanTables (s : State) (k : Nat) (f : Cluster → Cluster) : (s.updCluster k f).chanTables = s.chanTables := rfl
@[simp] theorem State.updCluster_chanPhase (s : State) (k : Nat) (f : Cluster → Cluster) : (s.updCluster k f).chanPhase = s.chanPhase := rfl
@[simp] theorem State.updCluster_routing (s : State) (k : Nat) (f : Cluster → Cluster) : (s.updCluster k f).routing = s.routing := rfl
@[simp] theorem State.updCluster_chanCnt (s : State) (k : Nat) (f : Cluster → Cluster) : (s.updCluster k f).chanCnt = s.chanCnt := rfl
@[simp] theorem State.updCluster_attrNow (s : State) (k : Nat) (f : Cluster → Cluster) : (s.updCluster k f).attrNow = s.attrNow := rfl
@[simp] theorem State.updCluster_cxlResp (s : State) (k : Nat) (f : Cluster → Cluster) : (s.updCluster k f).cxlResp = s.cxlResp := rfl
@[simp] theorem State.updCluster_jtagResp (s : State) (k : Nat) (f : Cluster → Cluster) : (s.updCluster k f).jtagResp = s.jtagResp := rfl
@[simp] theorem State.updCluster_unseen (s : State) (k : Nat) (f : Cluster → Cluster) : (s.updCluster k f).unseen = s.unseen := rfl
@[simp] theorem State.updCluster_ownAt (s : State) (k : Nat) (f : Cluster → Cluster) : (s.updCluster k f).ownAt = s.ownAt := rfl
@[simp] theorem State.updCluster_ownQ (s : State) (k : Nat) (f : Cluster → Cluster) : (s.updCluster k f).ownQ = s.ownQ := rfl
@[simp] theorem State.updCluster_hotAsked (s : State) (k : Nat) (f : Cluster → Cluster) : (s.updCluster k f).hotAsked = s.hotAsked := rfl
@[simp] theorem State.updCluster_walkCache (s : State) (k : Nat) (f : Cluster → Cluster) : (s.updCluster k f).walkCache = s.walkCache := rfl
@[simp] theorem State.updCluster_tiles (s : State) (k : Nat) (f : Cluster → Cluster) : (s.updCluster k f).tiles = s.tiles := rfl
@[simp] theorem State.updCluster_dies (s : State) (k : Nat) (f : Cluster → Cluster) : (s.updCluster k f).dies = s.dies := rfl
@[simp] theorem State.updCluster_tlb (s : State) (k : Nat) (f : Cluster → Cluster) : (s.updCluster k f).tlb = s.tlb := rfl
@[simp] theorem State.updCluster_invQ (s : State) (k : Nat) (f : Cluster → Cluster) : (s.updCluster k f).invQ = s.invQ := rfl
@[simp] theorem State.updCluster_remap (s : State) (k : Nat) (f : Cluster → Cluster) : (s.updCluster k f).remap = s.remap := rfl
@[simp] theorem State.updCluster_hot (s : State) (k : Nat) (f : Cluster → Cluster) : (s.updCluster k f).hot = s.hot := rfl
@[simp] theorem State.updCluster_swth (s : State) (k : Nat) (f : Cluster → Cluster) : (s.updCluster k f).swth = s.swth := rfl
@[simp] theorem State.updCluster_epoch (s : State) (k : Nat) (f : Cluster → Cluster) : (s.updCluster k f).epoch = s.epoch := rfl
@[simp] theorem State.updCluster_epochAt (s : State) (k : Nat) (f : Cluster → Cluster) : (s.updCluster k f).epochAt = s.epochAt := rfl
@[simp] theorem State.updCluster_swapQ (s : State) (k : Nat) (f : Cluster → Cluster) : (s.updCluster k f).swapQ = s.swapQ := rfl
@[simp] theorem State.updCluster_swaps (s : State) (k : Nat) (f : Cluster → Cluster) : (s.updCluster k f).swaps = s.swaps := rfl
@[simp] theorem State.updCluster_nodeFrames (s : State) (k : Nat) (f : Cluster → Cluster) : (s.updCluster k f).nodeFrames = s.nodeFrames := rfl
@[simp] theorem State.updCluster_frames (s : State) (k : Nat) (f : Cluster → Cluster) : (s.updCluster k f).frames = s.frames := rfl
@[simp] theorem State.updCluster_cxmUnits (s : State) (k : Nat) (f : Cluster → Cluster) : (s.updCluster k f).cxmUnits = s.cxmUnits := rfl
@[simp] theorem State.updCluster_fltUnits (s : State) (k : Nat) (f : Cluster → Cluster) : (s.updCluster k f).fltUnits = s.fltUnits := rfl
@[simp] theorem State.updCluster_cxmBase (s : State) (k : Nat) (f : Cluster → Cluster) : (s.updCluster k f).cxmBase = s.cxmBase := rfl
@[simp] theorem State.updCluster_cxmLen (s : State) (k : Nat) (f : Cluster → Cluster) : (s.updCluster k f).cxmLen = s.cxmLen := rfl
@[simp] theorem State.updCluster_transit (s : State) (k : Nat) (f : Cluster → Cluster) : (s.updCluster k f).transit = s.transit := rfl
@[simp] theorem State.updCluster_promoQ (s : State) (k : Nat) (f : Cluster → Cluster) : (s.updCluster k f).promoQ = s.promoQ := rfl
@[simp] theorem State.updCluster_stagedQ (s : State) (k : Nat) (f : Cluster → Cluster) : (s.updCluster k f).stagedQ = s.stagedQ := rfl
@[simp] theorem State.updCluster_demoQ (s : State) (k : Nat) (f : Cluster → Cluster) : (s.updCluster k f).demoQ = s.demoQ := rfl
@[simp] theorem State.updCluster_fullerTurn (s : State) (k : Nat) (f : Cluster → Cluster) : (s.updCluster k f).fullerTurn = s.fullerTurn := rfl
@[simp] theorem State.updCluster_collapses (s : State) (k : Nat) (f : Cluster → Cluster) : (s.updCluster k f).collapses = s.collapses := rfl
@[simp] theorem State.updCluster_cntFrame (s : State) (k : Nat) (f : Cluster → Cluster) : (s.updCluster k f).cntFrame = s.cntFrame := rfl
@[simp] theorem State.updCluster_attr (s : State) (k : Nat) (f : Cluster → Cluster) : (s.updCluster k f).attr = s.attr := rfl
@[simp] theorem State.updCluster_cntPages (s : State) (k : Nat) (f : Cluster → Cluster) : (s.updCluster k f).cntPages = s.cntPages := rfl
@[simp] theorem State.updCluster_snapSeq (s : State) (k : Nat) (f : Cluster → Cluster) : (s.updCluster k f).snapSeq = s.snapSeq := rfl
@[simp] theorem State.updCluster_snapTime (s : State) (k : Nat) (f : Cluster → Cluster) : (s.updCluster k f).snapTime = s.snapTime := rfl
@[simp] theorem State.updCluster_snapAt (s : State) (k : Nat) (f : Cluster → Cluster) : (s.updCluster k f).snapAt = s.snapAt := rfl
@[simp] theorem State.updCluster_log (s : State) (k : Nat) (f : Cluster → Cluster) : (s.updCluster k f).log = s.log := rfl
@[simp] theorem State.updCluster_fenceTot (s : State) (k : Nat) (f : Cluster → Cluster) : (s.updCluster k f).fenceTot = s.fenceTot := rfl
@[simp] theorem State.updCluster_cf (s : State) (k : Nat) (f : Cluster → Cluster) : (s.updCluster k f).cf = s.cf := rfl
@[simp] theorem State.updCluster_turnDec (s : State) (k : Nat) (f : Cluster → Cluster) : (s.updCluster k f).turnDec = s.turnDec := rfl
@[simp] theorem State.updCluster_turnIss (s : State) (k : Nat) (f : Cluster → Cluster) : (s.updCluster k f).turnIss = s.turnIss := rfl
@[simp] theorem State.updCluster_slotsDec (s : State) (k : Nat) (f : Cluster → Cluster) : (s.updCluster k f).slotsDec = s.slotsDec := rfl
@[simp] theorem State.updCluster_slotsIss (s : State) (k : Nat) (f : Cluster → Cluster) : (s.updCluster k f).slotsIss = s.slotsIss := rfl
@[simp] theorem State.updCluster_ctxs (s : State) (k : Nat) (f : Cluster → Cluster) : (s.updCluster k f).ctxs = s.ctxs := rfl
@[simp] theorem State.updCluster_units (s : State) (k : Nat) (f : Cluster → Cluster) : (s.updCluster k f).units = s.units := rfl
@[simp] theorem State.updCluster_queues (s : State) (k : Nat) (f : Cluster → Cluster) : (s.updCluster k f).queues = s.queues := rfl
@[simp] theorem State.updCluster_useCtr (s : State) (k : Nat) (f : Cluster → Cluster) : (s.updCluster k f).useCtr = s.useCtr := rfl
@[simp] theorem State.updCluster_ranges (s : State) (k : Nat) (f : Cluster → Cluster) : (s.updCluster k f).ranges = s.ranges := rfl
@[simp] theorem State.updCluster_mbxs (s : State) (k : Nat) (f : Cluster → Cluster) : (s.updCluster k f).mbxs = s.mbxs := rfl
@[simp] theorem State.updCluster_submitted (s : State) (k : Nat) (f : Cluster → Cluster) : (s.updCluster k f).submitted = s.submitted := rfl
@[simp] theorem State.updCluster_msix (s : State) (k : Nat) (f : Cluster → Cluster) : (s.updCluster k f).msix = s.msix := rfl
@[simp] theorem State.updCluster_ports (s : State) (k : Nat) (f : Cluster → Cluster) : (s.updCluster k f).ports = s.ports := rfl
@[simp] theorem State.updCluster_sec (s : State) (k : Nat) (f : Cluster → Cluster) : (s.updCluster k f).sec = s.sec := rfl
@[simp] theorem State.updCluster_telem (s : State) (k : Nat) (f : Cluster → Cluster) : (s.updCluster k f).telem = s.telem := rfl
@[simp] theorem State.updCluster_modPower (s : State) (k : Nat) (f : Cluster → Cluster) : (s.updCluster k f).modPower = s.modPower := rfl
@[simp] theorem State.updCluster_railPower (s : State) (k : Nat) (f : Cluster → Cluster) : (s.updCluster k f).railPower = s.railPower := rfl
@[simp] theorem State.updCluster_hubTemp (s : State) (k : Nat) (f : Cluster → Cluster) : (s.updCluster k f).hubTemp = s.hubTemp := rfl
@[simp] theorem State.updCluster_tripped (s : State) (k : Nat) (f : Cluster → Cluster) : (s.updCluster k f).tripped = s.tripped := rfl
@[simp] theorem State.updCluster_wdogDef (s : State) (k : Nat) (f : Cluster → Cluster) : (s.updCluster k f).wdogDef = s.wdogDef := rfl

/-! ## State.updDie -/

@[simp] theorem State.updDie_form (s : State) (d : Nat) (f : Die → Die) : (s.updDie d f).form = s.form := rfl
@[simp] theorem State.updDie_time (s : State) (d : Nat) (f : Die → Die) : (s.updDie d f).time = s.time := rfl
@[simp] theorem State.updDie_cur (s : State) (d : Nat) (f : Die → Die) : (s.updDie d f).cur = s.cur := rfl
@[simp] theorem State.updDie_agenda (s : State) (d : Nat) (f : Die → Die) : (s.updDie d f).agenda = s.agenda := rfl
@[simp] theorem State.updDie_freeCtr (s : State) (d : Nat) (f : Die → Die) : (s.updDie d f).freeCtr = s.freeCtr := rfl
@[simp] theorem State.updDie_phys (s : State) (d : Nat) (f : Die → Die) : (s.updDie d f).phys = s.phys := rfl
@[simp] theorem State.updDie_physBad (s : State) (d : Nat) (f : Die → Die) : (s.updDie d f).physBad = s.physBad := rfl
@[simp] theorem State.updDie_physUndef (s : State) (d : Nat) (f : Die → Die) : (s.updDie d f).physUndef = s.physUndef := rfl
@[simp] theorem State.updDie_flt (s : State) (d : Nat) (f : Die → Die) : (s.updDie d f).flt = s.flt := rfl
@[simp] theorem State.updDie_fltBad (s : State) (d : Nat) (f : Die → Die) : (s.updDie d f).fltBad = s.fltBad := rfl
@[simp] theorem State.updDie_fltUndef (s : State) (d : Nat) (f : Die → Die) : (s.updDie d f).fltUndef = s.fltUndef := rfl
@[simp] theorem State.updDie_host (s : State) (d : Nat) (f : Die → Die) : (s.updDie d f).host = s.host := rfl
@[simp] theorem State.updDie_hostBad (s : State) (d : Nat) (f : Die → Die) : (s.updDie d f).hostBad = s.hostBad := rfl
@[simp] theorem State.updDie_hostUndef (s : State) (d : Nat) (f : Die → Die) : (s.updDie d f).hostUndef = s.hostUndef := rfl
@[simp] theorem State.updDie_netFrame (s : State) (d : Nat) (f : Die → Die) : (s.updDie d f).netFrame = s.netFrame := rfl
@[simp] theorem State.updDie_chanFrame (s : State) (d : Nat) (f : Die → Die) : (s.updDie d f).chanFrame = s.chanFrame := rfl
@[simp] theorem State.updDie_chanTables (s : State) (d : Nat) (f : Die → Die) : (s.updDie d f).chanTables = s.chanTables := rfl
@[simp] theorem State.updDie_chanPhase (s : State) (d : Nat) (f : Die → Die) : (s.updDie d f).chanPhase = s.chanPhase := rfl
@[simp] theorem State.updDie_routing (s : State) (d : Nat) (f : Die → Die) : (s.updDie d f).routing = s.routing := rfl
@[simp] theorem State.updDie_chanCnt (s : State) (d : Nat) (f : Die → Die) : (s.updDie d f).chanCnt = s.chanCnt := rfl
@[simp] theorem State.updDie_attrNow (s : State) (d : Nat) (f : Die → Die) : (s.updDie d f).attrNow = s.attrNow := rfl
@[simp] theorem State.updDie_cxlResp (s : State) (d : Nat) (f : Die → Die) : (s.updDie d f).cxlResp = s.cxlResp := rfl
@[simp] theorem State.updDie_jtagResp (s : State) (d : Nat) (f : Die → Die) : (s.updDie d f).jtagResp = s.jtagResp := rfl
@[simp] theorem State.updDie_unseen (s : State) (d : Nat) (f : Die → Die) : (s.updDie d f).unseen = s.unseen := rfl
@[simp] theorem State.updDie_ownAt (s : State) (d : Nat) (f : Die → Die) : (s.updDie d f).ownAt = s.ownAt := rfl
@[simp] theorem State.updDie_ownQ (s : State) (d : Nat) (f : Die → Die) : (s.updDie d f).ownQ = s.ownQ := rfl
@[simp] theorem State.updDie_hotAsked (s : State) (d : Nat) (f : Die → Die) : (s.updDie d f).hotAsked = s.hotAsked := rfl
@[simp] theorem State.updDie_walkCache (s : State) (d : Nat) (f : Die → Die) : (s.updDie d f).walkCache = s.walkCache := rfl
@[simp] theorem State.updDie_tiles (s : State) (d : Nat) (f : Die → Die) : (s.updDie d f).tiles = s.tiles := rfl
@[simp] theorem State.updDie_clusters (s : State) (d : Nat) (f : Die → Die) : (s.updDie d f).clusters = s.clusters := rfl
@[simp] theorem State.updDie_tlb (s : State) (d : Nat) (f : Die → Die) : (s.updDie d f).tlb = s.tlb := rfl
@[simp] theorem State.updDie_invQ (s : State) (d : Nat) (f : Die → Die) : (s.updDie d f).invQ = s.invQ := rfl
@[simp] theorem State.updDie_remap (s : State) (d : Nat) (f : Die → Die) : (s.updDie d f).remap = s.remap := rfl
@[simp] theorem State.updDie_hot (s : State) (d : Nat) (f : Die → Die) : (s.updDie d f).hot = s.hot := rfl
@[simp] theorem State.updDie_swth (s : State) (d : Nat) (f : Die → Die) : (s.updDie d f).swth = s.swth := rfl
@[simp] theorem State.updDie_epoch (s : State) (d : Nat) (f : Die → Die) : (s.updDie d f).epoch = s.epoch := rfl
@[simp] theorem State.updDie_epochAt (s : State) (d : Nat) (f : Die → Die) : (s.updDie d f).epochAt = s.epochAt := rfl
@[simp] theorem State.updDie_swapQ (s : State) (d : Nat) (f : Die → Die) : (s.updDie d f).swapQ = s.swapQ := rfl
@[simp] theorem State.updDie_swaps (s : State) (d : Nat) (f : Die → Die) : (s.updDie d f).swaps = s.swaps := rfl
@[simp] theorem State.updDie_nodeFrames (s : State) (d : Nat) (f : Die → Die) : (s.updDie d f).nodeFrames = s.nodeFrames := rfl
@[simp] theorem State.updDie_frames (s : State) (d : Nat) (f : Die → Die) : (s.updDie d f).frames = s.frames := rfl
@[simp] theorem State.updDie_cxmUnits (s : State) (d : Nat) (f : Die → Die) : (s.updDie d f).cxmUnits = s.cxmUnits := rfl
@[simp] theorem State.updDie_fltUnits (s : State) (d : Nat) (f : Die → Die) : (s.updDie d f).fltUnits = s.fltUnits := rfl
@[simp] theorem State.updDie_cxmBase (s : State) (d : Nat) (f : Die → Die) : (s.updDie d f).cxmBase = s.cxmBase := rfl
@[simp] theorem State.updDie_cxmLen (s : State) (d : Nat) (f : Die → Die) : (s.updDie d f).cxmLen = s.cxmLen := rfl
@[simp] theorem State.updDie_transit (s : State) (d : Nat) (f : Die → Die) : (s.updDie d f).transit = s.transit := rfl
@[simp] theorem State.updDie_promoQ (s : State) (d : Nat) (f : Die → Die) : (s.updDie d f).promoQ = s.promoQ := rfl
@[simp] theorem State.updDie_stagedQ (s : State) (d : Nat) (f : Die → Die) : (s.updDie d f).stagedQ = s.stagedQ := rfl
@[simp] theorem State.updDie_demoQ (s : State) (d : Nat) (f : Die → Die) : (s.updDie d f).demoQ = s.demoQ := rfl
@[simp] theorem State.updDie_fullerTurn (s : State) (d : Nat) (f : Die → Die) : (s.updDie d f).fullerTurn = s.fullerTurn := rfl
@[simp] theorem State.updDie_collapses (s : State) (d : Nat) (f : Die → Die) : (s.updDie d f).collapses = s.collapses := rfl
@[simp] theorem State.updDie_cntFrame (s : State) (d : Nat) (f : Die → Die) : (s.updDie d f).cntFrame = s.cntFrame := rfl
@[simp] theorem State.updDie_attr (s : State) (d : Nat) (f : Die → Die) : (s.updDie d f).attr = s.attr := rfl
@[simp] theorem State.updDie_cntPages (s : State) (d : Nat) (f : Die → Die) : (s.updDie d f).cntPages = s.cntPages := rfl
@[simp] theorem State.updDie_snapSeq (s : State) (d : Nat) (f : Die → Die) : (s.updDie d f).snapSeq = s.snapSeq := rfl
@[simp] theorem State.updDie_snapTime (s : State) (d : Nat) (f : Die → Die) : (s.updDie d f).snapTime = s.snapTime := rfl
@[simp] theorem State.updDie_snapAt (s : State) (d : Nat) (f : Die → Die) : (s.updDie d f).snapAt = s.snapAt := rfl
@[simp] theorem State.updDie_log (s : State) (d : Nat) (f : Die → Die) : (s.updDie d f).log = s.log := rfl
@[simp] theorem State.updDie_fenceTot (s : State) (d : Nat) (f : Die → Die) : (s.updDie d f).fenceTot = s.fenceTot := rfl
@[simp] theorem State.updDie_cf (s : State) (d : Nat) (f : Die → Die) : (s.updDie d f).cf = s.cf := rfl
@[simp] theorem State.updDie_turnDec (s : State) (d : Nat) (f : Die → Die) : (s.updDie d f).turnDec = s.turnDec := rfl
@[simp] theorem State.updDie_turnIss (s : State) (d : Nat) (f : Die → Die) : (s.updDie d f).turnIss = s.turnIss := rfl
@[simp] theorem State.updDie_slotsDec (s : State) (d : Nat) (f : Die → Die) : (s.updDie d f).slotsDec = s.slotsDec := rfl
@[simp] theorem State.updDie_slotsIss (s : State) (d : Nat) (f : Die → Die) : (s.updDie d f).slotsIss = s.slotsIss := rfl
@[simp] theorem State.updDie_ctxs (s : State) (d : Nat) (f : Die → Die) : (s.updDie d f).ctxs = s.ctxs := rfl
@[simp] theorem State.updDie_units (s : State) (d : Nat) (f : Die → Die) : (s.updDie d f).units = s.units := rfl
@[simp] theorem State.updDie_queues (s : State) (d : Nat) (f : Die → Die) : (s.updDie d f).queues = s.queues := rfl
@[simp] theorem State.updDie_useCtr (s : State) (d : Nat) (f : Die → Die) : (s.updDie d f).useCtr = s.useCtr := rfl
@[simp] theorem State.updDie_ranges (s : State) (d : Nat) (f : Die → Die) : (s.updDie d f).ranges = s.ranges := rfl
@[simp] theorem State.updDie_mbxs (s : State) (d : Nat) (f : Die → Die) : (s.updDie d f).mbxs = s.mbxs := rfl
@[simp] theorem State.updDie_submitted (s : State) (d : Nat) (f : Die → Die) : (s.updDie d f).submitted = s.submitted := rfl
@[simp] theorem State.updDie_msix (s : State) (d : Nat) (f : Die → Die) : (s.updDie d f).msix = s.msix := rfl
@[simp] theorem State.updDie_ports (s : State) (d : Nat) (f : Die → Die) : (s.updDie d f).ports = s.ports := rfl
@[simp] theorem State.updDie_sec (s : State) (d : Nat) (f : Die → Die) : (s.updDie d f).sec = s.sec := rfl
@[simp] theorem State.updDie_telem (s : State) (d : Nat) (f : Die → Die) : (s.updDie d f).telem = s.telem := rfl
@[simp] theorem State.updDie_modPower (s : State) (d : Nat) (f : Die → Die) : (s.updDie d f).modPower = s.modPower := rfl
@[simp] theorem State.updDie_railPower (s : State) (d : Nat) (f : Die → Die) : (s.updDie d f).railPower = s.railPower := rfl
@[simp] theorem State.updDie_hubTemp (s : State) (d : Nat) (f : Die → Die) : (s.updDie d f).hubTemp = s.hubTemp := rfl
@[simp] theorem State.updDie_tripped (s : State) (d : Nat) (f : Die → Die) : (s.updDie d f).tripped = s.tripped := rfl
@[simp] theorem State.updDie_wdogDef (s : State) (d : Nat) (f : Die → Die) : (s.updDie d f).wdogDef = s.wdogDef := rfl

/-! ## State.setPort -/

@[simp] theorem State.setPort_form (s : State) (k : Nat) (p : Port) : (s.setPort k p).form = s.form := rfl
@[simp] theorem State.setPort_time (s : State) (k : Nat) (p : Port) : (s.setPort k p).time = s.time := rfl
@[simp] theorem State.setPort_cur (s : State) (k : Nat) (p : Port) : (s.setPort k p).cur = s.cur := rfl
@[simp] theorem State.setPort_agenda (s : State) (k : Nat) (p : Port) : (s.setPort k p).agenda = s.agenda := rfl
@[simp] theorem State.setPort_freeCtr (s : State) (k : Nat) (p : Port) : (s.setPort k p).freeCtr = s.freeCtr := rfl
@[simp] theorem State.setPort_phys (s : State) (k : Nat) (p : Port) : (s.setPort k p).phys = s.phys := rfl
@[simp] theorem State.setPort_physBad (s : State) (k : Nat) (p : Port) : (s.setPort k p).physBad = s.physBad := rfl
@[simp] theorem State.setPort_physUndef (s : State) (k : Nat) (p : Port) : (s.setPort k p).physUndef = s.physUndef := rfl
@[simp] theorem State.setPort_flt (s : State) (k : Nat) (p : Port) : (s.setPort k p).flt = s.flt := rfl
@[simp] theorem State.setPort_fltBad (s : State) (k : Nat) (p : Port) : (s.setPort k p).fltBad = s.fltBad := rfl
@[simp] theorem State.setPort_fltUndef (s : State) (k : Nat) (p : Port) : (s.setPort k p).fltUndef = s.fltUndef := rfl
@[simp] theorem State.setPort_host (s : State) (k : Nat) (p : Port) : (s.setPort k p).host = s.host := rfl
@[simp] theorem State.setPort_hostBad (s : State) (k : Nat) (p : Port) : (s.setPort k p).hostBad = s.hostBad := rfl
@[simp] theorem State.setPort_hostUndef (s : State) (k : Nat) (p : Port) : (s.setPort k p).hostUndef = s.hostUndef := rfl
@[simp] theorem State.setPort_netFrame (s : State) (k : Nat) (p : Port) : (s.setPort k p).netFrame = s.netFrame := rfl
@[simp] theorem State.setPort_chanFrame (s : State) (k : Nat) (p : Port) : (s.setPort k p).chanFrame = s.chanFrame := rfl
@[simp] theorem State.setPort_chanTables (s : State) (k : Nat) (p : Port) : (s.setPort k p).chanTables = s.chanTables := rfl
@[simp] theorem State.setPort_chanPhase (s : State) (k : Nat) (p : Port) : (s.setPort k p).chanPhase = s.chanPhase := rfl
@[simp] theorem State.setPort_routing (s : State) (k : Nat) (p : Port) : (s.setPort k p).routing = s.routing := rfl
@[simp] theorem State.setPort_chanCnt (s : State) (k : Nat) (p : Port) : (s.setPort k p).chanCnt = s.chanCnt := rfl
@[simp] theorem State.setPort_attrNow (s : State) (k : Nat) (p : Port) : (s.setPort k p).attrNow = s.attrNow := rfl
@[simp] theorem State.setPort_cxlResp (s : State) (k : Nat) (p : Port) : (s.setPort k p).cxlResp = s.cxlResp := rfl
@[simp] theorem State.setPort_jtagResp (s : State) (k : Nat) (p : Port) : (s.setPort k p).jtagResp = s.jtagResp := rfl
@[simp] theorem State.setPort_unseen (s : State) (k : Nat) (p : Port) : (s.setPort k p).unseen = s.unseen := rfl
@[simp] theorem State.setPort_ownAt (s : State) (k : Nat) (p : Port) : (s.setPort k p).ownAt = s.ownAt := rfl
@[simp] theorem State.setPort_ownQ (s : State) (k : Nat) (p : Port) : (s.setPort k p).ownQ = s.ownQ := rfl
@[simp] theorem State.setPort_hotAsked (s : State) (k : Nat) (p : Port) : (s.setPort k p).hotAsked = s.hotAsked := rfl
@[simp] theorem State.setPort_walkCache (s : State) (k : Nat) (p : Port) : (s.setPort k p).walkCache = s.walkCache := rfl
@[simp] theorem State.setPort_tiles (s : State) (k : Nat) (p : Port) : (s.setPort k p).tiles = s.tiles := rfl
@[simp] theorem State.setPort_clusters (s : State) (k : Nat) (p : Port) : (s.setPort k p).clusters = s.clusters := rfl
@[simp] theorem State.setPort_dies (s : State) (k : Nat) (p : Port) : (s.setPort k p).dies = s.dies := rfl
@[simp] theorem State.setPort_tlb (s : State) (k : Nat) (p : Port) : (s.setPort k p).tlb = s.tlb := rfl
@[simp] theorem State.setPort_invQ (s : State) (k : Nat) (p : Port) : (s.setPort k p).invQ = s.invQ := rfl
@[simp] theorem State.setPort_remap (s : State) (k : Nat) (p : Port) : (s.setPort k p).remap = s.remap := rfl
@[simp] theorem State.setPort_hot (s : State) (k : Nat) (p : Port) : (s.setPort k p).hot = s.hot := rfl
@[simp] theorem State.setPort_swth (s : State) (k : Nat) (p : Port) : (s.setPort k p).swth = s.swth := rfl
@[simp] theorem State.setPort_epoch (s : State) (k : Nat) (p : Port) : (s.setPort k p).epoch = s.epoch := rfl
@[simp] theorem State.setPort_epochAt (s : State) (k : Nat) (p : Port) : (s.setPort k p).epochAt = s.epochAt := rfl
@[simp] theorem State.setPort_swapQ (s : State) (k : Nat) (p : Port) : (s.setPort k p).swapQ = s.swapQ := rfl
@[simp] theorem State.setPort_swaps (s : State) (k : Nat) (p : Port) : (s.setPort k p).swaps = s.swaps := rfl
@[simp] theorem State.setPort_nodeFrames (s : State) (k : Nat) (p : Port) : (s.setPort k p).nodeFrames = s.nodeFrames := rfl
@[simp] theorem State.setPort_frames (s : State) (k : Nat) (p : Port) : (s.setPort k p).frames = s.frames := rfl
@[simp] theorem State.setPort_cxmUnits (s : State) (k : Nat) (p : Port) : (s.setPort k p).cxmUnits = s.cxmUnits := rfl
@[simp] theorem State.setPort_fltUnits (s : State) (k : Nat) (p : Port) : (s.setPort k p).fltUnits = s.fltUnits := rfl
@[simp] theorem State.setPort_cxmBase (s : State) (k : Nat) (p : Port) : (s.setPort k p).cxmBase = s.cxmBase := rfl
@[simp] theorem State.setPort_cxmLen (s : State) (k : Nat) (p : Port) : (s.setPort k p).cxmLen = s.cxmLen := rfl
@[simp] theorem State.setPort_transit (s : State) (k : Nat) (p : Port) : (s.setPort k p).transit = s.transit := rfl
@[simp] theorem State.setPort_promoQ (s : State) (k : Nat) (p : Port) : (s.setPort k p).promoQ = s.promoQ := rfl
@[simp] theorem State.setPort_stagedQ (s : State) (k : Nat) (p : Port) : (s.setPort k p).stagedQ = s.stagedQ := rfl
@[simp] theorem State.setPort_demoQ (s : State) (k : Nat) (p : Port) : (s.setPort k p).demoQ = s.demoQ := rfl
@[simp] theorem State.setPort_fullerTurn (s : State) (k : Nat) (p : Port) : (s.setPort k p).fullerTurn = s.fullerTurn := rfl
@[simp] theorem State.setPort_collapses (s : State) (k : Nat) (p : Port) : (s.setPort k p).collapses = s.collapses := rfl
@[simp] theorem State.setPort_cntFrame (s : State) (k : Nat) (p : Port) : (s.setPort k p).cntFrame = s.cntFrame := rfl
@[simp] theorem State.setPort_attr (s : State) (k : Nat) (p : Port) : (s.setPort k p).attr = s.attr := rfl
@[simp] theorem State.setPort_cntPages (s : State) (k : Nat) (p : Port) : (s.setPort k p).cntPages = s.cntPages := rfl
@[simp] theorem State.setPort_snapSeq (s : State) (k : Nat) (p : Port) : (s.setPort k p).snapSeq = s.snapSeq := rfl
@[simp] theorem State.setPort_snapTime (s : State) (k : Nat) (p : Port) : (s.setPort k p).snapTime = s.snapTime := rfl
@[simp] theorem State.setPort_snapAt (s : State) (k : Nat) (p : Port) : (s.setPort k p).snapAt = s.snapAt := rfl
@[simp] theorem State.setPort_log (s : State) (k : Nat) (p : Port) : (s.setPort k p).log = s.log := rfl
@[simp] theorem State.setPort_fenceTot (s : State) (k : Nat) (p : Port) : (s.setPort k p).fenceTot = s.fenceTot := rfl
@[simp] theorem State.setPort_cf (s : State) (k : Nat) (p : Port) : (s.setPort k p).cf = s.cf := rfl
@[simp] theorem State.setPort_turnDec (s : State) (k : Nat) (p : Port) : (s.setPort k p).turnDec = s.turnDec := rfl
@[simp] theorem State.setPort_turnIss (s : State) (k : Nat) (p : Port) : (s.setPort k p).turnIss = s.turnIss := rfl
@[simp] theorem State.setPort_slotsDec (s : State) (k : Nat) (p : Port) : (s.setPort k p).slotsDec = s.slotsDec := rfl
@[simp] theorem State.setPort_slotsIss (s : State) (k : Nat) (p : Port) : (s.setPort k p).slotsIss = s.slotsIss := rfl
@[simp] theorem State.setPort_ctxs (s : State) (k : Nat) (p : Port) : (s.setPort k p).ctxs = s.ctxs := rfl
@[simp] theorem State.setPort_units (s : State) (k : Nat) (p : Port) : (s.setPort k p).units = s.units := rfl
@[simp] theorem State.setPort_queues (s : State) (k : Nat) (p : Port) : (s.setPort k p).queues = s.queues := rfl
@[simp] theorem State.setPort_useCtr (s : State) (k : Nat) (p : Port) : (s.setPort k p).useCtr = s.useCtr := rfl
@[simp] theorem State.setPort_ranges (s : State) (k : Nat) (p : Port) : (s.setPort k p).ranges = s.ranges := rfl
@[simp] theorem State.setPort_mbxs (s : State) (k : Nat) (p : Port) : (s.setPort k p).mbxs = s.mbxs := rfl
@[simp] theorem State.setPort_submitted (s : State) (k : Nat) (p : Port) : (s.setPort k p).submitted = s.submitted := rfl
@[simp] theorem State.setPort_msix (s : State) (k : Nat) (p : Port) : (s.setPort k p).msix = s.msix := rfl
@[simp] theorem State.setPort_sec (s : State) (k : Nat) (p : Port) : (s.setPort k p).sec = s.sec := rfl
@[simp] theorem State.setPort_telem (s : State) (k : Nat) (p : Port) : (s.setPort k p).telem = s.telem := rfl
@[simp] theorem State.setPort_modPower (s : State) (k : Nat) (p : Port) : (s.setPort k p).modPower = s.modPower := rfl
@[simp] theorem State.setPort_railPower (s : State) (k : Nat) (p : Port) : (s.setPort k p).railPower = s.railPower := rfl
@[simp] theorem State.setPort_hubTemp (s : State) (k : Nat) (p : Port) : (s.setPort k p).hubTemp = s.hubTemp := rfl
@[simp] theorem State.setPort_tripped (s : State) (k : Nat) (p : Port) : (s.setPort k p).tripped = s.tripped := rfl
@[simp] theorem State.setPort_wdogDef (s : State) (k : Nat) (p : Port) : (s.setPort k p).wdogDef = s.wdogDef := rfl

/-! ## State.setQueue -/

@[simp] theorem State.setQueue_form (s : State) (n : Nat) (q : PQueue) : (s.setQueue n q).form = s.form := rfl
@[simp] theorem State.setQueue_time (s : State) (n : Nat) (q : PQueue) : (s.setQueue n q).time = s.time := rfl
@[simp] theorem State.setQueue_cur (s : State) (n : Nat) (q : PQueue) : (s.setQueue n q).cur = s.cur := rfl
@[simp] theorem State.setQueue_agenda (s : State) (n : Nat) (q : PQueue) : (s.setQueue n q).agenda = s.agenda := rfl
@[simp] theorem State.setQueue_freeCtr (s : State) (n : Nat) (q : PQueue) : (s.setQueue n q).freeCtr = s.freeCtr := rfl
@[simp] theorem State.setQueue_phys (s : State) (n : Nat) (q : PQueue) : (s.setQueue n q).phys = s.phys := rfl
@[simp] theorem State.setQueue_physBad (s : State) (n : Nat) (q : PQueue) : (s.setQueue n q).physBad = s.physBad := rfl
@[simp] theorem State.setQueue_physUndef (s : State) (n : Nat) (q : PQueue) : (s.setQueue n q).physUndef = s.physUndef := rfl
@[simp] theorem State.setQueue_flt (s : State) (n : Nat) (q : PQueue) : (s.setQueue n q).flt = s.flt := rfl
@[simp] theorem State.setQueue_fltBad (s : State) (n : Nat) (q : PQueue) : (s.setQueue n q).fltBad = s.fltBad := rfl
@[simp] theorem State.setQueue_fltUndef (s : State) (n : Nat) (q : PQueue) : (s.setQueue n q).fltUndef = s.fltUndef := rfl
@[simp] theorem State.setQueue_host (s : State) (n : Nat) (q : PQueue) : (s.setQueue n q).host = s.host := rfl
@[simp] theorem State.setQueue_hostBad (s : State) (n : Nat) (q : PQueue) : (s.setQueue n q).hostBad = s.hostBad := rfl
@[simp] theorem State.setQueue_hostUndef (s : State) (n : Nat) (q : PQueue) : (s.setQueue n q).hostUndef = s.hostUndef := rfl
@[simp] theorem State.setQueue_netFrame (s : State) (n : Nat) (q : PQueue) : (s.setQueue n q).netFrame = s.netFrame := rfl
@[simp] theorem State.setQueue_chanFrame (s : State) (n : Nat) (q : PQueue) : (s.setQueue n q).chanFrame = s.chanFrame := rfl
@[simp] theorem State.setQueue_chanTables (s : State) (n : Nat) (q : PQueue) : (s.setQueue n q).chanTables = s.chanTables := rfl
@[simp] theorem State.setQueue_chanPhase (s : State) (n : Nat) (q : PQueue) : (s.setQueue n q).chanPhase = s.chanPhase := rfl
@[simp] theorem State.setQueue_routing (s : State) (n : Nat) (q : PQueue) : (s.setQueue n q).routing = s.routing := rfl
@[simp] theorem State.setQueue_chanCnt (s : State) (n : Nat) (q : PQueue) : (s.setQueue n q).chanCnt = s.chanCnt := rfl
@[simp] theorem State.setQueue_attrNow (s : State) (n : Nat) (q : PQueue) : (s.setQueue n q).attrNow = s.attrNow := rfl
@[simp] theorem State.setQueue_cxlResp (s : State) (n : Nat) (q : PQueue) : (s.setQueue n q).cxlResp = s.cxlResp := rfl
@[simp] theorem State.setQueue_jtagResp (s : State) (n : Nat) (q : PQueue) : (s.setQueue n q).jtagResp = s.jtagResp := rfl
@[simp] theorem State.setQueue_unseen (s : State) (n : Nat) (q : PQueue) : (s.setQueue n q).unseen = s.unseen := rfl
@[simp] theorem State.setQueue_ownAt (s : State) (n : Nat) (q : PQueue) : (s.setQueue n q).ownAt = s.ownAt := rfl
@[simp] theorem State.setQueue_ownQ (s : State) (n : Nat) (q : PQueue) : (s.setQueue n q).ownQ = s.ownQ := rfl
@[simp] theorem State.setQueue_hotAsked (s : State) (n : Nat) (q : PQueue) : (s.setQueue n q).hotAsked = s.hotAsked := rfl
@[simp] theorem State.setQueue_walkCache (s : State) (n : Nat) (q : PQueue) : (s.setQueue n q).walkCache = s.walkCache := rfl
@[simp] theorem State.setQueue_tiles (s : State) (n : Nat) (q : PQueue) : (s.setQueue n q).tiles = s.tiles := rfl
@[simp] theorem State.setQueue_clusters (s : State) (n : Nat) (q : PQueue) : (s.setQueue n q).clusters = s.clusters := rfl
@[simp] theorem State.setQueue_dies (s : State) (n : Nat) (q : PQueue) : (s.setQueue n q).dies = s.dies := rfl
@[simp] theorem State.setQueue_tlb (s : State) (n : Nat) (q : PQueue) : (s.setQueue n q).tlb = s.tlb := rfl
@[simp] theorem State.setQueue_invQ (s : State) (n : Nat) (q : PQueue) : (s.setQueue n q).invQ = s.invQ := rfl
@[simp] theorem State.setQueue_remap (s : State) (n : Nat) (q : PQueue) : (s.setQueue n q).remap = s.remap := rfl
@[simp] theorem State.setQueue_hot (s : State) (n : Nat) (q : PQueue) : (s.setQueue n q).hot = s.hot := rfl
@[simp] theorem State.setQueue_swth (s : State) (n : Nat) (q : PQueue) : (s.setQueue n q).swth = s.swth := rfl
@[simp] theorem State.setQueue_epoch (s : State) (n : Nat) (q : PQueue) : (s.setQueue n q).epoch = s.epoch := rfl
@[simp] theorem State.setQueue_epochAt (s : State) (n : Nat) (q : PQueue) : (s.setQueue n q).epochAt = s.epochAt := rfl
@[simp] theorem State.setQueue_swapQ (s : State) (n : Nat) (q : PQueue) : (s.setQueue n q).swapQ = s.swapQ := rfl
@[simp] theorem State.setQueue_swaps (s : State) (n : Nat) (q : PQueue) : (s.setQueue n q).swaps = s.swaps := rfl
@[simp] theorem State.setQueue_nodeFrames (s : State) (n : Nat) (q : PQueue) : (s.setQueue n q).nodeFrames = s.nodeFrames := rfl
@[simp] theorem State.setQueue_frames (s : State) (n : Nat) (q : PQueue) : (s.setQueue n q).frames = s.frames := rfl
@[simp] theorem State.setQueue_cxmUnits (s : State) (n : Nat) (q : PQueue) : (s.setQueue n q).cxmUnits = s.cxmUnits := rfl
@[simp] theorem State.setQueue_fltUnits (s : State) (n : Nat) (q : PQueue) : (s.setQueue n q).fltUnits = s.fltUnits := rfl
@[simp] theorem State.setQueue_cxmBase (s : State) (n : Nat) (q : PQueue) : (s.setQueue n q).cxmBase = s.cxmBase := rfl
@[simp] theorem State.setQueue_cxmLen (s : State) (n : Nat) (q : PQueue) : (s.setQueue n q).cxmLen = s.cxmLen := rfl
@[simp] theorem State.setQueue_transit (s : State) (n : Nat) (q : PQueue) : (s.setQueue n q).transit = s.transit := rfl
@[simp] theorem State.setQueue_promoQ (s : State) (n : Nat) (q : PQueue) : (s.setQueue n q).promoQ = s.promoQ := rfl
@[simp] theorem State.setQueue_stagedQ (s : State) (n : Nat) (q : PQueue) : (s.setQueue n q).stagedQ = s.stagedQ := rfl
@[simp] theorem State.setQueue_demoQ (s : State) (n : Nat) (q : PQueue) : (s.setQueue n q).demoQ = s.demoQ := rfl
@[simp] theorem State.setQueue_fullerTurn (s : State) (n : Nat) (q : PQueue) : (s.setQueue n q).fullerTurn = s.fullerTurn := rfl
@[simp] theorem State.setQueue_collapses (s : State) (n : Nat) (q : PQueue) : (s.setQueue n q).collapses = s.collapses := rfl
@[simp] theorem State.setQueue_cntFrame (s : State) (n : Nat) (q : PQueue) : (s.setQueue n q).cntFrame = s.cntFrame := rfl
@[simp] theorem State.setQueue_attr (s : State) (n : Nat) (q : PQueue) : (s.setQueue n q).attr = s.attr := rfl
@[simp] theorem State.setQueue_cntPages (s : State) (n : Nat) (q : PQueue) : (s.setQueue n q).cntPages = s.cntPages := rfl
@[simp] theorem State.setQueue_snapSeq (s : State) (n : Nat) (q : PQueue) : (s.setQueue n q).snapSeq = s.snapSeq := rfl
@[simp] theorem State.setQueue_snapTime (s : State) (n : Nat) (q : PQueue) : (s.setQueue n q).snapTime = s.snapTime := rfl
@[simp] theorem State.setQueue_snapAt (s : State) (n : Nat) (q : PQueue) : (s.setQueue n q).snapAt = s.snapAt := rfl
@[simp] theorem State.setQueue_log (s : State) (n : Nat) (q : PQueue) : (s.setQueue n q).log = s.log := rfl
@[simp] theorem State.setQueue_fenceTot (s : State) (n : Nat) (q : PQueue) : (s.setQueue n q).fenceTot = s.fenceTot := rfl
@[simp] theorem State.setQueue_cf (s : State) (n : Nat) (q : PQueue) : (s.setQueue n q).cf = s.cf := rfl
@[simp] theorem State.setQueue_turnDec (s : State) (n : Nat) (q : PQueue) : (s.setQueue n q).turnDec = s.turnDec := rfl
@[simp] theorem State.setQueue_turnIss (s : State) (n : Nat) (q : PQueue) : (s.setQueue n q).turnIss = s.turnIss := rfl
@[simp] theorem State.setQueue_slotsDec (s : State) (n : Nat) (q : PQueue) : (s.setQueue n q).slotsDec = s.slotsDec := rfl
@[simp] theorem State.setQueue_slotsIss (s : State) (n : Nat) (q : PQueue) : (s.setQueue n q).slotsIss = s.slotsIss := rfl
@[simp] theorem State.setQueue_ctxs (s : State) (n : Nat) (q : PQueue) : (s.setQueue n q).ctxs = s.ctxs := rfl
@[simp] theorem State.setQueue_units (s : State) (n : Nat) (q : PQueue) : (s.setQueue n q).units = s.units := rfl
@[simp] theorem State.setQueue_useCtr (s : State) (n : Nat) (q : PQueue) : (s.setQueue n q).useCtr = s.useCtr := rfl
@[simp] theorem State.setQueue_ranges (s : State) (n : Nat) (q : PQueue) : (s.setQueue n q).ranges = s.ranges := rfl
@[simp] theorem State.setQueue_mbxs (s : State) (n : Nat) (q : PQueue) : (s.setQueue n q).mbxs = s.mbxs := rfl
@[simp] theorem State.setQueue_submitted (s : State) (n : Nat) (q : PQueue) : (s.setQueue n q).submitted = s.submitted := rfl
@[simp] theorem State.setQueue_msix (s : State) (n : Nat) (q : PQueue) : (s.setQueue n q).msix = s.msix := rfl
@[simp] theorem State.setQueue_ports (s : State) (n : Nat) (q : PQueue) : (s.setQueue n q).ports = s.ports := rfl
@[simp] theorem State.setQueue_sec (s : State) (n : Nat) (q : PQueue) : (s.setQueue n q).sec = s.sec := rfl
@[simp] theorem State.setQueue_telem (s : State) (n : Nat) (q : PQueue) : (s.setQueue n q).telem = s.telem := rfl
@[simp] theorem State.setQueue_modPower (s : State) (n : Nat) (q : PQueue) : (s.setQueue n q).modPower = s.modPower := rfl
@[simp] theorem State.setQueue_railPower (s : State) (n : Nat) (q : PQueue) : (s.setQueue n q).railPower = s.railPower := rfl
@[simp] theorem State.setQueue_hubTemp (s : State) (n : Nat) (q : PQueue) : (s.setQueue n q).hubTemp = s.hubTemp := rfl
@[simp] theorem State.setQueue_tripped (s : State) (n : Nat) (q : PQueue) : (s.setQueue n q).tripped = s.tripped := rfl
@[simp] theorem State.setQueue_wdogDef (s : State) (n : Nat) (q : PQueue) : (s.setQueue n q).wdogDef = s.wdogDef := rfl

/-! ## State.updMbx -/

@[simp] theorem State.updMbx_form (s : State) (m : Nat) (f : Mailbox → Mailbox) : (s.updMbx m f).form = s.form := rfl
@[simp] theorem State.updMbx_time (s : State) (m : Nat) (f : Mailbox → Mailbox) : (s.updMbx m f).time = s.time := rfl
@[simp] theorem State.updMbx_cur (s : State) (m : Nat) (f : Mailbox → Mailbox) : (s.updMbx m f).cur = s.cur := rfl
@[simp] theorem State.updMbx_agenda (s : State) (m : Nat) (f : Mailbox → Mailbox) : (s.updMbx m f).agenda = s.agenda := rfl
@[simp] theorem State.updMbx_freeCtr (s : State) (m : Nat) (f : Mailbox → Mailbox) : (s.updMbx m f).freeCtr = s.freeCtr := rfl
@[simp] theorem State.updMbx_phys (s : State) (m : Nat) (f : Mailbox → Mailbox) : (s.updMbx m f).phys = s.phys := rfl
@[simp] theorem State.updMbx_physBad (s : State) (m : Nat) (f : Mailbox → Mailbox) : (s.updMbx m f).physBad = s.physBad := rfl
@[simp] theorem State.updMbx_physUndef (s : State) (m : Nat) (f : Mailbox → Mailbox) : (s.updMbx m f).physUndef = s.physUndef := rfl
@[simp] theorem State.updMbx_flt (s : State) (m : Nat) (f : Mailbox → Mailbox) : (s.updMbx m f).flt = s.flt := rfl
@[simp] theorem State.updMbx_fltBad (s : State) (m : Nat) (f : Mailbox → Mailbox) : (s.updMbx m f).fltBad = s.fltBad := rfl
@[simp] theorem State.updMbx_fltUndef (s : State) (m : Nat) (f : Mailbox → Mailbox) : (s.updMbx m f).fltUndef = s.fltUndef := rfl
@[simp] theorem State.updMbx_host (s : State) (m : Nat) (f : Mailbox → Mailbox) : (s.updMbx m f).host = s.host := rfl
@[simp] theorem State.updMbx_hostBad (s : State) (m : Nat) (f : Mailbox → Mailbox) : (s.updMbx m f).hostBad = s.hostBad := rfl
@[simp] theorem State.updMbx_hostUndef (s : State) (m : Nat) (f : Mailbox → Mailbox) : (s.updMbx m f).hostUndef = s.hostUndef := rfl
@[simp] theorem State.updMbx_netFrame (s : State) (m : Nat) (f : Mailbox → Mailbox) : (s.updMbx m f).netFrame = s.netFrame := rfl
@[simp] theorem State.updMbx_chanFrame (s : State) (m : Nat) (f : Mailbox → Mailbox) : (s.updMbx m f).chanFrame = s.chanFrame := rfl
@[simp] theorem State.updMbx_chanTables (s : State) (m : Nat) (f : Mailbox → Mailbox) : (s.updMbx m f).chanTables = s.chanTables := rfl
@[simp] theorem State.updMbx_chanPhase (s : State) (m : Nat) (f : Mailbox → Mailbox) : (s.updMbx m f).chanPhase = s.chanPhase := rfl
@[simp] theorem State.updMbx_routing (s : State) (m : Nat) (f : Mailbox → Mailbox) : (s.updMbx m f).routing = s.routing := rfl
@[simp] theorem State.updMbx_chanCnt (s : State) (m : Nat) (f : Mailbox → Mailbox) : (s.updMbx m f).chanCnt = s.chanCnt := rfl
@[simp] theorem State.updMbx_attrNow (s : State) (m : Nat) (f : Mailbox → Mailbox) : (s.updMbx m f).attrNow = s.attrNow := rfl
@[simp] theorem State.updMbx_cxlResp (s : State) (m : Nat) (f : Mailbox → Mailbox) : (s.updMbx m f).cxlResp = s.cxlResp := rfl
@[simp] theorem State.updMbx_jtagResp (s : State) (m : Nat) (f : Mailbox → Mailbox) : (s.updMbx m f).jtagResp = s.jtagResp := rfl
@[simp] theorem State.updMbx_unseen (s : State) (m : Nat) (f : Mailbox → Mailbox) : (s.updMbx m f).unseen = s.unseen := rfl
@[simp] theorem State.updMbx_ownAt (s : State) (m : Nat) (f : Mailbox → Mailbox) : (s.updMbx m f).ownAt = s.ownAt := rfl
@[simp] theorem State.updMbx_ownQ (s : State) (m : Nat) (f : Mailbox → Mailbox) : (s.updMbx m f).ownQ = s.ownQ := rfl
@[simp] theorem State.updMbx_hotAsked (s : State) (m : Nat) (f : Mailbox → Mailbox) : (s.updMbx m f).hotAsked = s.hotAsked := rfl
@[simp] theorem State.updMbx_walkCache (s : State) (m : Nat) (f : Mailbox → Mailbox) : (s.updMbx m f).walkCache = s.walkCache := rfl
@[simp] theorem State.updMbx_tiles (s : State) (m : Nat) (f : Mailbox → Mailbox) : (s.updMbx m f).tiles = s.tiles := rfl
@[simp] theorem State.updMbx_clusters (s : State) (m : Nat) (f : Mailbox → Mailbox) : (s.updMbx m f).clusters = s.clusters := rfl
@[simp] theorem State.updMbx_dies (s : State) (m : Nat) (f : Mailbox → Mailbox) : (s.updMbx m f).dies = s.dies := rfl
@[simp] theorem State.updMbx_tlb (s : State) (m : Nat) (f : Mailbox → Mailbox) : (s.updMbx m f).tlb = s.tlb := rfl
@[simp] theorem State.updMbx_invQ (s : State) (m : Nat) (f : Mailbox → Mailbox) : (s.updMbx m f).invQ = s.invQ := rfl
@[simp] theorem State.updMbx_remap (s : State) (m : Nat) (f : Mailbox → Mailbox) : (s.updMbx m f).remap = s.remap := rfl
@[simp] theorem State.updMbx_hot (s : State) (m : Nat) (f : Mailbox → Mailbox) : (s.updMbx m f).hot = s.hot := rfl
@[simp] theorem State.updMbx_swth (s : State) (m : Nat) (f : Mailbox → Mailbox) : (s.updMbx m f).swth = s.swth := rfl
@[simp] theorem State.updMbx_epoch (s : State) (m : Nat) (f : Mailbox → Mailbox) : (s.updMbx m f).epoch = s.epoch := rfl
@[simp] theorem State.updMbx_epochAt (s : State) (m : Nat) (f : Mailbox → Mailbox) : (s.updMbx m f).epochAt = s.epochAt := rfl
@[simp] theorem State.updMbx_swapQ (s : State) (m : Nat) (f : Mailbox → Mailbox) : (s.updMbx m f).swapQ = s.swapQ := rfl
@[simp] theorem State.updMbx_swaps (s : State) (m : Nat) (f : Mailbox → Mailbox) : (s.updMbx m f).swaps = s.swaps := rfl
@[simp] theorem State.updMbx_nodeFrames (s : State) (m : Nat) (f : Mailbox → Mailbox) : (s.updMbx m f).nodeFrames = s.nodeFrames := rfl
@[simp] theorem State.updMbx_frames (s : State) (m : Nat) (f : Mailbox → Mailbox) : (s.updMbx m f).frames = s.frames := rfl
@[simp] theorem State.updMbx_cxmUnits (s : State) (m : Nat) (f : Mailbox → Mailbox) : (s.updMbx m f).cxmUnits = s.cxmUnits := rfl
@[simp] theorem State.updMbx_fltUnits (s : State) (m : Nat) (f : Mailbox → Mailbox) : (s.updMbx m f).fltUnits = s.fltUnits := rfl
@[simp] theorem State.updMbx_cxmBase (s : State) (m : Nat) (f : Mailbox → Mailbox) : (s.updMbx m f).cxmBase = s.cxmBase := rfl
@[simp] theorem State.updMbx_cxmLen (s : State) (m : Nat) (f : Mailbox → Mailbox) : (s.updMbx m f).cxmLen = s.cxmLen := rfl
@[simp] theorem State.updMbx_transit (s : State) (m : Nat) (f : Mailbox → Mailbox) : (s.updMbx m f).transit = s.transit := rfl
@[simp] theorem State.updMbx_promoQ (s : State) (m : Nat) (f : Mailbox → Mailbox) : (s.updMbx m f).promoQ = s.promoQ := rfl
@[simp] theorem State.updMbx_stagedQ (s : State) (m : Nat) (f : Mailbox → Mailbox) : (s.updMbx m f).stagedQ = s.stagedQ := rfl
@[simp] theorem State.updMbx_demoQ (s : State) (m : Nat) (f : Mailbox → Mailbox) : (s.updMbx m f).demoQ = s.demoQ := rfl
@[simp] theorem State.updMbx_fullerTurn (s : State) (m : Nat) (f : Mailbox → Mailbox) : (s.updMbx m f).fullerTurn = s.fullerTurn := rfl
@[simp] theorem State.updMbx_collapses (s : State) (m : Nat) (f : Mailbox → Mailbox) : (s.updMbx m f).collapses = s.collapses := rfl
@[simp] theorem State.updMbx_cntFrame (s : State) (m : Nat) (f : Mailbox → Mailbox) : (s.updMbx m f).cntFrame = s.cntFrame := rfl
@[simp] theorem State.updMbx_attr (s : State) (m : Nat) (f : Mailbox → Mailbox) : (s.updMbx m f).attr = s.attr := rfl
@[simp] theorem State.updMbx_cntPages (s : State) (m : Nat) (f : Mailbox → Mailbox) : (s.updMbx m f).cntPages = s.cntPages := rfl
@[simp] theorem State.updMbx_snapSeq (s : State) (m : Nat) (f : Mailbox → Mailbox) : (s.updMbx m f).snapSeq = s.snapSeq := rfl
@[simp] theorem State.updMbx_snapTime (s : State) (m : Nat) (f : Mailbox → Mailbox) : (s.updMbx m f).snapTime = s.snapTime := rfl
@[simp] theorem State.updMbx_snapAt (s : State) (m : Nat) (f : Mailbox → Mailbox) : (s.updMbx m f).snapAt = s.snapAt := rfl
@[simp] theorem State.updMbx_log (s : State) (m : Nat) (f : Mailbox → Mailbox) : (s.updMbx m f).log = s.log := rfl
@[simp] theorem State.updMbx_fenceTot (s : State) (m : Nat) (f : Mailbox → Mailbox) : (s.updMbx m f).fenceTot = s.fenceTot := rfl
@[simp] theorem State.updMbx_cf (s : State) (m : Nat) (f : Mailbox → Mailbox) : (s.updMbx m f).cf = s.cf := rfl
@[simp] theorem State.updMbx_turnDec (s : State) (m : Nat) (f : Mailbox → Mailbox) : (s.updMbx m f).turnDec = s.turnDec := rfl
@[simp] theorem State.updMbx_turnIss (s : State) (m : Nat) (f : Mailbox → Mailbox) : (s.updMbx m f).turnIss = s.turnIss := rfl
@[simp] theorem State.updMbx_slotsDec (s : State) (m : Nat) (f : Mailbox → Mailbox) : (s.updMbx m f).slotsDec = s.slotsDec := rfl
@[simp] theorem State.updMbx_slotsIss (s : State) (m : Nat) (f : Mailbox → Mailbox) : (s.updMbx m f).slotsIss = s.slotsIss := rfl
@[simp] theorem State.updMbx_ctxs (s : State) (m : Nat) (f : Mailbox → Mailbox) : (s.updMbx m f).ctxs = s.ctxs := rfl
@[simp] theorem State.updMbx_units (s : State) (m : Nat) (f : Mailbox → Mailbox) : (s.updMbx m f).units = s.units := rfl
@[simp] theorem State.updMbx_queues (s : State) (m : Nat) (f : Mailbox → Mailbox) : (s.updMbx m f).queues = s.queues := rfl
@[simp] theorem State.updMbx_useCtr (s : State) (m : Nat) (f : Mailbox → Mailbox) : (s.updMbx m f).useCtr = s.useCtr := rfl
@[simp] theorem State.updMbx_ranges (s : State) (m : Nat) (f : Mailbox → Mailbox) : (s.updMbx m f).ranges = s.ranges := rfl
@[simp] theorem State.updMbx_submitted (s : State) (m : Nat) (f : Mailbox → Mailbox) : (s.updMbx m f).submitted = s.submitted := rfl
@[simp] theorem State.updMbx_msix (s : State) (m : Nat) (f : Mailbox → Mailbox) : (s.updMbx m f).msix = s.msix := rfl
@[simp] theorem State.updMbx_ports (s : State) (m : Nat) (f : Mailbox → Mailbox) : (s.updMbx m f).ports = s.ports := rfl
@[simp] theorem State.updMbx_sec (s : State) (m : Nat) (f : Mailbox → Mailbox) : (s.updMbx m f).sec = s.sec := rfl
@[simp] theorem State.updMbx_telem (s : State) (m : Nat) (f : Mailbox → Mailbox) : (s.updMbx m f).telem = s.telem := rfl
@[simp] theorem State.updMbx_modPower (s : State) (m : Nat) (f : Mailbox → Mailbox) : (s.updMbx m f).modPower = s.modPower := rfl
@[simp] theorem State.updMbx_railPower (s : State) (m : Nat) (f : Mailbox → Mailbox) : (s.updMbx m f).railPower = s.railPower := rfl
@[simp] theorem State.updMbx_hubTemp (s : State) (m : Nat) (f : Mailbox → Mailbox) : (s.updMbx m f).hubTemp = s.hubTemp := rfl
@[simp] theorem State.updMbx_tripped (s : State) (m : Nat) (f : Mailbox → Mailbox) : (s.updMbx m f).tripped = s.tripped := rfl
@[simp] theorem State.updMbx_wdogDef (s : State) (m : Nat) (f : Mailbox → Mailbox) : (s.updMbx m f).wdogDef = s.wdogDef := rfl

/-! ## State.setMem -/

@[simp] theorem State.setMem_form (s : State) (l : Loc) (m : SMap Byte) : (s.setMem l m).form = s.form := by cases l <;> rfl
@[simp] theorem State.setMem_time (s : State) (l : Loc) (m : SMap Byte) : (s.setMem l m).time = s.time := by cases l <;> rfl
@[simp] theorem State.setMem_cur (s : State) (l : Loc) (m : SMap Byte) : (s.setMem l m).cur = s.cur := by cases l <;> rfl
@[simp] theorem State.setMem_agenda (s : State) (l : Loc) (m : SMap Byte) : (s.setMem l m).agenda = s.agenda := by cases l <;> rfl
@[simp] theorem State.setMem_freeCtr (s : State) (l : Loc) (m : SMap Byte) : (s.setMem l m).freeCtr = s.freeCtr := by cases l <;> rfl
@[simp] theorem State.setMem_physBad (s : State) (l : Loc) (m : SMap Byte) : (s.setMem l m).physBad = s.physBad := by cases l <;> rfl
@[simp] theorem State.setMem_physUndef (s : State) (l : Loc) (m : SMap Byte) : (s.setMem l m).physUndef = s.physUndef := by cases l <;> rfl
@[simp] theorem State.setMem_fltBad (s : State) (l : Loc) (m : SMap Byte) : (s.setMem l m).fltBad = s.fltBad := by cases l <;> rfl
@[simp] theorem State.setMem_fltUndef (s : State) (l : Loc) (m : SMap Byte) : (s.setMem l m).fltUndef = s.fltUndef := by cases l <;> rfl
@[simp] theorem State.setMem_hostBad (s : State) (l : Loc) (m : SMap Byte) : (s.setMem l m).hostBad = s.hostBad := by cases l <;> rfl
@[simp] theorem State.setMem_hostUndef (s : State) (l : Loc) (m : SMap Byte) : (s.setMem l m).hostUndef = s.hostUndef := by cases l <;> rfl
@[simp] theorem State.setMem_netFrame (s : State) (l : Loc) (m : SMap Byte) : (s.setMem l m).netFrame = s.netFrame := by cases l <;> rfl
@[simp] theorem State.setMem_chanFrame (s : State) (l : Loc) (m : SMap Byte) : (s.setMem l m).chanFrame = s.chanFrame := by cases l <;> rfl
@[simp] theorem State.setMem_chanTables (s : State) (l : Loc) (m : SMap Byte) : (s.setMem l m).chanTables = s.chanTables := by cases l <;> rfl
@[simp] theorem State.setMem_chanPhase (s : State) (l : Loc) (m : SMap Byte) : (s.setMem l m).chanPhase = s.chanPhase := by cases l <;> rfl
@[simp] theorem State.setMem_routing (s : State) (l : Loc) (m : SMap Byte) : (s.setMem l m).routing = s.routing := by cases l <;> rfl
@[simp] theorem State.setMem_chanCnt (s : State) (l : Loc) (m : SMap Byte) : (s.setMem l m).chanCnt = s.chanCnt := by cases l <;> rfl
@[simp] theorem State.setMem_attrNow (s : State) (l : Loc) (m : SMap Byte) : (s.setMem l m).attrNow = s.attrNow := by cases l <;> rfl
@[simp] theorem State.setMem_cxlResp (s : State) (l : Loc) (m : SMap Byte) : (s.setMem l m).cxlResp = s.cxlResp := by cases l <;> rfl
@[simp] theorem State.setMem_jtagResp (s : State) (l : Loc) (m : SMap Byte) : (s.setMem l m).jtagResp = s.jtagResp := by cases l <;> rfl
@[simp] theorem State.setMem_unseen (s : State) (l : Loc) (m : SMap Byte) : (s.setMem l m).unseen = s.unseen := by cases l <;> rfl
@[simp] theorem State.setMem_ownAt (s : State) (l : Loc) (m : SMap Byte) : (s.setMem l m).ownAt = s.ownAt := by cases l <;> rfl
@[simp] theorem State.setMem_ownQ (s : State) (l : Loc) (m : SMap Byte) : (s.setMem l m).ownQ = s.ownQ := by cases l <;> rfl
@[simp] theorem State.setMem_hotAsked (s : State) (l : Loc) (m : SMap Byte) : (s.setMem l m).hotAsked = s.hotAsked := by cases l <;> rfl
@[simp] theorem State.setMem_walkCache (s : State) (l : Loc) (m : SMap Byte) : (s.setMem l m).walkCache = s.walkCache := by cases l <;> rfl
@[simp] theorem State.setMem_clusters (s : State) (l : Loc) (m : SMap Byte) : (s.setMem l m).clusters = s.clusters := by cases l <;> rfl
@[simp] theorem State.setMem_dies (s : State) (l : Loc) (m : SMap Byte) : (s.setMem l m).dies = s.dies := by cases l <;> rfl
@[simp] theorem State.setMem_tlb (s : State) (l : Loc) (m : SMap Byte) : (s.setMem l m).tlb = s.tlb := by cases l <;> rfl
@[simp] theorem State.setMem_invQ (s : State) (l : Loc) (m : SMap Byte) : (s.setMem l m).invQ = s.invQ := by cases l <;> rfl
@[simp] theorem State.setMem_remap (s : State) (l : Loc) (m : SMap Byte) : (s.setMem l m).remap = s.remap := by cases l <;> rfl
@[simp] theorem State.setMem_hot (s : State) (l : Loc) (m : SMap Byte) : (s.setMem l m).hot = s.hot := by cases l <;> rfl
@[simp] theorem State.setMem_swth (s : State) (l : Loc) (m : SMap Byte) : (s.setMem l m).swth = s.swth := by cases l <;> rfl
@[simp] theorem State.setMem_epoch (s : State) (l : Loc) (m : SMap Byte) : (s.setMem l m).epoch = s.epoch := by cases l <;> rfl
@[simp] theorem State.setMem_epochAt (s : State) (l : Loc) (m : SMap Byte) : (s.setMem l m).epochAt = s.epochAt := by cases l <;> rfl
@[simp] theorem State.setMem_swapQ (s : State) (l : Loc) (m : SMap Byte) : (s.setMem l m).swapQ = s.swapQ := by cases l <;> rfl
@[simp] theorem State.setMem_swaps (s : State) (l : Loc) (m : SMap Byte) : (s.setMem l m).swaps = s.swaps := by cases l <;> rfl
@[simp] theorem State.setMem_nodeFrames (s : State) (l : Loc) (m : SMap Byte) : (s.setMem l m).nodeFrames = s.nodeFrames := by cases l <;> rfl
@[simp] theorem State.setMem_frames (s : State) (l : Loc) (m : SMap Byte) : (s.setMem l m).frames = s.frames := by cases l <;> rfl
@[simp] theorem State.setMem_cxmUnits (s : State) (l : Loc) (m : SMap Byte) : (s.setMem l m).cxmUnits = s.cxmUnits := by cases l <;> rfl
@[simp] theorem State.setMem_fltUnits (s : State) (l : Loc) (m : SMap Byte) : (s.setMem l m).fltUnits = s.fltUnits := by cases l <;> rfl
@[simp] theorem State.setMem_cxmBase (s : State) (l : Loc) (m : SMap Byte) : (s.setMem l m).cxmBase = s.cxmBase := by cases l <;> rfl
@[simp] theorem State.setMem_cxmLen (s : State) (l : Loc) (m : SMap Byte) : (s.setMem l m).cxmLen = s.cxmLen := by cases l <;> rfl
@[simp] theorem State.setMem_transit (s : State) (l : Loc) (m : SMap Byte) : (s.setMem l m).transit = s.transit := by cases l <;> rfl
@[simp] theorem State.setMem_promoQ (s : State) (l : Loc) (m : SMap Byte) : (s.setMem l m).promoQ = s.promoQ := by cases l <;> rfl
@[simp] theorem State.setMem_stagedQ (s : State) (l : Loc) (m : SMap Byte) : (s.setMem l m).stagedQ = s.stagedQ := by cases l <;> rfl
@[simp] theorem State.setMem_demoQ (s : State) (l : Loc) (m : SMap Byte) : (s.setMem l m).demoQ = s.demoQ := by cases l <;> rfl
@[simp] theorem State.setMem_fullerTurn (s : State) (l : Loc) (m : SMap Byte) : (s.setMem l m).fullerTurn = s.fullerTurn := by cases l <;> rfl
@[simp] theorem State.setMem_collapses (s : State) (l : Loc) (m : SMap Byte) : (s.setMem l m).collapses = s.collapses := by cases l <;> rfl
@[simp] theorem State.setMem_cntFrame (s : State) (l : Loc) (m : SMap Byte) : (s.setMem l m).cntFrame = s.cntFrame := by cases l <;> rfl
@[simp] theorem State.setMem_attr (s : State) (l : Loc) (m : SMap Byte) : (s.setMem l m).attr = s.attr := by cases l <;> rfl
@[simp] theorem State.setMem_cntPages (s : State) (l : Loc) (m : SMap Byte) : (s.setMem l m).cntPages = s.cntPages := by cases l <;> rfl
@[simp] theorem State.setMem_snapSeq (s : State) (l : Loc) (m : SMap Byte) : (s.setMem l m).snapSeq = s.snapSeq := by cases l <;> rfl
@[simp] theorem State.setMem_snapTime (s : State) (l : Loc) (m : SMap Byte) : (s.setMem l m).snapTime = s.snapTime := by cases l <;> rfl
@[simp] theorem State.setMem_snapAt (s : State) (l : Loc) (m : SMap Byte) : (s.setMem l m).snapAt = s.snapAt := by cases l <;> rfl
@[simp] theorem State.setMem_log (s : State) (l : Loc) (m : SMap Byte) : (s.setMem l m).log = s.log := by cases l <;> rfl
@[simp] theorem State.setMem_fenceTot (s : State) (l : Loc) (m : SMap Byte) : (s.setMem l m).fenceTot = s.fenceTot := by cases l <;> rfl
@[simp] theorem State.setMem_cf (s : State) (l : Loc) (m : SMap Byte) : (s.setMem l m).cf = s.cf := by cases l <;> rfl
@[simp] theorem State.setMem_turnDec (s : State) (l : Loc) (m : SMap Byte) : (s.setMem l m).turnDec = s.turnDec := by cases l <;> rfl
@[simp] theorem State.setMem_turnIss (s : State) (l : Loc) (m : SMap Byte) : (s.setMem l m).turnIss = s.turnIss := by cases l <;> rfl
@[simp] theorem State.setMem_slotsDec (s : State) (l : Loc) (m : SMap Byte) : (s.setMem l m).slotsDec = s.slotsDec := by cases l <;> rfl
@[simp] theorem State.setMem_slotsIss (s : State) (l : Loc) (m : SMap Byte) : (s.setMem l m).slotsIss = s.slotsIss := by cases l <;> rfl
@[simp] theorem State.setMem_ctxs (s : State) (l : Loc) (m : SMap Byte) : (s.setMem l m).ctxs = s.ctxs := by cases l <;> rfl
@[simp] theorem State.setMem_units (s : State) (l : Loc) (m : SMap Byte) : (s.setMem l m).units = s.units := by cases l <;> rfl
@[simp] theorem State.setMem_queues (s : State) (l : Loc) (m : SMap Byte) : (s.setMem l m).queues = s.queues := by cases l <;> rfl
@[simp] theorem State.setMem_useCtr (s : State) (l : Loc) (m : SMap Byte) : (s.setMem l m).useCtr = s.useCtr := by cases l <;> rfl
@[simp] theorem State.setMem_ranges (s : State) (l : Loc) (m : SMap Byte) : (s.setMem l m).ranges = s.ranges := by cases l <;> rfl
@[simp] theorem State.setMem_mbxs (s : State) (l : Loc) (m : SMap Byte) : (s.setMem l m).mbxs = s.mbxs := by cases l <;> rfl
@[simp] theorem State.setMem_submitted (s : State) (l : Loc) (m : SMap Byte) : (s.setMem l m).submitted = s.submitted := by cases l <;> rfl
@[simp] theorem State.setMem_msix (s : State) (l : Loc) (m : SMap Byte) : (s.setMem l m).msix = s.msix := by cases l <;> rfl
@[simp] theorem State.setMem_ports (s : State) (l : Loc) (m : SMap Byte) : (s.setMem l m).ports = s.ports := by cases l <;> rfl
@[simp] theorem State.setMem_sec (s : State) (l : Loc) (m : SMap Byte) : (s.setMem l m).sec = s.sec := by cases l <;> rfl
@[simp] theorem State.setMem_telem (s : State) (l : Loc) (m : SMap Byte) : (s.setMem l m).telem = s.telem := by cases l <;> rfl
@[simp] theorem State.setMem_modPower (s : State) (l : Loc) (m : SMap Byte) : (s.setMem l m).modPower = s.modPower := by cases l <;> rfl
@[simp] theorem State.setMem_railPower (s : State) (l : Loc) (m : SMap Byte) : (s.setMem l m).railPower = s.railPower := by cases l <;> rfl
@[simp] theorem State.setMem_hubTemp (s : State) (l : Loc) (m : SMap Byte) : (s.setMem l m).hubTemp = s.hubTemp := by cases l <;> rfl
@[simp] theorem State.setMem_tripped (s : State) (l : Loc) (m : SMap Byte) : (s.setMem l m).tripped = s.tripped := by cases l <;> rfl
@[simp] theorem State.setMem_wdogDef (s : State) (l : Loc) (m : SMap Byte) : (s.setMem l m).wdogDef = s.wdogDef := by cases l <;> rfl

/-! ## State.setBad -/

@[simp] theorem State.setBad_form (s : State) (l : Loc) (b : List Nat) : (s.setBad l b).form = s.form := by cases l <;> rfl
@[simp] theorem State.setBad_time (s : State) (l : Loc) (b : List Nat) : (s.setBad l b).time = s.time := by cases l <;> rfl
@[simp] theorem State.setBad_cur (s : State) (l : Loc) (b : List Nat) : (s.setBad l b).cur = s.cur := by cases l <;> rfl
@[simp] theorem State.setBad_agenda (s : State) (l : Loc) (b : List Nat) : (s.setBad l b).agenda = s.agenda := by cases l <;> rfl
@[simp] theorem State.setBad_freeCtr (s : State) (l : Loc) (b : List Nat) : (s.setBad l b).freeCtr = s.freeCtr := by cases l <;> rfl
@[simp] theorem State.setBad_phys (s : State) (l : Loc) (b : List Nat) : (s.setBad l b).phys = s.phys := by cases l <;> rfl
@[simp] theorem State.setBad_physUndef (s : State) (l : Loc) (b : List Nat) : (s.setBad l b).physUndef = s.physUndef := by cases l <;> rfl
@[simp] theorem State.setBad_flt (s : State) (l : Loc) (b : List Nat) : (s.setBad l b).flt = s.flt := by cases l <;> rfl
@[simp] theorem State.setBad_fltUndef (s : State) (l : Loc) (b : List Nat) : (s.setBad l b).fltUndef = s.fltUndef := by cases l <;> rfl
@[simp] theorem State.setBad_host (s : State) (l : Loc) (b : List Nat) : (s.setBad l b).host = s.host := by cases l <;> rfl
@[simp] theorem State.setBad_hostUndef (s : State) (l : Loc) (b : List Nat) : (s.setBad l b).hostUndef = s.hostUndef := by cases l <;> rfl
@[simp] theorem State.setBad_netFrame (s : State) (l : Loc) (b : List Nat) : (s.setBad l b).netFrame = s.netFrame := by cases l <;> rfl
@[simp] theorem State.setBad_chanFrame (s : State) (l : Loc) (b : List Nat) : (s.setBad l b).chanFrame = s.chanFrame := by cases l <;> rfl
@[simp] theorem State.setBad_chanTables (s : State) (l : Loc) (b : List Nat) : (s.setBad l b).chanTables = s.chanTables := by cases l <;> rfl
@[simp] theorem State.setBad_chanPhase (s : State) (l : Loc) (b : List Nat) : (s.setBad l b).chanPhase = s.chanPhase := by cases l <;> rfl
@[simp] theorem State.setBad_routing (s : State) (l : Loc) (b : List Nat) : (s.setBad l b).routing = s.routing := by cases l <;> rfl
@[simp] theorem State.setBad_chanCnt (s : State) (l : Loc) (b : List Nat) : (s.setBad l b).chanCnt = s.chanCnt := by cases l <;> rfl
@[simp] theorem State.setBad_attrNow (s : State) (l : Loc) (b : List Nat) : (s.setBad l b).attrNow = s.attrNow := by cases l <;> rfl
@[simp] theorem State.setBad_cxlResp (s : State) (l : Loc) (b : List Nat) : (s.setBad l b).cxlResp = s.cxlResp := by cases l <;> rfl
@[simp] theorem State.setBad_jtagResp (s : State) (l : Loc) (b : List Nat) : (s.setBad l b).jtagResp = s.jtagResp := by cases l <;> rfl
@[simp] theorem State.setBad_unseen (s : State) (l : Loc) (b : List Nat) : (s.setBad l b).unseen = s.unseen := by cases l <;> rfl
@[simp] theorem State.setBad_ownAt (s : State) (l : Loc) (b : List Nat) : (s.setBad l b).ownAt = s.ownAt := by cases l <;> rfl
@[simp] theorem State.setBad_ownQ (s : State) (l : Loc) (b : List Nat) : (s.setBad l b).ownQ = s.ownQ := by cases l <;> rfl
@[simp] theorem State.setBad_hotAsked (s : State) (l : Loc) (b : List Nat) : (s.setBad l b).hotAsked = s.hotAsked := by cases l <;> rfl
@[simp] theorem State.setBad_walkCache (s : State) (l : Loc) (b : List Nat) : (s.setBad l b).walkCache = s.walkCache := by cases l <;> rfl
@[simp] theorem State.setBad_clusters (s : State) (l : Loc) (b : List Nat) : (s.setBad l b).clusters = s.clusters := by cases l <;> rfl
@[simp] theorem State.setBad_dies (s : State) (l : Loc) (b : List Nat) : (s.setBad l b).dies = s.dies := by cases l <;> rfl
@[simp] theorem State.setBad_tlb (s : State) (l : Loc) (b : List Nat) : (s.setBad l b).tlb = s.tlb := by cases l <;> rfl
@[simp] theorem State.setBad_invQ (s : State) (l : Loc) (b : List Nat) : (s.setBad l b).invQ = s.invQ := by cases l <;> rfl
@[simp] theorem State.setBad_remap (s : State) (l : Loc) (b : List Nat) : (s.setBad l b).remap = s.remap := by cases l <;> rfl
@[simp] theorem State.setBad_hot (s : State) (l : Loc) (b : List Nat) : (s.setBad l b).hot = s.hot := by cases l <;> rfl
@[simp] theorem State.setBad_swth (s : State) (l : Loc) (b : List Nat) : (s.setBad l b).swth = s.swth := by cases l <;> rfl
@[simp] theorem State.setBad_epoch (s : State) (l : Loc) (b : List Nat) : (s.setBad l b).epoch = s.epoch := by cases l <;> rfl
@[simp] theorem State.setBad_epochAt (s : State) (l : Loc) (b : List Nat) : (s.setBad l b).epochAt = s.epochAt := by cases l <;> rfl
@[simp] theorem State.setBad_swapQ (s : State) (l : Loc) (b : List Nat) : (s.setBad l b).swapQ = s.swapQ := by cases l <;> rfl
@[simp] theorem State.setBad_swaps (s : State) (l : Loc) (b : List Nat) : (s.setBad l b).swaps = s.swaps := by cases l <;> rfl
@[simp] theorem State.setBad_nodeFrames (s : State) (l : Loc) (b : List Nat) : (s.setBad l b).nodeFrames = s.nodeFrames := by cases l <;> rfl
@[simp] theorem State.setBad_frames (s : State) (l : Loc) (b : List Nat) : (s.setBad l b).frames = s.frames := by cases l <;> rfl
@[simp] theorem State.setBad_cxmUnits (s : State) (l : Loc) (b : List Nat) : (s.setBad l b).cxmUnits = s.cxmUnits := by cases l <;> rfl
@[simp] theorem State.setBad_fltUnits (s : State) (l : Loc) (b : List Nat) : (s.setBad l b).fltUnits = s.fltUnits := by cases l <;> rfl
@[simp] theorem State.setBad_cxmBase (s : State) (l : Loc) (b : List Nat) : (s.setBad l b).cxmBase = s.cxmBase := by cases l <;> rfl
@[simp] theorem State.setBad_cxmLen (s : State) (l : Loc) (b : List Nat) : (s.setBad l b).cxmLen = s.cxmLen := by cases l <;> rfl
@[simp] theorem State.setBad_transit (s : State) (l : Loc) (b : List Nat) : (s.setBad l b).transit = s.transit := by cases l <;> rfl
@[simp] theorem State.setBad_promoQ (s : State) (l : Loc) (b : List Nat) : (s.setBad l b).promoQ = s.promoQ := by cases l <;> rfl
@[simp] theorem State.setBad_stagedQ (s : State) (l : Loc) (b : List Nat) : (s.setBad l b).stagedQ = s.stagedQ := by cases l <;> rfl
@[simp] theorem State.setBad_demoQ (s : State) (l : Loc) (b : List Nat) : (s.setBad l b).demoQ = s.demoQ := by cases l <;> rfl
@[simp] theorem State.setBad_fullerTurn (s : State) (l : Loc) (b : List Nat) : (s.setBad l b).fullerTurn = s.fullerTurn := by cases l <;> rfl
@[simp] theorem State.setBad_collapses (s : State) (l : Loc) (b : List Nat) : (s.setBad l b).collapses = s.collapses := by cases l <;> rfl
@[simp] theorem State.setBad_cntFrame (s : State) (l : Loc) (b : List Nat) : (s.setBad l b).cntFrame = s.cntFrame := by cases l <;> rfl
@[simp] theorem State.setBad_attr (s : State) (l : Loc) (b : List Nat) : (s.setBad l b).attr = s.attr := by cases l <;> rfl
@[simp] theorem State.setBad_cntPages (s : State) (l : Loc) (b : List Nat) : (s.setBad l b).cntPages = s.cntPages := by cases l <;> rfl
@[simp] theorem State.setBad_snapSeq (s : State) (l : Loc) (b : List Nat) : (s.setBad l b).snapSeq = s.snapSeq := by cases l <;> rfl
@[simp] theorem State.setBad_snapTime (s : State) (l : Loc) (b : List Nat) : (s.setBad l b).snapTime = s.snapTime := by cases l <;> rfl
@[simp] theorem State.setBad_snapAt (s : State) (l : Loc) (b : List Nat) : (s.setBad l b).snapAt = s.snapAt := by cases l <;> rfl
@[simp] theorem State.setBad_log (s : State) (l : Loc) (b : List Nat) : (s.setBad l b).log = s.log := by cases l <;> rfl
@[simp] theorem State.setBad_fenceTot (s : State) (l : Loc) (b : List Nat) : (s.setBad l b).fenceTot = s.fenceTot := by cases l <;> rfl
@[simp] theorem State.setBad_cf (s : State) (l : Loc) (b : List Nat) : (s.setBad l b).cf = s.cf := by cases l <;> rfl
@[simp] theorem State.setBad_turnDec (s : State) (l : Loc) (b : List Nat) : (s.setBad l b).turnDec = s.turnDec := by cases l <;> rfl
@[simp] theorem State.setBad_turnIss (s : State) (l : Loc) (b : List Nat) : (s.setBad l b).turnIss = s.turnIss := by cases l <;> rfl
@[simp] theorem State.setBad_slotsDec (s : State) (l : Loc) (b : List Nat) : (s.setBad l b).slotsDec = s.slotsDec := by cases l <;> rfl
@[simp] theorem State.setBad_slotsIss (s : State) (l : Loc) (b : List Nat) : (s.setBad l b).slotsIss = s.slotsIss := by cases l <;> rfl
@[simp] theorem State.setBad_ctxs (s : State) (l : Loc) (b : List Nat) : (s.setBad l b).ctxs = s.ctxs := by cases l <;> rfl
@[simp] theorem State.setBad_units (s : State) (l : Loc) (b : List Nat) : (s.setBad l b).units = s.units := by cases l <;> rfl
@[simp] theorem State.setBad_queues (s : State) (l : Loc) (b : List Nat) : (s.setBad l b).queues = s.queues := by cases l <;> rfl
@[simp] theorem State.setBad_useCtr (s : State) (l : Loc) (b : List Nat) : (s.setBad l b).useCtr = s.useCtr := by cases l <;> rfl
@[simp] theorem State.setBad_ranges (s : State) (l : Loc) (b : List Nat) : (s.setBad l b).ranges = s.ranges := by cases l <;> rfl
@[simp] theorem State.setBad_mbxs (s : State) (l : Loc) (b : List Nat) : (s.setBad l b).mbxs = s.mbxs := by cases l <;> rfl
@[simp] theorem State.setBad_submitted (s : State) (l : Loc) (b : List Nat) : (s.setBad l b).submitted = s.submitted := by cases l <;> rfl
@[simp] theorem State.setBad_msix (s : State) (l : Loc) (b : List Nat) : (s.setBad l b).msix = s.msix := by cases l <;> rfl
@[simp] theorem State.setBad_ports (s : State) (l : Loc) (b : List Nat) : (s.setBad l b).ports = s.ports := by cases l <;> rfl
@[simp] theorem State.setBad_sec (s : State) (l : Loc) (b : List Nat) : (s.setBad l b).sec = s.sec := by cases l <;> rfl
@[simp] theorem State.setBad_telem (s : State) (l : Loc) (b : List Nat) : (s.setBad l b).telem = s.telem := by cases l <;> rfl
@[simp] theorem State.setBad_modPower (s : State) (l : Loc) (b : List Nat) : (s.setBad l b).modPower = s.modPower := by cases l <;> rfl
@[simp] theorem State.setBad_railPower (s : State) (l : Loc) (b : List Nat) : (s.setBad l b).railPower = s.railPower := by cases l <;> rfl
@[simp] theorem State.setBad_hubTemp (s : State) (l : Loc) (b : List Nat) : (s.setBad l b).hubTemp = s.hubTemp := by cases l <;> rfl
@[simp] theorem State.setBad_tripped (s : State) (l : Loc) (b : List Nat) : (s.setBad l b).tripped = s.tripped := by cases l <;> rfl
@[simp] theorem State.setBad_wdogDef (s : State) (l : Loc) (b : List Nat) : (s.setBad l b).wdogDef = s.wdogDef := by cases l <;> rfl

/-! ## State.setUndef -/

@[simp] theorem State.setUndef_form (s : State) (l : Loc) (u : List Undef) : (s.setUndef l u).form = s.form := by cases l <;> rfl
@[simp] theorem State.setUndef_time (s : State) (l : Loc) (u : List Undef) : (s.setUndef l u).time = s.time := by cases l <;> rfl
@[simp] theorem State.setUndef_cur (s : State) (l : Loc) (u : List Undef) : (s.setUndef l u).cur = s.cur := by cases l <;> rfl
@[simp] theorem State.setUndef_agenda (s : State) (l : Loc) (u : List Undef) : (s.setUndef l u).agenda = s.agenda := by cases l <;> rfl
@[simp] theorem State.setUndef_freeCtr (s : State) (l : Loc) (u : List Undef) : (s.setUndef l u).freeCtr = s.freeCtr := by cases l <;> rfl
@[simp] theorem State.setUndef_phys (s : State) (l : Loc) (u : List Undef) : (s.setUndef l u).phys = s.phys := by cases l <;> rfl
@[simp] theorem State.setUndef_physBad (s : State) (l : Loc) (u : List Undef) : (s.setUndef l u).physBad = s.physBad := by cases l <;> rfl
@[simp] theorem State.setUndef_flt (s : State) (l : Loc) (u : List Undef) : (s.setUndef l u).flt = s.flt := by cases l <;> rfl
@[simp] theorem State.setUndef_fltBad (s : State) (l : Loc) (u : List Undef) : (s.setUndef l u).fltBad = s.fltBad := by cases l <;> rfl
@[simp] theorem State.setUndef_host (s : State) (l : Loc) (u : List Undef) : (s.setUndef l u).host = s.host := by cases l <;> rfl
@[simp] theorem State.setUndef_hostBad (s : State) (l : Loc) (u : List Undef) : (s.setUndef l u).hostBad = s.hostBad := by cases l <;> rfl
@[simp] theorem State.setUndef_netFrame (s : State) (l : Loc) (u : List Undef) : (s.setUndef l u).netFrame = s.netFrame := by cases l <;> rfl
@[simp] theorem State.setUndef_chanFrame (s : State) (l : Loc) (u : List Undef) : (s.setUndef l u).chanFrame = s.chanFrame := by cases l <;> rfl
@[simp] theorem State.setUndef_chanTables (s : State) (l : Loc) (u : List Undef) : (s.setUndef l u).chanTables = s.chanTables := by cases l <;> rfl
@[simp] theorem State.setUndef_chanPhase (s : State) (l : Loc) (u : List Undef) : (s.setUndef l u).chanPhase = s.chanPhase := by cases l <;> rfl
@[simp] theorem State.setUndef_routing (s : State) (l : Loc) (u : List Undef) : (s.setUndef l u).routing = s.routing := by cases l <;> rfl
@[simp] theorem State.setUndef_chanCnt (s : State) (l : Loc) (u : List Undef) : (s.setUndef l u).chanCnt = s.chanCnt := by cases l <;> rfl
@[simp] theorem State.setUndef_attrNow (s : State) (l : Loc) (u : List Undef) : (s.setUndef l u).attrNow = s.attrNow := by cases l <;> rfl
@[simp] theorem State.setUndef_cxlResp (s : State) (l : Loc) (u : List Undef) : (s.setUndef l u).cxlResp = s.cxlResp := by cases l <;> rfl
@[simp] theorem State.setUndef_jtagResp (s : State) (l : Loc) (u : List Undef) : (s.setUndef l u).jtagResp = s.jtagResp := by cases l <;> rfl
@[simp] theorem State.setUndef_unseen (s : State) (l : Loc) (u : List Undef) : (s.setUndef l u).unseen = s.unseen := by cases l <;> rfl
@[simp] theorem State.setUndef_ownAt (s : State) (l : Loc) (u : List Undef) : (s.setUndef l u).ownAt = s.ownAt := by cases l <;> rfl
@[simp] theorem State.setUndef_ownQ (s : State) (l : Loc) (u : List Undef) : (s.setUndef l u).ownQ = s.ownQ := by cases l <;> rfl
@[simp] theorem State.setUndef_hotAsked (s : State) (l : Loc) (u : List Undef) : (s.setUndef l u).hotAsked = s.hotAsked := by cases l <;> rfl
@[simp] theorem State.setUndef_walkCache (s : State) (l : Loc) (u : List Undef) : (s.setUndef l u).walkCache = s.walkCache := by cases l <;> rfl
@[simp] theorem State.setUndef_clusters (s : State) (l : Loc) (u : List Undef) : (s.setUndef l u).clusters = s.clusters := by cases l <;> rfl
@[simp] theorem State.setUndef_dies (s : State) (l : Loc) (u : List Undef) : (s.setUndef l u).dies = s.dies := by cases l <;> rfl
@[simp] theorem State.setUndef_tlb (s : State) (l : Loc) (u : List Undef) : (s.setUndef l u).tlb = s.tlb := by cases l <;> rfl
@[simp] theorem State.setUndef_invQ (s : State) (l : Loc) (u : List Undef) : (s.setUndef l u).invQ = s.invQ := by cases l <;> rfl
@[simp] theorem State.setUndef_remap (s : State) (l : Loc) (u : List Undef) : (s.setUndef l u).remap = s.remap := by cases l <;> rfl
@[simp] theorem State.setUndef_hot (s : State) (l : Loc) (u : List Undef) : (s.setUndef l u).hot = s.hot := by cases l <;> rfl
@[simp] theorem State.setUndef_swth (s : State) (l : Loc) (u : List Undef) : (s.setUndef l u).swth = s.swth := by cases l <;> rfl
@[simp] theorem State.setUndef_epoch (s : State) (l : Loc) (u : List Undef) : (s.setUndef l u).epoch = s.epoch := by cases l <;> rfl
@[simp] theorem State.setUndef_epochAt (s : State) (l : Loc) (u : List Undef) : (s.setUndef l u).epochAt = s.epochAt := by cases l <;> rfl
@[simp] theorem State.setUndef_swapQ (s : State) (l : Loc) (u : List Undef) : (s.setUndef l u).swapQ = s.swapQ := by cases l <;> rfl
@[simp] theorem State.setUndef_swaps (s : State) (l : Loc) (u : List Undef) : (s.setUndef l u).swaps = s.swaps := by cases l <;> rfl
@[simp] theorem State.setUndef_nodeFrames (s : State) (l : Loc) (u : List Undef) : (s.setUndef l u).nodeFrames = s.nodeFrames := by cases l <;> rfl
@[simp] theorem State.setUndef_frames (s : State) (l : Loc) (u : List Undef) : (s.setUndef l u).frames = s.frames := by cases l <;> rfl
@[simp] theorem State.setUndef_cxmUnits (s : State) (l : Loc) (u : List Undef) : (s.setUndef l u).cxmUnits = s.cxmUnits := by cases l <;> rfl
@[simp] theorem State.setUndef_fltUnits (s : State) (l : Loc) (u : List Undef) : (s.setUndef l u).fltUnits = s.fltUnits := by cases l <;> rfl
@[simp] theorem State.setUndef_cxmBase (s : State) (l : Loc) (u : List Undef) : (s.setUndef l u).cxmBase = s.cxmBase := by cases l <;> rfl
@[simp] theorem State.setUndef_cxmLen (s : State) (l : Loc) (u : List Undef) : (s.setUndef l u).cxmLen = s.cxmLen := by cases l <;> rfl
@[simp] theorem State.setUndef_transit (s : State) (l : Loc) (u : List Undef) : (s.setUndef l u).transit = s.transit := by cases l <;> rfl
@[simp] theorem State.setUndef_promoQ (s : State) (l : Loc) (u : List Undef) : (s.setUndef l u).promoQ = s.promoQ := by cases l <;> rfl
@[simp] theorem State.setUndef_stagedQ (s : State) (l : Loc) (u : List Undef) : (s.setUndef l u).stagedQ = s.stagedQ := by cases l <;> rfl
@[simp] theorem State.setUndef_demoQ (s : State) (l : Loc) (u : List Undef) : (s.setUndef l u).demoQ = s.demoQ := by cases l <;> rfl
@[simp] theorem State.setUndef_fullerTurn (s : State) (l : Loc) (u : List Undef) : (s.setUndef l u).fullerTurn = s.fullerTurn := by cases l <;> rfl
@[simp] theorem State.setUndef_collapses (s : State) (l : Loc) (u : List Undef) : (s.setUndef l u).collapses = s.collapses := by cases l <;> rfl
@[simp] theorem State.setUndef_cntFrame (s : State) (l : Loc) (u : List Undef) : (s.setUndef l u).cntFrame = s.cntFrame := by cases l <;> rfl
@[simp] theorem State.setUndef_attr (s : State) (l : Loc) (u : List Undef) : (s.setUndef l u).attr = s.attr := by cases l <;> rfl
@[simp] theorem State.setUndef_cntPages (s : State) (l : Loc) (u : List Undef) : (s.setUndef l u).cntPages = s.cntPages := by cases l <;> rfl
@[simp] theorem State.setUndef_snapSeq (s : State) (l : Loc) (u : List Undef) : (s.setUndef l u).snapSeq = s.snapSeq := by cases l <;> rfl
@[simp] theorem State.setUndef_snapTime (s : State) (l : Loc) (u : List Undef) : (s.setUndef l u).snapTime = s.snapTime := by cases l <;> rfl
@[simp] theorem State.setUndef_snapAt (s : State) (l : Loc) (u : List Undef) : (s.setUndef l u).snapAt = s.snapAt := by cases l <;> rfl
@[simp] theorem State.setUndef_log (s : State) (l : Loc) (u : List Undef) : (s.setUndef l u).log = s.log := by cases l <;> rfl
@[simp] theorem State.setUndef_fenceTot (s : State) (l : Loc) (u : List Undef) : (s.setUndef l u).fenceTot = s.fenceTot := by cases l <;> rfl
@[simp] theorem State.setUndef_cf (s : State) (l : Loc) (u : List Undef) : (s.setUndef l u).cf = s.cf := by cases l <;> rfl
@[simp] theorem State.setUndef_turnDec (s : State) (l : Loc) (u : List Undef) : (s.setUndef l u).turnDec = s.turnDec := by cases l <;> rfl
@[simp] theorem State.setUndef_turnIss (s : State) (l : Loc) (u : List Undef) : (s.setUndef l u).turnIss = s.turnIss := by cases l <;> rfl
@[simp] theorem State.setUndef_slotsDec (s : State) (l : Loc) (u : List Undef) : (s.setUndef l u).slotsDec = s.slotsDec := by cases l <;> rfl
@[simp] theorem State.setUndef_slotsIss (s : State) (l : Loc) (u : List Undef) : (s.setUndef l u).slotsIss = s.slotsIss := by cases l <;> rfl
@[simp] theorem State.setUndef_ctxs (s : State) (l : Loc) (u : List Undef) : (s.setUndef l u).ctxs = s.ctxs := by cases l <;> rfl
@[simp] theorem State.setUndef_units (s : State) (l : Loc) (u : List Undef) : (s.setUndef l u).units = s.units := by cases l <;> rfl
@[simp] theorem State.setUndef_queues (s : State) (l : Loc) (u : List Undef) : (s.setUndef l u).queues = s.queues := by cases l <;> rfl
@[simp] theorem State.setUndef_useCtr (s : State) (l : Loc) (u : List Undef) : (s.setUndef l u).useCtr = s.useCtr := by cases l <;> rfl
@[simp] theorem State.setUndef_ranges (s : State) (l : Loc) (u : List Undef) : (s.setUndef l u).ranges = s.ranges := by cases l <;> rfl
@[simp] theorem State.setUndef_mbxs (s : State) (l : Loc) (u : List Undef) : (s.setUndef l u).mbxs = s.mbxs := by cases l <;> rfl
@[simp] theorem State.setUndef_submitted (s : State) (l : Loc) (u : List Undef) : (s.setUndef l u).submitted = s.submitted := by cases l <;> rfl
@[simp] theorem State.setUndef_msix (s : State) (l : Loc) (u : List Undef) : (s.setUndef l u).msix = s.msix := by cases l <;> rfl
@[simp] theorem State.setUndef_ports (s : State) (l : Loc) (u : List Undef) : (s.setUndef l u).ports = s.ports := by cases l <;> rfl
@[simp] theorem State.setUndef_sec (s : State) (l : Loc) (u : List Undef) : (s.setUndef l u).sec = s.sec := by cases l <;> rfl
@[simp] theorem State.setUndef_telem (s : State) (l : Loc) (u : List Undef) : (s.setUndef l u).telem = s.telem := by cases l <;> rfl
@[simp] theorem State.setUndef_modPower (s : State) (l : Loc) (u : List Undef) : (s.setUndef l u).modPower = s.modPower := by cases l <;> rfl
@[simp] theorem State.setUndef_railPower (s : State) (l : Loc) (u : List Undef) : (s.setUndef l u).railPower = s.railPower := by cases l <;> rfl
@[simp] theorem State.setUndef_hubTemp (s : State) (l : Loc) (u : List Undef) : (s.setUndef l u).hubTemp = s.hubTemp := by cases l <;> rfl
@[simp] theorem State.setUndef_tripped (s : State) (l : Loc) (u : List Undef) : (s.setUndef l u).tripped = s.tripped := by cases l <;> rfl
@[simp] theorem State.setUndef_wdogDef (s : State) (l : Loc) (u : List Undef) : (s.setUndef l u).wdogDef = s.wdogDef := by cases l <;> rfl

end Sys2Proof.Machine
end

