-- ==== Sys2Proof/Laws/Memory.lean ====
section
/-! SUPPORT. What a location's memory reads as after each operation on it, that the operations keep every memory in its
canonical form, and what the records of host visibility change. -/
namespace Sys2Proof.Machine

/-! ## Locations -/

@[simp] theorem State.mem_setMem_same (s : State) (l : Loc) (m : SMap Byte) : (s.setMem l m).mem l = m := by
  cases l <;> simp [State.setMem, State.mem]

theorem State.mem_setTile (s : State) (t : Nat) (x : Tile) (l : Loc) (h : ∀ k, l ≠ .spad k ∧ l ≠ .acc k) :
    (s.setTile t x).mem l = s.mem l := by
  cases l <;> simp_all [State.mem]

theorem State.mem_spad_setTile (s : State) (t k : Nat) (x : Tile) :
    (s.setTile t x).mem (.spad k) = if k = t then x.spad else s.mem (.spad k) := by
  by_cases h : k = t
  · subst h; simp [State.mem]
  · simp [State.mem, h, State.tile_setTile_ne s x h]

theorem State.mem_acc_setTile (s : State) (t k : Nat) (x : Tile) :
    (s.setTile t x).mem (.acc k) = if k = t then x.acc else s.mem (.acc k) := by
  by_cases h : k = t
  · subst h; simp [State.mem]
  · simp [State.mem, h, State.tile_setTile_ne s x h]

/-- A tile changed in neither memory leaves every memory as it was. -/
theorem State.mem_setTile_same (s : State) (t : Nat) (x : Tile) (h1 : x.spad = (s.tile t).spad) (h2 : x.acc = (s.tile t).acc) (l : Loc) :
    (s.setTile t x).mem l = s.mem l := by
  cases l with
  | spad k => rw [State.mem_spad_setTile]; split <;> simp_all [State.mem]
  | acc k => rw [State.mem_acc_setTile]; split <;> simp_all [State.mem]
  | _ => rfl

theorem State.mem_setMem_ne (s : State) {l k : Loc} (m : SMap Byte) (h : k ≠ l) : (s.setMem l m).mem k = s.mem k := by
  cases l with
  | spad t =>
    cases k with
    | spad n =>
      have : n ≠ t := fun e => h (by rw [e])
      simp [State.setMem, State.mem, State.tile_setTile_ne s _ this]
    | acc n => by_cases e : n = t <;> simp [State.setMem, State.mem, State.tile, State.setTile, mget_mput_ne, e]
    | _ => rfl
  | acc t =>
    cases k with
    | acc n =>
      have : n ≠ t := fun e => h (by rw [e])
      simp [State.setMem, State.mem, State.tile_setTile_ne s _ this]
    | spad n => by_cases e : n = t <;> simp [State.setMem, State.mem, State.tile, State.setTile, mget_mput_ne, e]
    | _ => rfl
  | _ => cases k <;> simp_all [State.setMem, State.mem, State.tile]

@[simp] theorem State.mem_setBad (s : State) (l k : Loc) (b : List Nat) : (s.setBad l b).mem k = s.mem k := by
  cases l with
  | spad t => exact State.mem_setTile_same s t { s.tile t with spadBad := b } rfl rfl k
  | acc t => exact State.mem_setTile_same s t { s.tile t with accBad := b } rfl rfl k
  | _ => cases k <;> rfl

@[simp] theorem State.mem_setUndef (s : State) (l k : Loc) (u : List Undef) : (s.setUndef l u).mem k = s.mem k := by
  cases l with
  | spad t => exact State.mem_setTile_same s t { s.tile t with spadUndef := u } rfl rfl k
  | acc t => exact State.mem_setTile_same s t { s.tile t with accUndef := u } rfl rfl k
  | _ => cases k <;> rfl

@[simp] theorem State.mem_setCtx (s : State) (c : Nat) (x : Context) (k : Loc) : (s.setCtx c x).mem k = s.mem k := by
  cases k <;> rfl

@[simp] theorem State.mem_undefine (s : State) (l k : Loc) (a n : Nat) : (s.undefine l a n).mem k = s.mem k := by
  simp [State.undefine]

@[simp] theorem State.mem_poison (s : State) (l k : Loc) (a n : Nat) : (s.poison l a n).mem k = s.mem k := by
  unfold State.poison; split <;> simp

/-- A record in the log changes no memory. -/
@[simp] theorem State.mem_logErr (s : State) (kind unit asid addr : Nat) (k : Loc) : (s.logErr kind unit asid addr).mem k = s.mem k := by
  unfold State.logErr
  dsimp only
  split
  · simp; cases k <;> rfl
  · cases k <;> rfl

theorem mem_writeKept_wf {b : List Nat} {g a n : Nat} {m : SMap Byte} (k : Nat) (bs : List Byte) (h : Memory.wf m = true) :
    Memory.wf (writeKept b g a n m k bs) = true := by
  induction bs generalizing m k with
  | nil => exact h
  | cons x xs ih =>
    unfold writeKept
    split
    · exact ih _ h
    · exact ih _ (Memory.wf_set _ _ h)

/-- Records of R107 leave every memory as it is. -/
theorem State.mem_dropLog (ks : List Nat) (u : State) (l j : Loc) (asid : Nat) :
    (ks.foldl (fun s k => s.logErr 3 (s.unitOf l k) asid (s.locAddr l k)) u).mem j = u.mem j := by
  induction ks generalizing u with
  | nil => rfl
  | cons k ks ih => rw [List.foldl_cons, ih]; simp

/-- The memories after a write (R107): the written location holds the bytes that R107 keeps, the others are as they were. -/
theorem State.mem_write (s : State) (l k : Loc) (a : Nat) (bs : List Byte) (asid : Nat) :
    (s.write l a bs asid).mem k =
      if k = l then (if (s.bad l).isEmpty then Memory.write (s.mem l) a bs else writeKept (s.bad l) (granule l a) a bs.length (s.mem l) a bs)
      else s.mem k := by
  unfold State.write
  dsimp only
  have e : ∀ j, (if (s.undef l).isEmpty = true then s else s.setUndef l (cutUndef (s.undef l) a bs.length)).mem j = s.mem j := by
    intro j; split <;> simp
  generalize (if (s.undef l).isEmpty = true then s else s.setUndef l (cutUndef (s.undef l) a bs.length)) = u at e ⊢
  by_cases h : k = l
  · subst h
    rw [if_pos rfl]
    split
    · simp [e]
    · rw [State.mem_dropLog]; simp [e]
  · rw [if_neg h]
    split
    · simp [State.mem_setMem_ne _ _ h, e]
    · rw [State.mem_dropLog]; simp [State.mem_setMem_ne _ _ h, e]

/-! ## Contexts -/

/-- Two states whose contexts have the same gangs. -/
def SameGangs (s t : State) : Prop := ∀ p ∈ t.ctxs, ∃ q ∈ s.ctxs, p.2.gangs = q.2.gangs

theorem MemoryCanonical.of_mem {s t : State} (h : MemoryCanonical s) (hm : ∀ l, t.mem l = s.mem l) (hc : t.ctxs = s.ctxs) :
    MemoryCanonical t := by
  refine ⟨fun l => ?_, ?_⟩
  · rw [hm]; exact h.1 l
  · rw [hc]; exact h.2

/-! ## The canonical form -/

/-- A location's memory replaced by one in canonical form. -/
theorem MemoryCanonical.setMem {s : State} (h : MemoryCanonical s) (l : Loc) {m : SMap Byte} (hm : Memory.wf m = true) :
    MemoryCanonical (s.setMem l m) := by
  refine ⟨fun k => ?_, ?_⟩
  · by_cases e : k = l
    · subst e; simpa using hm
    · rw [State.mem_setMem_ne s m e]; exact h.1 k
  · simpa using h.2

theorem MemoryCanonical.setBad {s : State} (h : MemoryCanonical s) (l : Loc) (b : List Nat) : MemoryCanonical (s.setBad l b) :=
  h.of_mem (fun k => State.mem_setBad s l k b) (by simp)

theorem MemoryCanonical.setUndef {s : State} (h : MemoryCanonical s) (l : Loc) (u : List Undef) : MemoryCanonical (s.setUndef l u) :=
  h.of_mem (fun k => State.mem_setUndef s l k u) (by simp)

theorem MemoryCanonical.undefine {s : State} (h : MemoryCanonical s) (l : Loc) (a n : Nat) : MemoryCanonical (s.undefine l a n) :=
  h.setUndef _ _

theorem MemoryCanonical.poison {s : State} (h : MemoryCanonical s) (l : Loc) (a n : Nat) : MemoryCanonical (s.poison l a n) := by
  unfold State.poison; split
  · exact h
  · exact h.setBad _ _

/-- A tile replaced by one whose memories are canonical. -/
theorem MemoryCanonical.setTile {s : State} (h : MemoryCanonical s) (t : Nat) {x : Tile} (h1 : Memory.wf x.spad = true)
    (h2 : Memory.wf x.acc = true) : MemoryCanonical (s.setTile t x) := by
  refine ⟨fun l => ?_, h.2⟩
  cases l with
  | spad k => rw [State.mem_spad_setTile]; split <;> first | exact h1 | exact h.1 _
  | acc k => rw [State.mem_acc_setTile]; split <;> first | exact h2 | exact h.1 _
  | phys => exact h.1 .phys
  | flt => exact h.1 .flt
  | host => exact h.1 .host

theorem MemoryCanonical.spad {s : State} (h : MemoryCanonical s) (t : Nat) : Memory.wf (s.tile t).spad = true := h.1 (.spad t)
theorem MemoryCanonical.acc {s : State} (h : MemoryCanonical s) (t : Nat) : Memory.wf (s.tile t).acc = true := h.1 (.acc t)

/-- A tile changed in neither memory. -/
theorem MemoryCanonical.setTile_same {s : State} (h : MemoryCanonical s) (t : Nat) (x : Tile) (h1 : x.spad = (s.tile t).spad)
    (h2 : x.acc = (s.tile t).acc) : MemoryCanonical (s.setTile t x) :=
  h.setTile t (by rw [h1]; exact h.spad t) (by rw [h2]; exact h.acc t)

/-- A context replaced by one whose saved tiles are canonical. -/
theorem MemoryCanonical.setCtx {s : State} (h : MemoryCanonical s) (c : Nat) (x : Context)
    (hx : ∀ g ∈ x.gangs, ∀ y ∈ g.saved, Memory.wf y.spad = true ∧ Memory.wf y.acc = true) : MemoryCanonical (s.setCtx c x) := by
  refine ⟨fun l => by rw [State.mem_setCtx]; exact h.1 l, ?_⟩
  intro p hp
  rcases mem_mput hp with e | e
  · subst e; exact hx
  · exact h.2 p e

theorem MemoryCanonical.ctx {s : State} (h : MemoryCanonical s) (c : Nat) :
    ∀ g ∈ (s.ctx c).gangs, ∀ y ∈ g.saved, Memory.wf y.spad = true ∧ Memory.wf y.acc = true := by
  unfold State.ctx
  generalize hm : s.ctxs = m
  have := h.2
  rw [hm] at this
  clear hm
  induction m with
  | nil => intro g hg; simp [mget, Context.reset] at hg
  | cons p m ih =>
    obtain ⟨k, w⟩ := p
    simp only [mget]
    split
    · exact this (k, w) (List.mem_cons_self ..)
    · exact ih fun p hp => this p (List.mem_cons_of_mem _ hp)

/-- A context changed, its gangs as they were. -/
theorem MemoryCanonical.setCtx_same {s : State} (h : MemoryCanonical s) (c : Nat) (x : Context) (hg : x.gangs = (s.ctx c).gangs) :
    MemoryCanonical (s.setCtx c x) := h.setCtx c x (by rw [hg]; exact h.ctx c)

theorem MemoryCanonical.logErr {s : State} (h : MemoryCanonical s) (kind unit asid addr : Nat) :
    MemoryCanonical (s.logErr kind unit asid addr) := by
  unfold State.logErr
  dsimp only
  have h' : ∀ l, MemoryCanonical { s with log := l } := fun l => h.of_mem (fun k => by cases k <;> rfl) rfl
  split
  · refine (h' _).setCtx_same _ _ ?_
    simp only [Context.machineCheck]
    split <;> rfl
  · exact h' _

theorem MemoryCanonical.foldl {α : Type} {f : State → α → State} (hf : ∀ s a, MemoryCanonical s → MemoryCanonical (f s a)) :
    ∀ (l : List α) {s : State}, MemoryCanonical s → MemoryCanonical (l.foldl f s)
  | [], _, h => h
  | a :: l, _, h => MemoryCanonical.foldl hf l (hf _ a h)

theorem MemoryCanonical.write {s : State} (h : MemoryCanonical s) (l : Loc) (a : Nat) (bs : List Byte) (asid : Nat) :
    MemoryCanonical (s.write l a bs asid) := by
  unfold State.write
  dsimp only
  have h0 : MemoryCanonical (if (s.undef l).isEmpty = true then s else s.setUndef l (cutUndef (s.undef l) a bs.length)) := by
    split <;> first | exact h | exact h.setUndef _ _
  generalize (if (s.undef l).isEmpty = true then s else s.setUndef l (cutUndef (s.undef l) a bs.length)) = u at h0 ⊢
  split
  · exact h0.setMem _ (Memory.wf_write _ _ (h0.1 l))
  · have h1 := (h0.setMem l (mem_writeKept_wf (b := s.bad l) (g := granule l a) (a := a) (n := bs.length) a bs (h0.1 l))).setBad l
      (marksAfter (s.bad l) (granule l a) a bs.length)
    exact MemoryCanonical.foldl (fun _ _ hs => hs.logErr ..) _ h1

theorem MemoryCanonical.writeP {s : State} (h : MemoryCanonical s) (l : Loc) (a : Nat) (bs : List (Byte × Bool)) (asid : Nat) :
    MemoryCanonical (s.writeP l a bs asid) := by
  unfold State.writeP
  dsimp only
  split
  · refine MemoryCanonical.foldl (fun s p hs => ?_) _ (h.write ..)
    split <;> first | exact hs.poison .. | exact hs
  · exact h.write ..

theorem MemoryCanonical.epochRoll {s : State} (h : MemoryCanonical s) : MemoryCanonical s.epochRoll := by
  unfold State.epochRoll
  split
  · exact h.of_mem (fun l => by cases l <;> rfl) rfl
  · exact h

theorem MemoryCanonical.countOne {s : State} (h : MemoryCanonical s) (c hs pa : Nat) : MemoryCanonical (s.countOne c hs pa) :=
  h.of_mem (fun l => by cases l <;> rfl) rfl

theorem MemoryCanonical.countRun {s : State} (h : MemoryCanonical s) (c hs pa n : Nat) : MemoryCanonical (s.countRun c hs pa n) := by
  unfold State.countRun
  split
  · exact h
  · exact MemoryCanonical.foldl (fun _ _ hs => hs.countOne ..) _ h.epochRoll

theorem MemoryCanonical.countSeg {s : State} (h : MemoryCanonical s) (c : Nat) (g : Seg) : MemoryCanonical (s.countSeg c g) := by
  unfold State.countSeg
  split
  · exact h.countRun ..
  · exact h

theorem MemoryCanonical.overwritten {s : State} (h : MemoryCanonical s) (c : Option Nat) (w : WordAt) : MemoryCanonical (s.overwritten c w) :=
  h.of_mem (fun l => by cases l <;> rfl) rfl

theorem MemoryCanonical.unseenAdd {s : State} (h : MemoryCanonical s) (c : Nat) (t : Writer) (g : Seg) :
    MemoryCanonical (s.unseenAdd c t g) := by
  unfold State.unseenAdd
  split
  · exact h.of_mem (fun l => by cases l <;> rfl) rfl
  · exact h

theorem MemoryCanonical.writeSegs {s : State} (h : MemoryCanonical s) (asid : Nat) (t : Writer) (gs : List Seg) (bs : List (Byte × Bool)) :
    MemoryCanonical (s.writeSegs asid t gs bs) := by
  induction gs generalizing s bs with
  | nil => exact h
  | cons g gs ih => exact ih ((((h.writeP ..).countSeg ..).overwritten ..).unseenAdd ..) _

theorem MemoryCanonical.writeRun {s : State} (h : MemoryCanonical s) (c va z e : Nat) : MemoryCanonical (s.writeRun c va z e) :=
  MemoryCanonical.foldl (fun _ _ hs => (hs.write ..).countRun ..) _ h

theorem mget_mmap {α : Type} (d : α) (f : Nat → α → α) (m : SMap α) (a : Nat) (hd : ∀ k, f k d = d) :
    mget d (mmap f m) a = f a (mget d m a) := by
  induction m with
  | nil => simp [mmap, mget, hd]
  | cons p m ih =>
    obtain ⟨k, w⟩ := p
    simp only [mmap, List.map_cons, mget] at *
    split
    · rename_i e; subst e; rfl
    · exact ih

/-- Tiles changed in neither memory. -/
theorem MemoryCanonical.mapTiles {s : State} (h : MemoryCanonical s) (f : Nat → Tile → Tile) (h1 : ∀ k x, (f k x).spad = x.spad)
    (h2 : ∀ k x, (f k x).acc = x.acc) : MemoryCanonical { s with tiles := mmap f s.tiles } := by
  have e : ∀ t, Memory.wf (mget Tile.reset (mmap f s.tiles) t).spad = true ∧ Memory.wf (mget Tile.reset (mmap f s.tiles) t).acc = true := by
    intro t
    have ht : Memory.wf (mget Tile.reset s.tiles t).spad = true ∧ Memory.wf (mget Tile.reset s.tiles t).acc = true := ⟨h.spad t, h.acc t⟩
    generalize s.tiles = m at ht ⊢
    clear h
    induction m with
    | nil => exact ⟨rfl, rfl⟩
    | cons p m ih =>
      obtain ⟨k, w⟩ := p
      simp only [mmap, List.map_cons, mget] at *
      split
      · rename_i he; simpa [he, h1, h2] using ht
      · rename_i he; exact ih (by simpa [he] using ht)
  refine ⟨fun l => ?_, h.2⟩
  cases l with
  | spad t => exact (e t).1
  | acc t => exact (e t).2
  | phys => exact h.1 .phys
  | flt => exact h.1 .flt
  | host => exact h.1 .host

theorem MemoryCanonical.invalidate {s : State} (h : MemoryCanonical s) (q : InvReq) : MemoryCanonical (s.invalidate q) := by
  have h' : MemoryCanonical
      { s with
        tlb := s.tlb.filter fun t => !q.covers t.asid t.page (pageBytes (pteSize t.pte))
        walkCache := s.walkCache.filter fun w => !q.covers w.asid (w.tag * 2 ^ (12 * w.lev + 12)) (2 ^ (12 * w.lev + 12)) } :=
    h.of_mem (fun k => by cases k <;> rfl) rfl
  exact h'.mapTiles
    (fun _ x =>
      { x with l1 := x.l1.filter fun l => !q.covers l.asid l.va 64, icache := x.icache.filter fun l => !q.covers l.asid l.va 64 })
    (fun _ _ => rfl) fun _ _ => rfl

theorem MemoryCanonical.rewrite {s : State} (h : MemoryCanonical s) (c va z e : Nat) : MemoryCanonical (s.rewrite c va z e) :=
  ((h.writeRun ..).invalidate _).writeRun ..

/-- Bytes dropped from a memory, and bytes copied to one (R96, R98, R385). -/
theorem Memory.wf_clear {m : SMap Byte} (a n : Nat) (h : Memory.wf m = true) : Memory.wf (Memory.clear m a n) = true := Memory.wf_filter _ h

theorem Memory.wf_foldl_set {m : SMap Byte} (l : List (Nat × Byte)) (h : Memory.wf m = true) :
    Memory.wf (l.foldl (fun m p => Memory.set m p.1 p.2) m) = true := by
  induction l generalizing m with
  | nil => exact h
  | cons p l ih => exact ih (Memory.wf_set _ _ h)

theorem MemoryCanonical.copyBytes {s : State} (h : MemoryCanonical s) (l : Loc) (a : Nat) (k : Loc) (b n : Nat) :
    MemoryCanonical (s.copyBytes l a k b n) := by
  unfold State.copyBytes
  dsimp only
  exact ((h.setUndef _ _).setBad _ _).setMem _ (Memory.wf_foldl_set _ (Memory.wf_clear _ _ (by simpa using h.1 k)))

theorem MemoryCanonical.zeroBytes {s : State} (h : MemoryCanonical s) (l : Loc) (a n : Nat) : MemoryCanonical (s.zeroBytes l a n) := by
  unfold State.zeroBytes
  dsimp only
  exact ((h.setUndef _ _).setBad _ _).setMem _ (Memory.wf_clear _ _ (by simpa using h.1 l))

/-- The host's bytes written by the chip (R392). -/
theorem MemoryCanonical.hostWrite {s : State} (h : MemoryCanonical s) (a : Word) (bs : List Byte) : MemoryCanonical (s.hostWrite a bs) := by
  refine ⟨fun l => ?_, h.2⟩
  cases l with
  | host => exact Memory.wf_write _ _ (h.1 .host)
  | phys => exact h.1 .phys
  | flt => exact h.1 .flt
  | spad t => exact h.1 (.spad t)
  | acc t => exact h.1 (.acc t)

/-- The canonical form holds after reset. -/
theorem MemoryCanonical.reset : MemoryCanonical State.reset :=
  ⟨fun l => by cases l <;> rfl, fun p hp => by simp [State.reset] at hp⟩

/-! ## What the records of host visibility change (R21, R139) -/

theorem State.updUnseen_rest (s : State) (c : Nat) (p : Unseen → Bool) (f : Unseen → Unseen) :
    { s.updUnseen c p f with unseen := s.unseen } = s := rfl

theorem State.showHost_rest (s : State) (c : Nat) (p : Unseen → Bool) : { s.showHost c p with unseen := s.unseen } = s := rfl

theorem State.tileRelease_rest (s : State) (t k : Nat) : { s.tileRelease t k with unseen := s.unseen } = s := by
  unfold State.tileRelease
  split <;> rfl

theorem State.releaseTo_rest (s : State) (p : Party) (t k : Nat) (w : WordAt) : { s.releaseTo p t k w with unseen := s.unseen } = s := by
  unfold State.releaseTo
  split <;> rfl

theorem State.acquireFrom_rest (s : State) (t k : Nat) (w : WordAt) : { s.acquireFrom t k w with unseen := s.unseen } = s := rfl

theorem State.tileAcquire_rest (s : State) (t k : Nat) : { s.tileAcquire t k with unseen := s.unseen } = s := rfl

theorem State.overwritten_rest (s : State) (c : Option Nat) (w : WordAt) : { s.overwritten c w with unseen := s.unseen } = s := rfl

theorem State.unseenAdd_rest (s : State) (c : Nat) (w : Writer) (g : Seg) : { s.unseenAdd c w g with unseen := s.unseen } = s := by
  unfold State.unseenAdd
  split <;> rfl

/-- R21: after a release of tile t at SYSTEM scope the host sees what has happened for the tile. -/
theorem State.tileRelease_system (s : State) (t : Nat) (u : Unseen) (h : u ∈ (s.tileRelease t 4).unseen) (hc : u.ctx = (s.tile t).ctx)
    (hl : u.lost = false) : .tile t ∉ u.known := by
  simp [State.tileRelease, State.showHost, hc, hl] at h
  exact h.2

end Sys2Proof.Machine
end

