-- ==== Sys2Proof/Laws/Access.lean ====
section
/-! SUPPORT. What a translation, a read and a write by virtual address can change (R40 to R50, R56, R107): a translation and a
read touch the TLBs and walk caches, the counters of accesses, the error log and the contexts' machine-check queues alone. -/
namespace Sys2Proof.Machine

/-- `t` is `s` but for the TLBs and walk caches, the counters of accesses, the error log, and the contexts' machine-check
queues. -/
structure Translated (s t : State) : Prop where
  rest : { t with tlb := s.tlb, walkCache := s.walkCache, chanCnt := s.chanCnt, hot := s.hot, hotAsked := s.hotAsked, epochAt := s.epochAt, log := s.log, ctxs := s.ctxs } = s
  ctx : ∀ c, { t.ctx c with mcq := (s.ctx c).mcq, mclost := (s.ctx c).mclost, events := (s.ctx c).events } = s.ctx c
  canon : MemoryCanonical s → MemoryCanonical t

theorem Translated.refl (s : State) : Translated s s := ⟨rfl, fun _ => rfl, id⟩

theorem Translated.trans {s t u : State} (h : Translated s t) (k : Translated t u) : Translated s u := by
  refine ⟨?_, fun c => ?_, fun m => k.canon (h.canon m)⟩
  · have h1 := h.rest
    rw [← k.rest] at h1
    simpa using h1
  · have h1 := h.ctx c
    rw [← k.ctx c] at h1
    simpa using h1

theorem Translated.tiles {s t : State} (h : Translated s t) : t.tiles = s.tiles := by simpa using congrArg State.tiles h.rest
theorem Translated.cur {s t : State} (h : Translated s t) : t.cur = s.cur := by simpa using congrArg State.cur h.rest
theorem Translated.phys {s t : State} (h : Translated s t) : t.phys = s.phys := by simpa using congrArg State.phys h.rest
theorem Translated.tile {s t : State} (h : Translated s t) (k : Nat) : t.tile k = s.tile k := by simp [State.tile, h.tiles]

/-- Every memory reads as before. -/
theorem Translated.mem {s t : State} (h : Translated s t) (l : Loc) : t.mem l = s.mem l := by
  have e := congrArg (fun u => u.mem l) h.rest
  cases l <;> simpa [State.mem, State.tile] using e

theorem Translated.entries {s t : State} (h : Translated s t) (c : Nat) : (t.ctx c).entries = (s.ctx c).entries := by
  simpa using congrArg Context.entries (h.ctx c)

theorem Translated.logErr (s : State) (kind unit asid addr : Nat) : Translated s (s.logErr kind unit asid addr) := by
  refine ⟨?_, fun c => ?_, fun m => m.logErr ..⟩
  · unfold State.logErr
    dsimp only
    split <;> rfl
  · unfold State.logErr
    dsimp only
    split
    · simp only [State.updCtx_eq]
      by_cases h : c = asid
      · subst h
        simp only [State.ctx_setCtx_same, Context.machineCheck]
        split <;> rfl
      · rw [State.ctx_setCtx_ne _ _ h]; rfl
    · rfl

theorem Translated.setTlb (s : State) (l : List TlbEntry) : Translated s { s with tlb := l } :=
  ⟨rfl, fun _ => rfl, fun m => m.of_mem (fun k => by cases k <;> rfl) rfl⟩

theorem Translated.tlbFill (s : State) (sites : List TlbSite) (asid va e base : Nat) (own : Option Own) :
    Translated s (s.tlbFill sites asid va e base own) := by
  unfold State.tlbFill
  induction sites generalizing s with
  | nil => exact .refl s
  | cons x xs ih =>
    simp only [List.foldl_cons]
    split
    · exact ih s
    · exact (Translated.setTlb s _).trans (ih _)

theorem Translated.foldl {β : Type} {f : State → β → State} (h : ∀ s x, Translated s (f s x)) (l : List β) (s : State) :
    Translated s (l.foldl f s) := by
  induction l generalizing s with
  | nil => exact .refl s
  | cons x l ih => exact (h s x).trans (ih _)

theorem Translated.setWalk (s : State) (l : List WalkEntry) : Translated s { s with walkCache := l } :=
  ⟨rfl, fun _ => rfl, fun m => m.of_mem (fun k => by cases k <;> rfl) rfl⟩

theorem Translated.walkFill (s : State) (d c va : Nat) : Translated s (s.walkFill d c va) := by
  refine Translated.foldl (fun s p => ?_) _ s
  unfold State.walkKeep
  dsimp only
  split
  · exact .refl s
  · exact .setWalk ..

theorem Translated.setCounts (s : State) (m h : SMap Nat) : Translated s { s with chanCnt := m, hot := h } :=
  ⟨rfl, fun _ => rfl, fun m => m.of_mem (fun k => by cases k <;> rfl) rfl⟩

theorem Translated.epochRoll (s : State) : Translated s s.epochRoll := by
  unfold State.epochRoll
  split
  · exact ⟨rfl, fun _ => rfl, fun m => m.of_mem (fun k => by cases k <;> rfl) rfl⟩
  · exact .refl s

theorem Translated.countOne (s : State) (c hs pa : Nat) : Translated s (s.countOne c hs pa) := Translated.setCounts ..

theorem Translated.countRun (s : State) (c hs pa n : Nat) : Translated s (s.countRun c hs pa n) := by
  unfold State.countRun
  split
  · exact .refl s
  · exact (Translated.epochRoll s).trans (Translated.foldl (fun _ _ => Translated.countOne ..) _ _)

theorem Translated.countSegs (s : State) (c : Nat) (gs : List Seg) : Translated s (s.countSegs c gs) := by
  refine Translated.foldl (fun s g => ?_) _ s
  unfold State.countSeg
  split
  · exact .countRun ..
  · exact .refl s

theorem Translated.countWalk (s : State) (d c va : Nat) : Translated s (s.countWalk d c va) :=
  Translated.foldl (fun _ _ => .countRun ..) _ s

theorem Translated.leafOf (s : State) (c : Nat) (t : Option Nat) (d va : Nat) : Translated s (s.leafOf c t d va).1 := by
  unfold State.leafOf
  dsimp only
  split
  · exact Translated.tlbFill ..
  · have h := (Translated.countWalk s d c va).trans (Translated.walkFill (s.countWalk d c va) d c va)
    split
    · split
      · exact h.trans (Translated.tlbFill ..)
      · exact h
    · exact h.trans (Translated.logErr ..)
    · exact h

/-- A translation of one byte (R50). -/
theorem Translated.translate (s : State) (c : Nat) (t : Option Nat) (d va : Nat) (k : Acc) (ext : Bool) :
    Translated s (s.translate c t d va k ext).1 := by
  have h := Translated.leafOf s c t d va
  unfold State.translate
  split
  · exact .refl s
  · split
    · exact .refl s
    · generalize s.leafOf c t d va = r at h ⊢
      obtain ⟨u, w, b, o⟩ := r
      cases w <;> dsimp only <;> (repeat' split) <;> exact h

/-- The translation of the pieces of a range. -/
theorem Translated.translateAll (s : State) (c : Nat) (t : Option Nat) (d : Nat) (k : Acc) (ext : Bool) (ps : List Piece) :
    Translated s (s.translateAll c t d k ext ps).1 := by
  induction ps generalizing s with
  | nil => exact .refl s
  | cons p ps ih =>
    have h := Translated.translate s c t d p.va k ext
    unfold State.translateAll
    generalize s.translate c t d p.va k ext = r at h ⊢
    obtain ⟨u, o⟩ := r
    cases o with
    | resident l a e =>
      have h2 := ih u
      dsimp only
      generalize u.translateAll c t d k ext ps = r2 at h2 ⊢
      obtain ⟨v, x⟩ := r2
      cases x <;> exact h.trans h2
    | far _ => exact h
    | unmapped => exact h
    | denied => exact h
    | notOwned => exact h
    | malformed => exact h

/-- A read by virtual address changes no memory, no tile and nothing of a context but its machine-check queue. -/
theorem Translated.vaRead (s : State) (c : Nat) (t : Option Nat) (d : Nat) (v : VA) (n : Nat) (k : Acc) :
    Translated s (s.vaRead c t d v n k).1 := by
  have h := Translated.translateAll s c t d k false (vaPieces v n)
  unfold State.vaRead
  generalize s.translateAll c t d k false (vaPieces v n) = r at h ⊢
  obtain ⟨u, x⟩ := r
  cases x with
  | error e => exact h
  | ok gs =>
    exact h.trans (Translated.countSegs ..)

/-- A probe at most adds a hold. -/
theorem MemoryCanonical.probe {s : State} (h : MemoryCanonical s) (c : Nat) (t : Option Nat) (d : Nat) (v : VA) (n : Nat) (k : Acc)
    (ext : Bool) (sn : Nat) : MemoryCanonical (s.probe c t d v n k ext sn).1 := by
  have h1 := (Translated.translateAll s c t d k ext (vaPieces v n)).canon h
  unfold State.probe
  generalize s.translateAll c t d k ext (vaPieces v n) = r at h1 ⊢
  obtain ⟨u, x⟩ := r
  cases x with
  | error e => exact h1
  | ok gs =>
    dsimp only
    split
    · split <;> exact h1
    · exact h1.setCtx_same _ _ rfl

theorem MemoryCanonical.unreplicate {s : State} (h : MemoryCanonical s) (c va e : Nat) : MemoryCanonical (s.unreplicate c va e) :=
  h.rewrite ..

theorem MemoryCanonical.freeReplicas {s : State} (h : MemoryCanonical s) (e : Nat) : MemoryCanonical (s.freeReplicas e) :=
  h.of_mem (fun k => by cases k <;> rfl) rfl

theorem MemoryCanonical.collapseEnd {s : State} (h : MemoryCanonical s) (r : CollapseRec) : MemoryCanonical (s.collapseEnd r) := by
  unfold State.collapseEnd
  dsimp only
  have h1 : MemoryCanonical (if r.begun = true then s else s.unreplicate r.ctx r.va r.pte) := by
    split
    · exact h
    · exact h.unreplicate ..
  exact (h1.freeReplicas r.pte).of_mem (fun k => by cases k <;> rfl) rfl

theorem MemoryCanonical.settle {s : State} (h : MemoryCanonical s) (c : Nat) (g : Seg) : MemoryCanonical (s.settle c g) := by
  unfold State.settle
  split
  · exact h.collapseEnd _
  · split
    · exact (h.unreplicate ..).freeReplicas _
    · exact h

/-- A write by virtual address keeps the canonical form. -/
theorem MemoryCanonical.vaWrite {s : State} (h : MemoryCanonical s) (c : Nat) (t : Option Nat) (d : Nat) (v : VA)
    (bs : List (Byte × Bool)) (ext : Bool) : MemoryCanonical (s.vaWrite c t d v bs ext).1 := by
  have h1 : MemoryCanonical (s.vaWriteSegs c t d (vaPieces v bs.length) .w ext).1 := by
    have h2 := (Translated.translateAll s c t d .w ext (vaPieces v bs.length)).canon h
    unfold State.vaWriteSegs
    generalize s.translateAll c t d .w ext (vaPieces v bs.length) = r at h2 ⊢
    obtain ⟨u, x⟩ := r
    cases x with
    | error e => exact h2
    | ok gs =>
      dsimp only
      split
      · exact (Translated.translateAll ..).canon (MemoryCanonical.foldl (fun _ _ hs => hs.settle ..) gs h2)
      · exact h2
  unfold State.vaWrite
  generalize s.vaWriteSegs c t d (vaPieces v bs.length) .w ext = r at h1 ⊢
  obtain ⟨u, x⟩ := r
  cases x with
  | error e => exact h1
  | ok gs => exact h1.writeSegs ..

/-- The end of a context that a failing access of the hub brings about (R41, R50) changes no memory. -/
theorem MemoryCanonical.fatalCtx {s : State} (h : MemoryCanonical s) (c : Nat) (cause : Cause) (fva : Nat) (w : Option (Nat × Nat × Nat)) :
    MemoryCanonical (s.fatalCtx c cause fva w) := by
  refine h.setCtx_same _ _ ?_
  dsimp only
  split <;> rfl

theorem MemoryCanonical.hubStore {s : State} (h : MemoryCanonical s) (c : Nat) (v : VA) (bs : List Byte) :
    MemoryCanonical (s.hubStore c v bs) := by
  have h1 := h.vaWrite c none 4 v (bs.map fun b => (b, false)) true
  unfold State.hubStore
  generalize s.vaWrite c none 4 v (bs.map fun b => (b, false)) true = r at h1 ⊢
  obtain ⟨u, x⟩ := r
  cases x with
  | ok _ => exact h1
  | error e => exact h1.fatalCtx ..

theorem MemoryCanonical.hubPut {s : State} (h : MemoryCanonical s) (c : Nat) (v : VA) (n w : Nat) : MemoryCanonical (s.hubPut c v n w) :=
  h.hubStore ..

end Sys2Proof.Machine
end

