-- ==== Sys2Proof/Laws/Ops.lean ====
section
/-! SUPPORT. What the shared operations of syllables, tasks and commands can do: results in flight, the taking of a cause, queue
pushes, waits, stores, entries of the window, and the completion of a command. -/
namespace Sys2Proof.Machine

/-! ## Results in flight -/

/-- R262: one more result in flight, or nothing for `x0`; tiles, contexts and memories are as they were otherwise. -/
theorem State.resultAs_spec (s : State) (d : Dest) (v : Word) (lat : Nat) (mem : Bool) (csr : Option Nat) :
    (d = .x 0 ∧ s.resultAs d v lat mem csr = s) ∨
      (d ≠ .x 0 ∧ s.resultAs d v lat mem csr = s.setTile s.cur.tile { s.here with
        pend := s.here.pend ++
          [⟨d, v, s.here.clk + lat, s.here.clk, s.here.pseq, s.cur.group, false, false, false, 0, s.cur.addr, mem, csr⟩]
        pseq := s.here.pseq + 1 }) := by
  unfold State.resultAs
  split
  · exact .inl ⟨‹_›, rfl⟩
  · exact .inr ⟨‹_›, rfl⟩

theorem State.result_eq (s : State) (d : Dest) (v : Word) (lat : Nat) : s.result d v lat = s.resultAs d v lat false none := rfl
theorem State.loadResult_eq (s : State) (d : Dest) (v : Word) (lat : Nat) : s.loadResult d v lat = s.resultAs d v lat true none := rfl

theorem MemoryCanonical.resultAs {s : State} (h : MemoryCanonical s) (d : Dest) (v : Word) (lat : Nat) (mem : Bool) (csr : Option Nat) :
    MemoryCanonical (s.resultAs d v lat mem csr) := by
  rcases s.resultAs_spec d v lat mem csr with ⟨_, e⟩ | ⟨_, e⟩ <;> rw [e]
  · exact h
  · exact h.setTile_same _ _ rfl rfl

theorem MemoryCanonical.ilkResult {s : State} (h : MemoryCanonical s) (d : Dest) (v : Word) (p : Bool) (a : Nat) :
    MemoryCanonical (s.ilkResult d v p a) := h.setTile_same _ _ rfl rfl

/-- R173: a syllable whose qualifier holds has its effect, another has none. -/
theorem State.syl_spec (s : State) (q : BitVec 2) (k : State → State) :
    (s.qualified q = true ∧ s.syl q k = .next (k s)) ∨ (s.qualified q = false ∧ s.syl q k = .next s) := by
  unfold State.syl
  cases h : s.qualified q
  · exact .inr ⟨rfl, rfl⟩
  · exact .inl ⟨rfl, rfl⟩

/-- R168: within its partition a syllable has its effect, outside it PARTITION is raised. -/
theorem State.within_spec (s : State) (ds : List Dest) (k : State → State) :
    ((∀ d ∈ ds, s.here.mayWrite s.cur.group d = true) ∧ s.within ds k = k s) ∨
      ∃ d ∈ ds, s.here.mayWrite s.cur.group d = false ∧ s.within ds k = s.raiseSyl .partition 0 0 d.freg := by
  unfold State.within
  cases h : ds.find? fun d => !s.here.mayWrite s.cur.group d with
  | none =>
    refine .inl ⟨fun d hd => ?_, rfl⟩
    simpa using List.find?_eq_none.1 h d hd
  | some d =>
    exact .inr ⟨d, List.mem_of_find?_eq_some h, by simpa using List.find?_some h, rfl⟩

/-- A group of a lockstep tile may write every destination. -/
theorem Tile.mayWrite_lockstep {x : Tile} (g : Nat) (d : Dest) (h : x.lockstep = true) : x.mayWrite g d = true := by
  simp [Tile.mayWrite, h]

/-- A value put in its destination changes neither memory of the tile. -/
@[simp] theorem Tile.put_spad (x : Tile) (d : Dest) (v : Word) : (x.put d v).spad = x.spad := by
  cases d <;> simp only [Tile.put] <;> (repeat' split) <;> rfl

@[simp] theorem Tile.put_acc (x : Tile) (d : Dest) (v : Word) : (x.put d v).acc = x.acc := by
  cases d <;> simp only [Tile.put] <;> (repeat' split) <;> rfl

/-- `x0` takes no value (R281). -/
@[simp] theorem Tile.put_x0 (x : Tile) (v : Word) : x.put (.x 0) v = x := rfl

/-- Another `x` register takes the value, and no other register changes. -/
theorem Tile.put_x (x : Tile) (r : BitVec 7) (v : Word) (h : r ≠ 0) : x.put (.x r) v = { x with xs := mput x.xs r.toNat v } := by
  simp only [Tile.put]; rw [if_neg h]

@[simp] theorem Tile.landPend_spad (x : Tile) (p : Pend) : (x.landPend p).spad = x.spad := by
  simp [Tile.landPend, Tile.settleSetcs]

@[simp] theorem Tile.landPend_acc (x : Tile) (p : Pend) : (x.landPend p).acc = x.acc := by
  simp [Tile.landPend, Tile.settleSetcs]

/-! ## Taking a cause -/

@[simp] theorem Tile.record_spad (x : Tile) (r : Raised) : (x.record r).spad = x.spad := by
  unfold Tile.record; (repeat' split) <;> rfl

@[simp] theorem Tile.record_acc (x : Tile) (r : Raised) : (x.record r).acc = x.acc := by
  unfold Tile.record; (repeat' split) <;> rfl

/-- R369: a tile that has recorded nothing records the cause. -/
theorem Tile.record_none {x : Tile} (r : Raised) (h : x.raised = none) : x.record r = { x with raised := some r } := by
  simp [Tile.record, h]

@[simp] theorem Tile.freeze_spad (x : Tile) : x.freeze.spad = x.spad := rfl
@[simp] theorem Tile.freeze_acc (x : Tile) : x.freeze.acc = x.acc := rfl
@[simp] theorem Tile.freeze_stat (x : Tile) : x.freeze.stat = .frozen := rfl
@[simp] theorem Tile.freeze_xs (x : Tile) : x.freeze.xs = x.xs := rfl

/-- R368: a cause of a tile whose gang is not ending freezes it; no other tile changes, and no memory. -/
theorem State.raiseIn_spec (s : State) (t : Nat) (r : Raised) (h : s.killed t = false) :
    (s.raiseIn t r).tile t = ((s.tile t).record r).freeze ∧ (∀ k, k ≠ t → (s.raiseIn t r).tile k = s.tile k) ∧
      (causeClass r.cause ≠ 0 → s.raiseIn t r = s.setTile t ((s.tile t).record r).freeze) := by
  unfold State.raiseIn
  simp only [h, Bool.false_eq_true, if_false]
  split
  · rename_i e
    exact ⟨by simp [State.fatalCtx], fun k hk => by simp [State.fatalCtx, State.tile_setTile_ne s _ hk], fun c => absurd e c⟩
  · exact ⟨by simp, fun k hk => State.tile_setTile_ne s _ hk, fun _ => rfl⟩

theorem MemoryCanonical.raiseIn {s : State} (h : MemoryCanonical s) (t : Nat) (r : Raised) : MemoryCanonical (s.raiseIn t r) := by
  unfold State.raiseIn
  dsimp only
  have h1 : MemoryCanonical (if s.killed t = true then s else s.setTile t ((s.tile t).record r).freeze) := by
    split
    · exact h
    · exact h.setTile_same _ _ (by simp) (by simp)
  split
  · exact h1.fatalCtx ..
  · exact h1

theorem MemoryCanonical.raiseSyl {s : State} (h : MemoryCanonical s) (c : Cause) (a code : Nat) (f : Option (Nat × Bool)) :
    MemoryCanonical (s.raiseSyl c a code f) := by
  unfold State.raiseSyl State.raiseWhy
  refine MemoryCanonical.raiseIn ?_ ..
  split
  · exact h
  · exact h.setTile_same _ _ rfl rfl

theorem MemoryCanonical.within {s : State} (h : MemoryCanonical s) (ds : List Dest) {k : State → State} (hk : MemoryCanonical (k s)) :
    MemoryCanonical (s.within ds k) := by
  rcases s.within_spec ds k with ⟨_, e⟩ | ⟨_, _, _, e⟩ <;> rw [e]
  · exact hk
  · exact h.raiseSyl ..

/-! ## Groups, waits and queues -/

@[simp] theorem Tile.updGroup_spad (x : Tile) (g : Nat) (f : Group → Group) : (x.updGroup g f).spad = x.spad := rfl
@[simp] theorem Tile.updGroup_acc (x : Tile) (g : Nat) (f : Group → Group) : (x.updGroup g f).acc = x.acc := rfl

theorem MemoryCanonical.updGrp {s : State} (h : MemoryCanonical s) (f : Group → Group) : MemoryCanonical (s.updGrp f) :=
  h.setTile_same _ _ rfl rfl

theorem MemoryCanonical.wait {s : State} (h : MemoryCanonical s) (w : Wait) (i : Instr) : MemoryCanonical (s.wait w i) := h.updGrp _

@[simp] theorem Tile.setQueue_spad (x : Tile) (e : Eng) (q : EngQ) : (x.setQueue e q).spad = x.spad := by cases e <;> rfl
@[simp] theorem Tile.setQueue_acc (x : Tile) (e : Eng) (q : EngQ) : (x.setQueue e q).acc = x.acc := by cases e <;> rfl

/-- The queue of an engine after an update of a queue. -/
@[simp] theorem Tile.queue_setQueue (x : Tile) (e : Eng) (q : EngQ) : (x.setQueue e q).queue e = q := by cases e <;> rfl

theorem Tile.queue_setQueue_ne (x : Tile) {e f : Eng} (q : EngQ) (h : f ≠ e) : (x.setQueue e q).queue f = x.queue f := by
  cases e <;> cases f <;> first | rfl | exact absurd rfl h

/-- R261: a push to a full queue has no effect. -/
theorem State.push_full {s : State} {e : Eng} (i : Instr) (xs : List Word) (spc : BitVec 2) (h : 16 ≤ (s.here.queue e).q.length) :
    s.push e i xs spc = s := by
  simp only [State.push]; rw [if_pos h]

/-- R21: what has happened for whom changes no memory. -/
theorem MemoryCanonical.updUnseen {s : State} (h : MemoryCanonical s) (c : Nat) (p : Unseen → Bool) (f : Unseen → Unseen) :
    MemoryCanonical (s.updUnseen c p f) := h.of_mem (fun l => by cases l <;> rfl) rfl

theorem MemoryCanonical.push {s : State} (h : MemoryCanonical s) (e : Eng) (i : Instr) (xs : List Word) (spc : BitVec 2) :
    MemoryCanonical (s.push e i xs spc) := by
  unfold State.push
  dsimp only
  split
  · exact h
  · refine MemoryCanonical.updGrp ?_ _
    have k : MemoryCanonical (if seesOf i then s.cmdSees s.cur.tile s.here.pseq else s) := by
      split <;> exact h
    exact k.setTile_same _ _ (Tile.setQueue_spad ..) (Tile.setQueue_acc ..)

/-! ## Stores -/

theorem MemoryCanonical.updCluster {s : State} (h : MemoryCanonical s) (k : Nat) (f : Cluster → Cluster) : MemoryCanonical (s.updCluster k f) :=
  h.of_mem (fun k => by cases k <;> rfl) rfl

theorem MemoryCanonical.spadWrote {s : State} (h : MemoryCanonical s) (t a n : Nat) : MemoryCanonical (s.spadWrote t a n) := by
  unfold State.spadWrote
  dsimp only
  refine MemoryCanonical.updCluster ?_ _ _
  rw [State.updTile_eq]
  refine MemoryCanonical.setTile_same h _ _ ?_ ?_ <;> rfl

theorem MemoryCanonical.spoil {s : State} (h : MemoryCanonical s) (t a n : Nat) : MemoryCanonical (s.spoil t a n) := by
  unfold State.spoil
  refine MemoryCanonical.foldl (fun s p hs => ?_) _ h
  split
  · exact hs
  · refine MemoryCanonical.foldl (fun s r hs => hs.undefine ..) _ ?_
    rw [State.updTile_eq]
    exact hs.setTile_same _ _ rfl rfl

/-- R73: noting the old entries of a table changes no memory. -/
theorem MemoryCanonical.keepIx {s : State} (h : MemoryCanonical s) (t a n : Nat) : MemoryCanonical (s.keepIx t a n) := by
  unfold State.keepIx
  refine MemoryCanonical.foldl (fun s p hs => ?_) _ h
  dsimp only
  split
  · exact hs
  · rw [State.updTile_eq]
    exact hs.setTile_same _ _ rfl rfl

theorem MemoryCanonical.storeRaw {s : State} (h : MemoryCanonical s) (l : Loc) (a : Nat) (bs : List (Byte × Bool)) (asid : Nat) :
    MemoryCanonical (s.storeRaw l a bs asid) := by
  have k := h.writeP l a bs asid
  cases l with
  | spad t => exact MemoryCanonical.spadWrote k t a bs.length
  | phys => exact k
  | flt => exact k
  | host => exact k
  | acc t => exact k

theorem MemoryCanonical.store {s : State} (h : MemoryCanonical s) (l : Loc) (a : Nat) (bs : List (Byte × Bool)) (asid : Nat) :
    MemoryCanonical (s.store l a bs asid) := by
  have k := h.storeRaw l a bs asid
  cases l with
  | spad t => exact MemoryCanonical.spoil ((h.keepIx t a bs.length).storeRaw (.spad t) a bs asid) t a bs.length
  | phys => exact k
  | flt => exact k
  | host => exact k
  | acc t => exact k

theorem MemoryCanonical.spadWrite {s : State} (h : MemoryCanonical s) (t a : Nat) (bs : List (Byte × Bool)) :
    MemoryCanonical (s.spadWrite t a bs) := by
  unfold State.spadWrite
  dsimp only
  split
  · exact h.store ..
  · exact (h.store ..).store ..

/-! ## Window entries and commands -/

/-- R192: an entry is found after its change. -/
theorem Context.entry_updEntry (x : Context) (sn : Nat) (f : Entry → Entry) (hf : ∀ e, (f e).sn = e.sn) :
    (x.updEntry sn f).entry sn = (x.entry sn).map f := by
  unfold Context.entry Context.updEntry
  dsimp only
  induction x.entries with
  | nil => rfl
  | cons e es ih =>
    simp only [List.map_cons, List.find?_cons]
    by_cases h : e.sn = sn
    · simp [h, hf]
    · simp only [h, if_false]
      rw [show (e.sn == sn) = false by simpa using h]
      exact ih

/-- The entry changes nothing else of its context. -/
@[simp] theorem Context.updEntry_gangs (x : Context) (sn : Nat) (f : Entry → Entry) : (x.updEntry sn f).gangs = x.gangs := rfl
@[simp] theorem Context.updEntry_dv (x : Context) (sn : Nat) (f : Entry → Entry) : (x.updEntry sn f).dv = x.dv := rfl
@[simp] theorem Context.updEntry_rv (x : Context) (sn : Nat) (f : Entry → Entry) : (x.updEntry sn f).rv = x.rv := rfl
@[simp] theorem Context.updEntry_st (x : Context) (sn : Nat) (f : Entry → Entry) : (x.updEntry sn f).st = x.st := rfl

theorem MemoryCanonical.updEntry {s : State} (h : MemoryCanonical s) (c sn : Nat) (f : Entry → Entry) : MemoryCanonical (s.updEntry c sn f) :=
  h.setCtx_same _ _ rfl

theorem MemoryCanonical.failTask {s : State} (h : MemoryCanonical s) (c sn code opnd fva : Nat) :
    MemoryCanonical (s.failTask c sn code opnd fva) := h.updEntry ..

theorem MemoryCanonical.taskMade {s : State} (h : MemoryCanonical s) (r : List (Nat × Word)) : MemoryCanonical (s.taskMade r) := h.updEntry ..

/-- R193: the first fault of a task stands. -/
theorem Entry.fail_again {e : Entry} (code opnd fva off : Nat) (h : e.fault.isSome = true) : e.fail code opnd fva off = e := by
  simp [Entry.fail, h]

theorem Entry.fail_first {e : Entry} (code opnd fva off : Nat) (h : e.fault = none) :
    e.fail code opnd fva off = { e with st := .fault, fault := some (code, opnd, fva), frameOff := off } := by
  simp [Entry.fail, h]

theorem MemoryCanonical.updMbx {s : State} (h : MemoryCanonical s) (m : Nat) (f : Mailbox → Mailbox) : MemoryCanonical (s.updMbx m f) :=
  h.of_mem (fun k => by cases k <;> rfl) rfl

/-- R391: the completion of a command. -/
theorem State.cmdEnd_spec (s : State) (mb : Nat) (st : Status) (res : List Word) :
    ((s.cmdEnd mb st res).mbx mb).status = st ∧ ((s.cmdEnd mb st res).mbx mb).run = false ∧
      (s.cmdEnd mb st res).submitted = s.submitted.filter (· != mb) ∧ (s.cmdEnd mb st res).tiles = s.tiles ∧
      (s.cmdEnd mb st res).ctxs = s.ctxs := by
  unfold State.cmdEnd
  dsimp only
  split <;> simp [State.raiseMsix, State.mbx, State.updMbx]

theorem MemoryCanonical.cmdEnd {s : State} (h : MemoryCanonical s) (mb : Nat) (st : Status) (res : List Word) :
    MemoryCanonical (s.cmdEnd mb st res) := by
  unfold State.cmdEnd
  dsimp only
  split <;> exact h.of_mem (fun k => by cases k <;> rfl) rfl

end Sys2Proof.Machine
end

