-- ==== Sys2Proof/Laws/PerInstr.lean ====
section
/-! SUPPORT. Per instruction: an instruction with a syllable encoding is no task-stream instruction and has a slot to stand in (R254,
R256). -/
namespace Sys2Proof.Laws.Encoding
open Sys2Proof Sys2Proof.Machine

/-- What has a syllable has no TLI, and its opcode map gives it at least one slot. -/
def Statement (i : Instr) : Prop := (encodeSyl i).isSome = true → i.tli? = none ∧ (slotMask i == 0) = false

theorem nop (q : BitVec 2) : Statement (.nop q) := fun _ => ⟨rfl, rfl⟩
theorem br (q : BitVec 2) (off : BitVec 22) : Statement (.br q off) := fun _ => ⟨rfl, rfl⟩
theorem brc (q : BitVec 2) (c : BitVec 5) (neg : Bool) (off : BitVec 16) : Statement (.brc q c neg off) := fun _ => ⟨rfl, rfl⟩
theorem brx (q : BitVec 2) (a : BitVec 7) : Statement (.brx q a) := fun _ => ⟨rfl, rfl⟩
theorem ret (q : BitVec 2) : Statement (.ret q) := fun _ => ⟨rfl, rfl⟩
theorem call (q : BitVec 2) (off : BitVec 22) : Statement (.call q off) := fun _ => ⟨rfl, rfl⟩
theorem loop (q : BitVec 2) (lev : BitVec 3) (a : BitVec 7) (min : BitVec 8) (endOff : BitVec 16) (short : BitVec 16) : Statement (.loop q lev a min endOff short) := fun _ => ⟨rfl, rfl⟩
theorem brkl (q : BitVec 2) (lev : BitVec 3) (cond : Bool) (c : BitVec 5) (neg : Bool) : Statement (.brkl q lev cond c neg) := fun _ => ⟨rfl, rfl⟩
theorem fork (q : BitVec 2) (off : BitVec 22) : Statement (.fork q off) := fun _ => ⟨rfl, rfl⟩
theorem join (q : BitVec 2) (mask : BitVec 8) (id : BitVec 8) : Statement (.join q mask id) := fun _ => ⟨rfl, rfl⟩
theorem halt (q : BitVec 2) : Statement (.halt q) := fun _ => ⟨rfl, rfl⟩
theorem exit (q : BitVec 2) : Statement (.exit q) := fun _ => ⟨rfl, rfl⟩
theorem trap (q : BitVec 2) (code : BitVec 16) : Statement (.trap q code) := fun _ => ⟨rfl, rfl⟩
theorem eret (q : BitVec 2) : Statement (.eret q) := fun _ => ⟨rfl, rfl⟩
theorem setc (q : BitVec 2) (c : BitVec 5) : Statement (.setc q c) := fun _ => ⟨rfl, rfl⟩
theorem clrc (q : BitVec 2) (c : BitVec 5) : Statement (.clrc q c) := fun _ => ⟨rfl, rfl⟩
theorem waitc (q : BitVec 2) (c : BitVec 5) (neg : Bool) : Statement (.waitc q c neg) := fun _ => ⟨rfl, rfl⟩
theorem preemptpt (q : BitVec 2) : Statement (.preemptpt q) := fun _ => ⟨rfl, rfl⟩
theorem csrr (q : BitVec 2) (x : BitVec 7) (csr : BitVec 12) : Statement (.csrr q x csr) := fun _ => ⟨rfl, rfl⟩
theorem csrw (q : BitVec 2) (x : BitVec 7) (csr : BitVec 12) : Statement (.csrw q x csr) := fun _ => ⟨rfl, rfl⟩
theorem srstateWrite (tile : Nat) : Statement (.srstateWrite tile) := fun h => by cases h
theorem spretWrite (tile : Nat) : Statement (.spretWrite tile) := fun h => by cases h
theorem getid (q : BitVec 2) (d : BitVec 7) (sel : BitVec 6) : Statement (.getid q d sel) := fun _ => ⟨rfl, rfl⟩
theorem rget (q : BitVec 2) (d : BitVec 7) (a : BitVec 7) : Statement (.rget q d a) := fun _ => ⟨rfl, rfl⟩
theorem add (q : BitVec 2) (d : BitVec 7) (a : BitVec 7) (b : BitVec 7) : Statement (.add q d a b) := fun _ => ⟨rfl, rfl⟩
theorem addLong (q : BitVec 2) (d : BitVec 7) (a : BitVec 7) (imm : BitVec 32) : Statement (.addLong q d a imm) := fun _ => ⟨rfl, rfl⟩
theorem sub (q : BitVec 2) (d : BitVec 7) (a : BitVec 7) (b : BitVec 7) : Statement (.sub q d a b) := fun _ => ⟨rfl, rfl⟩
theorem subLong (q : BitVec 2) (d : BitVec 7) (a : BitVec 7) (imm : BitVec 32) : Statement (.subLong q d a imm) := fun _ => ⟨rfl, rfl⟩
theorem mul (q : BitVec 2) (d : BitVec 7) (a : BitVec 7) (b : BitVec 7) : Statement (.mul q d a b) := fun _ => ⟨rfl, rfl⟩
theorem mulLong (q : BitVec 2) (d : BitVec 7) (a : BitVec 7) (imm : BitVec 32) : Statement (.mulLong q d a imm) := fun _ => ⟨rfl, rfl⟩
theorem mulh (q : BitVec 2) (d : BitVec 7) (a : BitVec 7) (b : BitVec 7) (uns : Bool) : Statement (.mulh q d a b uns) := fun _ => ⟨rfl, rfl⟩
theorem madd (q : BitVec 2) (d : BitVec 7) (a : BitVec 7) (b : BitVec 7) : Statement (.madd q d a b) := fun _ => ⟨rfl, rfl⟩
theorem and (q : BitVec 2) (d : BitVec 7) (a : BitVec 7) (b : BitVec 7) : Statement (.and q d a b) := fun _ => ⟨rfl, rfl⟩
theorem andLong (q : BitVec 2) (d : BitVec 7) (a : BitVec 7) (imm : BitVec 32) : Statement (.andLong q d a imm) := fun _ => ⟨rfl, rfl⟩
theorem or (q : BitVec 2) (d : BitVec 7) (a : BitVec 7) (b : BitVec 7) : Statement (.or q d a b) := fun _ => ⟨rfl, rfl⟩
theorem orLong (q : BitVec 2) (d : BitVec 7) (a : BitVec 7) (imm : BitVec 32) : Statement (.orLong q d a imm) := fun _ => ⟨rfl, rfl⟩
theorem xor (q : BitVec 2) (d : BitVec 7) (a : BitVec 7) (b : BitVec 7) : Statement (.xor q d a b) := fun _ => ⟨rfl, rfl⟩
theorem xorLong (q : BitVec 2) (d : BitVec 7) (a : BitVec 7) (imm : BitVec 32) : Statement (.xorLong q d a imm) := fun _ => ⟨rfl, rfl⟩
theorem andn (q : BitVec 2) (d : BitVec 7) (a : BitVec 7) (b : BitVec 7) : Statement (.andn q d a b) := fun _ => ⟨rfl, rfl⟩
theorem andnLong (q : BitVec 2) (d : BitVec 7) (a : BitVec 7) (imm : BitVec 32) : Statement (.andnLong q d a imm) := fun _ => ⟨rfl, rfl⟩
theorem shl (q : BitVec 2) (d : BitVec 7) (a : BitVec 7) (b : BitVec 7) : Statement (.shl q d a b) := fun _ => ⟨rfl, rfl⟩
theorem shlLong (q : BitVec 2) (d : BitVec 7) (a : BitVec 7) (imm : BitVec 32) : Statement (.shlLong q d a imm) := fun _ => ⟨rfl, rfl⟩
theorem shr (q : BitVec 2) (d : BitVec 7) (a : BitVec 7) (b : BitVec 7) : Statement (.shr q d a b) := fun _ => ⟨rfl, rfl⟩
theorem shrLong (q : BitVec 2) (d : BitVec 7) (a : BitVec 7) (imm : BitVec 32) : Statement (.shrLong q d a imm) := fun _ => ⟨rfl, rfl⟩
theorem sra (q : BitVec 2) (d : BitVec 7) (a : BitVec 7) (b : BitVec 7) : Statement (.sra q d a b) := fun _ => ⟨rfl, rfl⟩
theorem sraLong (q : BitVec 2) (d : BitVec 7) (a : BitVec 7) (imm : BitVec 32) : Statement (.sraLong q d a imm) := fun _ => ⟨rfl, rfl⟩
theorem rotr (q : BitVec 2) (d : BitVec 7) (a : BitVec 7) (b : BitVec 7) : Statement (.rotr q d a b) := fun _ => ⟨rfl, rfl⟩
theorem rotrLong (q : BitVec 2) (d : BitVec 7) (a : BitVec 7) (imm : BitVec 32) : Statement (.rotrLong q d a imm) := fun _ => ⟨rfl, rfl⟩
theorem min (q : BitVec 2) (d : BitVec 7) (a : BitVec 7) (b : BitVec 7) : Statement (.min q d a b) := fun _ => ⟨rfl, rfl⟩
theorem minLong (q : BitVec 2) (d : BitVec 7) (a : BitVec 7) (imm : BitVec 32) : Statement (.minLong q d a imm) := fun _ => ⟨rfl, rfl⟩
theorem max (q : BitVec 2) (d : BitVec 7) (a : BitVec 7) (b : BitVec 7) : Statement (.max q d a b) := fun _ => ⟨rfl, rfl⟩
theorem maxLong (q : BitVec 2) (d : BitVec 7) (a : BitVec 7) (imm : BitVec 32) : Statement (.maxLong q d a imm) := fun _ => ⟨rfl, rfl⟩
theorem minu (q : BitVec 2) (d : BitVec 7) (a : BitVec 7) (b : BitVec 7) : Statement (.minu q d a b) := fun _ => ⟨rfl, rfl⟩
theorem minuLong (q : BitVec 2) (d : BitVec 7) (a : BitVec 7) (imm : BitVec 32) : Statement (.minuLong q d a imm) := fun _ => ⟨rfl, rfl⟩
theorem maxu (q : BitVec 2) (d : BitVec 7) (a : BitVec 7) (b : BitVec 7) : Statement (.maxu q d a b) := fun _ => ⟨rfl, rfl⟩
theorem maxuLong (q : BitVec 2) (d : BitVec 7) (a : BitVec 7) (imm : BitVec 32) : Statement (.maxuLong q d a imm) := fun _ => ⟨rfl, rfl⟩
theorem cmp (q : BitVec 2) (c : BitVec 5) (a : BitVec 7) (b : BitVec 7) (p : BitVec 3) : Statement (.cmp q c a b p) := fun _ => ⟨rfl, rfl⟩
theorem cmpLong (q : BitVec 2) (c : BitVec 5) (a : BitVec 7) (p : BitVec 3) (imm : BitVec 32) : Statement (.cmpLong q c a p imm) := fun _ => ⟨rfl, rfl⟩
theorem sel (q : BitVec 2) (d : BitVec 7) (a : BitVec 7) (c : BitVec 5) (neg : Bool) : Statement (.sel q d a c neg) := fun _ => ⟨rfl, rfl⟩
theorem li (q : BitVec 2) (d : BitVec 7) (imm : BitVec 15) : Statement (.li q d imm) := fun _ => ⟨rfl, rfl⟩
theorem liLong (q : BitVec 2) (d : BitVec 7) (imm : BitVec 32) : Statement (.liLong q d imm) := fun _ => ⟨rfl, rfl⟩
theorem liHi (q : BitVec 2) (d : BitVec 7) (imm : BitVec 32) : Statement (.liHi q d imm) := fun _ => ⟨rfl, rfl⟩
theorem addi (q : BitVec 2) (d : BitVec 7) (a : BitVec 7) (imm : BitVec 8) : Statement (.addi q d a imm) := fun _ => ⟨rfl, rfl⟩
theorem addiLong (q : BitVec 2) (d : BitVec 7) (a : BitVec 7) (imm : BitVec 32) : Statement (.addiLong q d a imm) := fun _ => ⟨rfl, rfl⟩
theorem ext (q : BitVec 2) (d : BitVec 7) (a : BitVec 7) (b : BitVec 7) : Statement (.ext q d a b) := fun _ => ⟨rfl, rfl⟩
theorem ins (q : BitVec 2) (d : BitVec 7) (a : BitVec 7) (b : BitVec 7) : Statement (.ins q d a b) := fun _ => ⟨rfl, rfl⟩
theorem popc (q : BitVec 2) (d : BitVec 7) (a : BitVec 7) : Statement (.popc q d a) := fun _ => ⟨rfl, rfl⟩
theorem clz (q : BitVec 2) (d : BitVec 7) (a : BitVec 7) : Statement (.clz q d a) := fun _ => ⟨rfl, rfl⟩
theorem hashb (q : BitVec 2) (d : BitVec 7) (a : BitVec 7) (b : BitVec 7) : Statement (.hashb q d a b) := fun _ => ⟨rfl, rfl⟩
theorem stg (q : BitVec 2) (e : BitVec 2) (n : BitVec 4) (a : BitVec 7) : Statement (.stg q e n a) := fun _ => ⟨rfl, rfl⟩
theorem stgi (q : BitVec 2) (e : BitVec 2) (n : BitVec 4) (imm : BitVec 32) : Statement (.stgi q e n imm) := fun _ => ⟨rfl, rfl⟩
theorem stgr (q : BitVec 2) (e : BitVec 2) (n : BitVec 4) (d : BitVec 7) : Statement (.stgr q e n d) := fun _ => ⟨rfl, rfl⟩
theorem stgl (q : BitVec 2) (e : BitVec 2) (n : BitVec 4) (imm : BitVec 32) : Statement (.stgl q e n imm) := fun _ => ⟨rfl, rfl⟩
theorem fadd (q : BitVec 2) (d : BitVec 7) (a : BitVec 7) (b : BitVec 7) (p : Bool) : Statement (.fadd q d a b p) := fun _ => ⟨rfl, rfl⟩
theorem fsub (q : BitVec 2) (d : BitVec 7) (a : BitVec 7) (b : BitVec 7) (p : Bool) : Statement (.fsub q d a b p) := fun _ => ⟨rfl, rfl⟩
theorem fmul (q : BitVec 2) (d : BitVec 7) (a : BitVec 7) (b : BitVec 7) (p : Bool) : Statement (.fmul q d a b p) := fun _ => ⟨rfl, rfl⟩
theorem fma (q : BitVec 2) (d : BitVec 7) (a : BitVec 7) (b : BitVec 7) (p : Bool) : Statement (.fma q d a b p) := fun _ => ⟨rfl, rfl⟩
theorem fmin (q : BitVec 2) (d : BitVec 7) (a : BitVec 7) (b : BitVec 7) (p : Bool) : Statement (.fmin q d a b p) := fun _ => ⟨rfl, rfl⟩
theorem fmax (q : BitVec 2) (d : BitVec 7) (a : BitVec 7) (b : BitVec 7) (p : Bool) : Statement (.fmax q d a b p) := fun _ => ⟨rfl, rfl⟩
theorem fcmp (q : BitVec 2) (c : BitVec 5) (a : BitVec 7) (b : BitVec 7) (r : BitVec 2) (p : Bool) : Statement (.fcmp q c a b r p) := fun _ => ⟨rfl, rfl⟩
theorem fcvt (q : BitVec 2) (d : BitVec 7) (a : BitVec 7) (conv : BitVec 4) (rm : BitVec 3) (p : Bool) : Statement (.fcvt q d a conv rm p) := fun _ => ⟨rfl, rfl⟩
theorem fabs (q : BitVec 2) (d : BitVec 7) (a : BitVec 7) (p : Bool) : Statement (.fabs q d a p) := fun _ => ⟨rfl, rfl⟩
theorem fneg (q : BitVec 2) (d : BitVec 7) (a : BitVec 7) (p : Bool) : Statement (.fneg q d a p) := fun _ => ⟨rfl, rfl⟩
theorem frcp (q : BitVec 2) (d : BitVec 7) (a : BitVec 7) (p : Bool) : Statement (.frcp q d a p) := fun _ => ⟨rfl, rfl⟩
theorem frsq (q : BitVec 2) (d : BitVec 7) (a : BitVec 7) (p : Bool) : Statement (.frsq q d a p) := fun _ => ⟨rfl, rfl⟩
theorem fexp2 (q : BitVec 2) (d : BitVec 7) (a : BitVec 7) (p : Bool) : Statement (.fexp2 q d a p) := fun _ => ⟨rfl, rfl⟩
theorem flog2 (q : BitVec 2) (d : BitVec 7) (a : BitVec 7) (p : Bool) : Statement (.flog2 q d a p) := fun _ => ⟨rfl, rfl⟩
theorem fdiv (q : BitVec 2) (d : BitVec 7) (a : BitVec 7) (b : BitVec 7) (p : Bool) : Statement (.fdiv q d a b p) := fun _ => ⟨rfl, rfl⟩
theorem fsqrt (q : BitVec 2) (d : BitVec 7) (a : BitVec 7) (rm : BitVec 3) (p : Bool) : Statement (.fsqrt q d a rm p) := fun _ => ⟨rfl, rfl⟩
theorem fclass (q : BitVec 2) (d : BitVec 7) (a : BitVec 7) (p : Bool) : Statement (.fclass q d a p) := fun _ => ⟨rfl, rfl⟩
theorem ldB (q : BitVec 2) (d : BitVec 7) (a : BitVec 7) (sx : Bool) (aq : Bool) (off : BitVec 6) : Statement (.ldB q d a sx aq off) := fun _ => ⟨rfl, rfl⟩
theorem ldBLong (q : BitVec 2) (d : BitVec 7) (a : BitVec 7) (sx : Bool) (aq : Bool) (imm : BitVec 32) : Statement (.ldBLong q d a sx aq imm) := fun _ => ⟨rfl, rfl⟩
theorem ldH (q : BitVec 2) (d : BitVec 7) (a : BitVec 7) (sx : Bool) (aq : Bool) (off : BitVec 6) : Statement (.ldH q d a sx aq off) := fun _ => ⟨rfl, rfl⟩
theorem ldHLong (q : BitVec 2) (d : BitVec 7) (a : BitVec 7) (sx : Bool) (aq : Bool) (imm : BitVec 32) : Statement (.ldHLong q d a sx aq imm) := fun _ => ⟨rfl, rfl⟩
theorem ldW (q : BitVec 2) (d : BitVec 7) (a : BitVec 7) (sx : Bool) (aq : Bool) (off : BitVec 6) : Statement (.ldW q d a sx aq off) := fun _ => ⟨rfl, rfl⟩
theorem ldWLong (q : BitVec 2) (d : BitVec 7) (a : BitVec 7) (sx : Bool) (aq : Bool) (imm : BitVec 32) : Statement (.ldWLong q d a sx aq imm) := fun _ => ⟨rfl, rfl⟩
theorem ldD (q : BitVec 2) (d : BitVec 7) (a : BitVec 7) (aq : Bool) (off : BitVec 6) : Statement (.ldD q d a aq off) := fun _ => ⟨rfl, rfl⟩
theorem ldDLong (q : BitVec 2) (d : BitVec 7) (a : BitVec 7) (aq : Bool) (imm : BitVec 32) : Statement (.ldDLong q d a aq imm) := fun _ => ⟨rfl, rfl⟩
theorem stB (q : BitVec 2) (xs : BitVec 7) (a : BitVec 7) (rl : Bool) (off : BitVec 6) : Statement (.stB q xs a rl off) := fun _ => ⟨rfl, rfl⟩
theorem stBLong (q : BitVec 2) (xs : BitVec 7) (a : BitVec 7) (rl : Bool) (imm : BitVec 32) : Statement (.stBLong q xs a rl imm) := fun _ => ⟨rfl, rfl⟩
theorem stH (q : BitVec 2) (xs : BitVec 7) (a : BitVec 7) (rl : Bool) (off : BitVec 6) : Statement (.stH q xs a rl off) := fun _ => ⟨rfl, rfl⟩
theorem stHLong (q : BitVec 2) (xs : BitVec 7) (a : BitVec 7) (rl : Bool) (imm : BitVec 32) : Statement (.stHLong q xs a rl imm) := fun _ => ⟨rfl, rfl⟩
theorem stW (q : BitVec 2) (xs : BitVec 7) (a : BitVec 7) (rl : Bool) (off : BitVec 6) : Statement (.stW q xs a rl off) := fun _ => ⟨rfl, rfl⟩
theorem stWLong (q : BitVec 2) (xs : BitVec 7) (a : BitVec 7) (rl : Bool) (imm : BitVec 32) : Statement (.stWLong q xs a rl imm) := fun _ => ⟨rfl, rfl⟩
theorem stD (q : BitVec 2) (xs : BitVec 7) (a : BitVec 7) (rl : Bool) (off : BitVec 6) : Statement (.stD q xs a rl off) := fun _ => ⟨rfl, rfl⟩
theorem stDLong (q : BitVec 2) (xs : BitVec 7) (a : BitVec 7) (rl : Bool) (imm : BitVec 32) : Statement (.stDLong q xs a rl imm) := fun _ => ⟨rfl, rfl⟩
theorem ldc (q : BitVec 2) (d : BitVec 7) (a : BitVec 7) (sz : BitVec 2) (sx : Bool) (aq : Bool) (spc : BitVec 2) : Statement (.ldc q d a sz sx aq spc) := fun _ => ⟨rfl, rfl⟩
theorem ldcLong (q : BitVec 2) (d : BitVec 7) (a : BitVec 7) (sz : BitVec 2) (sx : Bool) (aq : Bool) (spc : BitVec 2) (imm : BitVec 32) : Statement (.ldcLong q d a sz sx aq spc imm) := fun _ => ⟨rfl, rfl⟩
theorem stc (q : BitVec 2) (xs : BitVec 7) (a : BitVec 7) (sz : BitVec 2) (rl : Bool) (spc : BitVec 2) : Statement (.stc q xs a sz rl spc) := fun _ => ⟨rfl, rfl⟩
theorem stcLong (q : BitVec 2) (xs : BitVec 7) (a : BitVec 7) (sz : BitVec 2) (rl : Bool) (spc : BitVec 2) (imm : BitVec 32) : Statement (.stcLong q xs a sz rl spc imm) := fun _ => ⟨rfl, rfl⟩
theorem amo (q : BitVec 2) (xdp : BitVec 6) (a : BitVec 7) (op : BitVec 4) (sz : Bool) (aq : Bool) (rl : Bool) (spc : BitVec 2) : Statement (.amo q xdp a op sz aq rl spc) := fun _ => ⟨rfl, rfl⟩
theorem flagset (q : BitVec 2) (a : BitVec 7) (b : BitVec 7) : Statement (.flagset q a b) := fun _ => ⟨rfl, rfl⟩
theorem waitf (q : BitVec 2) (d : BitVec 7) (a : BitVec 7) : Statement (.waitf q d a) := fun _ => ⟨rfl, rfl⟩
theorem flagtest (q : BitVec 2) (d : BitVec 7) (a : BitVec 7) (c : BitVec 5) (aq : Bool) : Statement (.flagtest q d a c aq) := fun _ => ⟨rfl, rfl⟩
theorem probe (q : BitVec 2) (a : BitVec 7) (b : BitVec 7) (wr : Bool) (spc : BitVec 2) : Statement (.probe q a b wr spc) := fun _ => ⟨rfl, rfl⟩
theorem pref (q : BitVec 2) (a : BitVec 7) (b : BitVec 7) (l1 : Bool) (spc : BitVec 2) : Statement (.pref q a b l1 spc) := fun _ => ⟨rfl, rfl⟩
theorem fence (q : BitVec 2) (kind : BitVec 2) : Statement (.fence q kind) := fun _ => ⟨rfl, rfl⟩
theorem cpyin (q : BitVec 2) (acq : Bool) (rel : Bool) (tagv : Bool) (tag : BitVec 6) (lin : Bool) (spc : BitVec 2) : Statement (.cpyin q acq rel tagv tag lin spc) := fun _ => ⟨rfl, rfl⟩
theorem cpyout (q : BitVec 2) (acq : Bool) (rel : Bool) (tagv : Bool) (tag : BitVec 6) (lin : Bool) (spc : BitVec 2) : Statement (.cpyout q acq rel tagv tag lin spc) := fun _ => ⟨rfl, rfl⟩
theorem cpyss (q : BitVec 2) (acq : Bool) (rel : Bool) (tagv : Bool) (tag : BitVec 6) : Statement (.cpyss q acq rel tagv tag) := fun _ => ⟨rfl, rfl⟩
theorem cpyr (q : BitVec 2) (acq : Bool) (tagv : Bool) (tag : BitVec 6) : Statement (.cpyr q acq tagv tag) := fun _ => ⟨rfl, rfl⟩
theorem mcast (q : BitVec 2) (acq : Bool) (rel : Bool) (tagv : Bool) (tag : BitVec 6) (lin : Bool) (spc : BitVec 2) (tmask : BitVec 4) : Statement (.mcast q acq rel tagv tag lin spc tmask) := fun _ => ⟨rfl, rfl⟩
theorem bind (q : BitVec 2) (acq : Bool) (rel : Bool) (n : BitVec 5) : Statement (.bind q acq rel n) := fun _ => ⟨rfl, rfl⟩
theorem unbind (q : BitVec 2) (acq : Bool) (rel : Bool) (n : BitVec 5) : Statement (.unbind q acq rel n) := fun _ => ⟨rfl, rfl⟩
theorem sadv (q : BitVec 2) (acq : Bool) (rel : Bool) (n : BitVec 5) (k : BitVec 15) : Statement (.sadv q acq rel n k) := fun _ => ⟨rfl, rfl⟩
theorem idxld (q : BitVec 2) (acq : Bool) (rel : Bool) (tagv : Bool) (tag : BitVec 6) (spc : BitVec 2) : Statement (.idxld q acq rel tagv tag spc) := fun _ => ⟨rfl, rfl⟩
theorem waitta (q : BitVec 2) (a : BitVec 7) : Statement (.waitta q a) := fun _ => ⟨rfl, rfl⟩
theorem waittl (q : BitVec 2) (a : BitVec 7) : Statement (.waittl q a) := fun _ => ⟨rfl, rfl⟩
theorem ffrt (q : BitVec 2) (d : BitVec 7) (a : BitVec 7) (clr : Bool) : Statement (.ffrt q d a clr) := fun _ => ⟨rfl, rfl⟩
theorem tagclr (q : BitVec 2) (a : BitVec 7) : Statement (.tagclr q a) := fun _ => ⟨rfl, rfl⟩
theorem qpush (q : BitVec 2) (acq : Bool) (xq : BitVec 7) (xs : BitVec 7) : Statement (.qpush q acq xq xs) := fun _ => ⟨rfl, rfl⟩
theorem qpop (q : BitVec 2) (xq : BitVec 7) (xs : BitVec 7) : Statement (.qpop q xq xs) := fun _ => ⟨rfl, rfl⟩
theorem dsig (q : BitVec 2) (d : BitVec 7) : Statement (.dsig q d) := fun _ => ⟨rfl, rfl⟩
theorem dwaitDist (q : BitVec 2) (e : BitVec 3) (k : BitVec 15) : Statement (.dwaitDist q e k) := fun _ => ⟨rfl, rfl⟩
theorem dwaitReg (q : BitVec 2) (e : BitVec 3) (x : BitVec 7) : Statement (.dwaitReg q e x) := fun _ => ⟨rfl, rfl⟩
theorem send (q : BitVec 2) (acq : Bool) (tagv : Bool) (tag : BitVec 6) : Statement (.send q acq tagv tag) := fun _ => ⟨rfl, rfl⟩
theorem recv (q : BitVec 2) : Statement (.recv q) := fun _ => ⟨rfl, rfl⟩
theorem chain (q : BitVec 2) (acq : Bool) (rel : Bool) (qo : BitVec 5) (qa : BitVec 5) (qb : BitVec 5) (p : Bool) (sr : Bool) : Statement (.chain q acq rel qo qa qb p sr) := fun _ => ⟨rfl, rfl⟩
theorem vred (q : BitVec 2) (acq : Bool) (rel : Bool) (qo : BitVec 5) (qa : BitVec 5) (p : Bool) (f : BitVec 3) : Statement (.vred q acq rel qo qa p f) := fun _ => ⟨rfl, rfl⟩
theorem vgath (q : BitVec 2) (acq : Bool) (rel : Bool) (qo : BitVec 5) (qb : BitVec 5) (p : Bool) : Statement (.vgath q acq rel qo qb p) := fun _ => ⟨rfl, rfl⟩
theorem vscat (q : BitVec 2) (acq : Bool) (rel : Bool) (qa : BitVec 5) (qb : BitVec 5) (p : Bool) (f : BitVec 3) : Statement (.vscat q acq rel qa qb p f) := fun _ => ⟨rfl, rfl⟩
theorem vcvt (q : BitVec 2) (acq : Bool) (rel : Bool) (qo : BitVec 5) (qa : BitVec 5) (p : Bool) (sr : Bool) : Statement (.vcvt q acq rel qo qa p sr) := fun _ => ⟨rfl, rfl⟩
theorem vqnt (q : BitVec 2) (acq : Bool) (rel : Bool) (qo : BitVec 5) (qa : BitVec 5) (sr : Bool) : Statement (.vqnt q acq rel qo qa sr) := fun _ => ⟨rfl, rfl⟩
theorem vfill (q : BitVec 2) (acq : Bool) (rel : Bool) (qo : BitVec 5) (p : Bool) (f : BitVec 3) : Statement (.vfill q acq rel qo p f) := fun _ => ⟨rfl, rfl⟩
theorem vtrn (q : BitVec 2) (acq : Bool) (rel : Bool) (qo : BitVec 5) (qa : BitVec 5) (p : Bool) : Statement (.vtrn q acq rel qo qa p) := fun _ => ⟨rfl, rfl⟩
theorem lease (q : BitVec 2) : Statement (.lease q) := fun _ => ⟨rfl, rfl⟩
theorem rels (q : BitVec 2) : Statement (.rels q) := fun _ => ⟨rfl, rfl⟩
theorem mma (q : BitVec 2) (acq : Bool) (rel : Bool) (qa : BitVec 5) (qb : BitVec 5) (bank : BitVec 4) : Statement (.mma q acq rel qa qb bank) := fun _ => ⟨rfl, rfl⟩
theorem mmab (q : BitVec 2) (acq : Bool) (rel : Bool) (qa : BitVec 5) (qb : BitVec 5) (bank : BitVec 4) (loadb : Bool) : Statement (.mmab q acq rel qa qb bank loadb) := fun _ => ⟨rfl, rfl⟩
theorem mz (q : BitVec 2) (acq : Bool) (rel : Bool) (bank : BitVec 4) : Statement (.mz q acq rel bank) := fun _ => ⟨rfl, rfl⟩
theorem dotk (q : BitVec 2) (acq : Bool) (rel : Bool) (qq : BitVec 5) (qk : BitVec 5) (qo : BitVec 5) : Statement (.dotk q acq rel qq qk qo) := fun _ => ⟨rfl, rfl⟩
theorem dotv (q : BitVec 2) (acq : Bool) (rel : Bool) (qq : BitVec 5) (qk : BitVec 5) (qo : BitVec 5) : Statement (.dotv q acq rel qq qk qo) := fun _ => ⟨rfl, rfl⟩
theorem dots (q : BitVec 2) (acq : Bool) (rel : Bool) (qq : BitVec 5) (qk : BitVec 5) (qo : BitVec 5) : Statement (.dots q acq rel qq qk qo) := fun _ => ⟨rfl, rfl⟩
theorem dotx (q : BitVec 2) (acq : Bool) (rel : Bool) (qq : BitVec 5) (qk : BitVec 5) (qo : BitVec 5) : Statement (.dotx q acq rel qq qk qo) := fun _ => ⟨rfl, rfl⟩
theorem azero (q : BitVec 2) (acq : Bool) (rel : Bool) (bank : BitVec 4) (xp : BitVec 7) : Statement (.azero q acq rel bank xp) := fun _ => ⟨rfl, rfl⟩
theorem ard (q : BitVec 2) (acq : Bool) (rel : Bool) (bank : BitVec 4) (qn : BitVec 5) (xp : BitVec 7) (sr : Bool) : Statement (.ard q acq rel bank qn xp sr) := fun _ => ⟨rfl, rfl⟩
theorem awr (q : BitVec 2) (acq : Bool) (rel : Bool) (bank : BitVec 4) (qn : BitVec 5) (xp : BitVec 7) : Statement (.awr q acq rel bank qn xp) := fun _ => ⟨rfl, rfl⟩
theorem aadd (q : BitVec 2) (acq : Bool) (rel : Bool) (bank : BitVec 4) (qn : BitVec 5) (xp : BitVec 7) : Statement (.aadd q acq rel bank qn xp) := fun _ => ⟨rfl, rfl⟩
theorem amaxr (q : BitVec 2) (acq : Bool) (rel : Bool) (bank : BitVec 4) (qn : BitVec 5) (xp : BitVec 7) : Statement (.amaxr q acq rel bank qn xp) := fun _ => ⟨rfl, rfl⟩
theorem ascl (q : BitVec 2) (acq : Bool) (rel : Bool) (bank : BitVec 4) (qn : BitVec 5) (xp : BitVec 7) : Statement (.ascl q acq rel bank qn xp) := fun _ => ⟨rfl, rfl⟩
theorem headerOnlyBundle (gap : BitVec 4) : Statement (.headerOnlyBundle gap) := fun h => by cases h
theorem resultLand (tile : Nat) : Statement (.resultLand tile) := fun h => by cases h
theorem interlockedResultLand (tile : Nat) : Statement (.interlockedResultLand tile) := fun h => by cases h
theorem waitingComplete (tile : Nat) (g : Nat) : Statement (.waitingComplete tile g) := fun h => by cases h
theorem flagWake (tile : Nat) (off : Nat) : Statement (.flagWake tile off) := fun h => by cases h
theorem joinComplete (tile : Nat) (g : Nat) : Statement (.joinComplete tile g) := fun h => by cases h
theorem leasePeriodEnd (cl : Nat) : Statement (.leasePeriodEnd cl) := fun h => by cases h
theorem engineStart (tile : Nat) (e : Eng) : Statement (.engineStart tile e) := fun h => by cases h
theorem engineComplete (tile : Nat) (e : Eng) : Statement (.engineComplete tile e) := fun h => by cases h
theorem dwaitSatisfied (tile : Nat) (e : Eng) : Statement (.dwaitSatisfied tile e) := fun h => by cases h
theorem copyStart (tile : Nat) : Statement (.copyStart tile) := fun h => by cases h
theorem copyComplete (tile : Nat) (k : Nat) : Statement (.copyComplete tile k) := fun h => by cases h
theorem streamFill (tile : Nat) (n : BitVec 5) : Statement (.streamFill tile n) := fun h => by cases h
theorem streamDrain (tile : Nat) (n : BitVec 5) : Statement (.streamDrain tile n) := fun h => by cases h
theorem opsWriteLand (tile : Nat) : Statement (.opsWriteLand tile) := fun h => by cases h
theorem tileStart (tile : Nat) : Statement (.tileStart tile) := fun h => by cases h
theorem tileEnd (tile : Nat) : Statement (.tileEnd tile) := fun h => by cases h
theorem breakHit (tile : Nat) (g : Nat) : Statement (.breakHit tile g) := fun h => by cases h
theorem handlerEntry (tile : Nat) : Statement (.handlerEntry tile) := fun h => by cases h
theorem latchDelivery (tile : Nat) : Statement (.latchDelivery tile) := fun h => by cases h
theorem firmwareTrap (tile : Nat) : Statement (.firmwareTrap tile) := fun h => by cases h
theorem kernelFatal (tile : Nat) : Statement (.kernelFatal tile) := fun h => by cases h
theorem watchdog (tile : Nat) : Statement (.watchdog tile) := fun h => by cases h
theorem preemptSignal (tile : Nat) : Statement (.preemptSignal tile) := fun h => by cases h
theorem prebndExpiry (tile : Nat) : Statement (.prebndExpiry tile) := fun h => by cases h
theorem gustWrite (slot : Nat) (word : BitVec 64) : Statement (.gustWrite slot word) := fun h => by cases h
theorem l1LineExpiry (tile : Nat) : Statement (.l1LineExpiry tile) := fun h => by cases h
theorem retentionEntryComplete (tile : Nat) (bank : Nat) : Statement (.retentionEntryComplete tile bank) := fun h => by cases h
theorem retentionExitComplete (tile : Nat) (bank : Nat) : Statement (.retentionExitComplete tile bank) := fun h => by cases h
theorem patrolScrub (granule : Nat) (err : ScrubErr) : Statement (.patrolScrub granule err) := fun h => by cases h
theorem tnop (ph : TPhase) (t : Tli) : Statement (.tnop ph t) := fun h => by cases h
theorem thalt (ph : TPhase) (t : Tli) : Statement (.thalt ph t) := fun h => by cases h
theorem ttrap (ph : TPhase) (t : Tli) : Statement (.ttrap ph t) := fun h => by cases h
theorem tbr (ph : TPhase) (t : Tli) : Statement (.tbr ph t) := fun h => by cases h
theorem tbrc (ph : TPhase) (t : Tli) : Statement (.tbrc ph t) := fun h => by cases h
theorem tcall (ph : TPhase) (t : Tli) : Statement (.tcall ph t) := fun h => by cases h
theorem tret (ph : TPhase) (t : Tli) : Statement (.tret ph t) := fun h => by cases h
theorem tsety (ph : TPhase) (t : Tli) : Statement (.tsety ph t) := fun h => by cases h
theorem taddy (ph : TPhase) (t : Tli) : Statement (.taddy ph t) := fun h => by cases h
theorem tsuby (ph : TPhase) (t : Tli) : Statement (.tsuby ph t) := fun h => by cases h
theorem tcmpy (ph : TPhase) (t : Tli) : Statement (.tcmpy ph t) := fun h => by cases h
theorem tldy (ph : TPhase) (t : Tli) : Statement (.tldy ph t) := fun h => by cases h
theorem tsty (ph : TPhase) (t : Tli) : Statement (.tsty ph t) := fun h => by cases h
theorem talloc (ph : TPhase) (t : Tli) : Statement (.talloc ph t) := fun h => by cases h
theorem tfree (ph : TPhase) (t : Tli) : Statement (.tfree ph t) := fun h => by cases h
theorem tlaunch (ph : TPhase) (t : Tli) : Statement (.tlaunch ph t) := fun h => by cases h
theorem tcopy (ph : TPhase) (t : Tli) : Statement (.tcopy ph t) := fun h => by cases h
theorem tfill (ph : TPhase) (t : Tli) : Statement (.tfill ph t) := fun h => by cases h
theorem tfence (ph : TPhase) (t : Tli) : Statement (.tfence ph t) := fun h => by cases h
theorem tsync (ph : TPhase) (t : Tli) : Statement (.tsync ph t) := fun h => by cases h
theorem tprobe (ph : TPhase) (t : Tli) : Statement (.tprobe ph t) := fun h => by cases h
theorem tmigr (ph : TPhase) (t : Tli) : Statement (.tmigr ph t) := fun h => by cases h
theorem tacqr (ph : TPhase) (t : Tli) : Statement (.tacqr ph t) := fun h => by cases h
theorem trelr (ph : TPhase) (t : Tli) : Statement (.trelr ph t) := fun h => by cases h
theorem twaitq (ph : TPhase) (t : Tli) : Statement (.twaitq ph t) := fun h => by cases h
theorem tsigq (ph : TPhase) (t : Tli) : Statement (.tsigq ph t) := fun h => by cases h
theorem trnginit (ph : TPhase) (t : Tli) : Statement (.trnginit ph t) := fun h => by cases h
theorem tpark (ph : TPhase) (t : Tli) : Statement (.tpark ph t) := fun h => by cases h
theorem tseqnext (ph : TPhase) (t : Tli) : Statement (.tseqnext ph t) := fun h => by cases h
theorem tseqdone (ph : TPhase) (t : Tli) : Statement (.tseqdone ph t) := fun h => by cases h
theorem tkvappend (ph : TPhase) (t : Tli) : Statement (.tkvappend ph t) := fun h => by cases h
theorem tkvpin (ph : TPhase) (t : Tli) : Statement (.tkvpin ph t) := fun h => by cases h
theorem tkvunpin (ph : TPhase) (t : Tli) : Statement (.tkvunpin ph t) := fun h => by cases h
theorem tpfxlook (ph : TPhase) (t : Tli) : Statement (.tpfxlook ph t) := fun h => by cases h
theorem tpfxins (ph : TPhase) (t : Tli) : Statement (.tpfxins ph t) := fun h => by cases h
theorem registerWrite (mb : Nat) (off : Nat) (val : BitVec 64) : Statement (.registerWrite mb off val) := fun h => by cases h
theorem notify (qid : BitVec 32) (val : BitVec 64) : Statement (.notify qid val) := fun h => by cases h
theorem gustSlotWrite (slot : Nat) (word : BitVec 64) : Statement (.gustSlotWrite slot word) := fun h => by cases h
theorem hostCxlMem (ha : Nat) (wr : Option (List Byte)) : Statement (.hostCxlMem ha wr) := fun h => by cases h
theorem queueUnmap (qid : BitVec 32) : Statement (.queueUnmap qid) := fun h => by cases h
theorem streamBytesArrive (port : Nat) (strm : Nat) (bytes : List Byte) : Statement (.streamBytesArrive port strm bytes) := fun h => by cases h
theorem sendComplete (tile : Nat) (k : Nat) : Statement (.sendComplete tile k) := fun h => by cases h
theorem gustMessage (port : Nat) (slot : Nat) (rlen : Nat) (off : Nat) (bytes : List Byte) (last : Bool) : Statement (.gustMessage port slot rlen off bytes last) := fun h => by cases h
theorem linkFailure (port : Nat) : Statement (.linkFailure port) := fun h => by cases h
theorem debugUnlock (token : List Byte) : Statement (.debugUnlock token) := fun h => by cases h
theorem jtagOps (oa : Nat) (wr : Option Byte) : Statement (.jtagOps oa wr) := fun h => by cases h
theorem functionLevelReset (port : Nat) : Statement (.functionLevelReset port) := fun h => by cases h
theorem peerLinkOpen (port : Nat) (chip : BitVec 64) (pctx : Nat) : Statement (.peerLinkOpen port chip pctx) := fun h => by cases h
theorem receiveQueueCredit (port : Nat) (strm : Nat) (n : Nat) : Statement (.receiveQueueCredit port strm n) := fun h => by cases h
theorem notAnInstruction (c : Cause) : Statement (.notAnInstruction c) := fun h => by cases h
theorem outSwap : Statement (.outSwap) := fun h => by cases h
theorem shadowDrain : Statement (.shadowDrain) := fun h => by cases h
theorem partitionResume : Statement (.partitionResume) := fun h => by cases h
theorem clusterReclaim : Statement (.clusterReclaim) := fun h => by cases h
theorem tlbWalk : Statement (.tlbWalk) := fun h => by cases h
theorem invalidation : Statement (.invalidation) := fun h => by cases h
theorem collapse : Statement (.collapse) := fun h => by cases h
theorem collapseAck : Statement (.collapseAck) := fun h => by cases h
theorem epochExpiry : Statement (.epochExpiry) := fun h => by cases h
theorem swapRequest : Statement (.swapRequest) := fun h => by cases h
theorem swap : Statement (.swap) := fun h => by cases h
theorem swapComplete : Statement (.swapComplete) := fun h => by cases h
theorem fullerCopyStart : Statement (.fullerCopyStart) := fun h => by cases h
theorem demotion : Statement (.demotion) := fun h => by cases h
theorem demotionComplete : Statement (.demotionComplete) := fun h => by cases h
theorem demotionCancel : Statement (.demotionCancel) := fun h => by cases h
theorem demoting2Complete : Statement (.demoting2Complete) := fun h => by cases h
theorem farWriteError : Statement (.farWriteError) := fun h => by cases h
theorem promotionComplete : Statement (.promotionComplete) := fun h => by cases h
theorem promotionFail : Statement (.promotionFail) := fun h => by cases h
theorem agingD1 : Statement (.agingD1) := fun h => by cases h
theorem agingD2 : Statement (.agingD2) := fun h => by cases h
theorem agingRecheck : Statement (.agingRecheck) := fun h => by cases h
theorem counterSnapshot : Statement (.counterSnapshot) := fun h => by cases h
theorem operandProbe : Statement (.operandProbe) := fun h => by cases h
theorem launchRecordRead : Statement (.launchRecordRead) := fun h => by cases h
theorem gangPlacement : Statement (.gangPlacement) := fun h => by cases h
theorem placeWaitExpiry : Statement (.placeWaitExpiry) := fun h => by cases h
theorem taskIssue : Statement (.taskIssue) := fun h => by cases h
theorem taskDone : Statement (.taskDone) := fun h => by cases h
theorem taskRetire : Statement (.taskRetire) := fun h => by cases h
theorem takeFault : Statement (.takeFault) := fun h => by cases h
theorem fatalContextError : Statement (.fatalContextError) := fun h => by cases h
theorem arbitrationRound : Statement (.arbitrationRound) := fun h => by cases h
theorem contextLoad : Statement (.contextLoad) := fun h => by cases h
theorem ctxCreate : Statement (.ctxCreate) := fun h => by cases h
theorem ctxDestroy : Statement (.ctxDestroy) := fun h => by cases h
theorem ctxStart : Statement (.ctxStart) := fun h => by cases h
theorem ctxSuspend : Statement (.ctxSuspend) := fun h => by cases h
theorem ctxResume : Statement (.ctxResume) := fun h => by cases h
theorem ctxPreempt : Statement (.ctxPreempt) := fun h => by cases h
theorem ctxQuery : Statement (.ctxQuery) := fun h => by cases h
theorem mcRead : Statement (.mcRead) := fun h => by cases h
theorem mapPages : Statement (.mapPages) := fun h => by cases h
theorem unmapPages : Statement (.unmapPages) := fun h => by cases h
theorem replicate : Statement (.replicate) := fun h => by cases h
theorem shrRegister : Statement (.shrRegister) := fun h => by cases h
theorem shrUnregister : Statement (.shrUnregister) := fun h => by cases h
theorem shrAcquire : Statement (.shrAcquire) := fun h => by cases h
theorem shrRelease : Statement (.shrRelease) := fun h => by cases h
theorem srvConfig : Statement (.srvConfig) := fun h => by cases h
theorem seqConfig : Statement (.seqConfig) := fun h => by cases h
theorem mbxRegister : Statement (.mbxRegister) := fun h => by cases h
theorem gust : Statement (.gust) := fun h => by cases h
theorem wakeRetry : Statement (.wakeRetry) := fun h => by cases h
theorem pfxPin : Statement (.pfxPin) := fun h => by cases h
theorem queueReg : Statement (.queueReg) := fun h => by cases h
theorem queueUnreg : Statement (.queueUnreg) := fun h => by cases h
theorem cntMap : Statement (.cntMap) := fun h => by cases h
theorem cntAttrib : Statement (.cntAttrib) := fun h => by cases h
theorem cxmConfig : Statement (.cxmConfig) := fun h => by cases h
theorem linkOpen : Statement (.linkOpen) := fun h => by cases h
theorem linkClose : Statement (.linkClose) := fun h => by cases h
theorem dbgBreak : Statement (.dbgBreak) := fun h => by cases h
theorem dbgCont : Statement (.dbgCont) := fun h => by cases h
theorem dbgKill : Statement (.dbgKill) := fun h => by cases h
theorem imgLoad : Statement (.imgLoad) := fun h => by cases h
theorem attest : Statement (.attest) := fun h => by cases h
theorem fwUpdate : Statement (.fwUpdate) := fun h => by cases h
theorem query : Statement (.query) := fun h => by cases h
theorem badcmd : Statement (.badcmd) := fun h => by cases h
theorem commandCompletion : Statement (.commandCompletion) := fun h => by cases h
theorem clockStepDown : Statement (.clockStepDown) := fun h => by cases h
theorem clockStepUp : Statement (.clockStepUp) := fun h => by cases h
theorem thermalTrip : Statement (.thermalTrip) := fun h => by cases h
theorem coldReset : Statement (.coldReset) := fun h => by cases h
theorem unassignedTli : Statement (.unassignedTli) := fun h => by cases h

end Sys2Proof.Laws.Encoding
end

