-- ==== Sys2Proof/Tests/Slice0.lean ====
section
/-! SUPPORT. Tests: ill-formed terms that the checks refuse, words written out from the encodings of spec/, single steps on
small states, and for each obligation with hypotheses a state and operands that meet them. -/

namespace Sys2Proof.Tests

set_option Elab.async false
open Sys2Proof Sys2Proof.Machine Sys2Proof.Claims

/-! ## Well-formedness: one ill-formed term for each check (R7, R223, R267) -/

theorem test_illformed_loop : ¬(Instr.loop 0 6 16 3 5 9).WellFormed ∧ ¬(Instr.loop 0 0 16 0 5 9).WellFormed ∧
    (Instr.loop 0 5 16 0 5 0).WellFormed := by decide

theorem test_illformed_brkl : ¬(Instr.brkl 0 6 true 0 false).WellFormed ∧ ¬(Instr.brkl 0 7 false 1 false).WellFormed ∧
    ¬(Instr.brkl 0 7 false 0 true).WellFormed ∧ (Instr.brkl 0 7 true 1 true).WellFormed := by decide

theorem test_illformed_csr : ¬(Instr.csrr 0 1 5).WellFormed ∧ ¬(Instr.csrw 0 1 5).WellFormed ∧ ¬(Instr.csrw 0 1 0x28).WellFormed ∧
    (Instr.csrr 0 1 0x28).WellFormed ∧ (Instr.csrw 0 1 0x106).WellFormed := by decide

theorem test_illformed_identity : ¬(Instr.getid 0 1 14).WellFormed ∧ ¬(Instr.getid 0 1 23).WellFormed ∧ (Instr.getid 0 1 22).WellFormed := by decide

theorem test_illformed_rget : ¬(Instr.rget 0 3 1).WellFormed ∧ ¬(Instr.rget 0 126 1).WellFormed ∧ (Instr.rget 0 124 1).WellFormed := by decide

theorem test_illformed_float : ¬(Instr.fcvt 0 1 2 15 0 false).WellFormed ∧ ¬(Instr.fcvt 0 1 2 0 4 false).WellFormed ∧
    (Instr.fcvt 0 1 2 10 4 false).WellFormed ∧ ¬(Instr.fsqrt 0 1 2 4 false).WellFormed := by decide

theorem test_illformed_memory : ¬(Instr.ldc 0 1 2 3 true false 0).WellFormed ∧ ¬(Instr.ldcLong 0 1 2 3 true false 0 0).WellFormed ∧
    ¬(Instr.amo 0 1 2 9 false false false 0).WellFormed ∧ (Instr.amo 0 1 2 8 false false false 0).WellFormed := by decide

theorem test_illformed_copies : ¬(Instr.cpyin 0 false false false 0 false 1).WellFormed ∧ ¬(Instr.cpyout 0 false false false 0 false 1).WellFormed ∧
    ¬(Instr.mcast 0 false false false 0 false 1 1).WellFormed ∧ ¬(Instr.mcast 0 false false false 0 true 1 0).WellFormed ∧
    ¬(Instr.sadv 0 false false 0 0).WellFormed := by decide

theorem test_illformed_waits : ¬(Instr.dwaitDist 0 5 1).WellFormed ∧ ¬(Instr.dwaitReg 0 5 1).WellFormed := by decide

theorem test_illformed_engines : ¬(Instr.vred 0 false false 0 0 false 5).WellFormed ∧ ¬(Instr.vscat 0 false false 0 0 false 4).WellFormed ∧
    ¬(Instr.vfill 0 false false 0 false 2).WellFormed ∧ ¬(Instr.mmab 0 false false 0 1 0 false).WellFormed := by decide

theorem test_illformed_tile_events : ¬(Instr.srstateWrite 512).WellFormed ∧ ¬(Instr.waitingComplete 0 8).WellFormed ∧
    ¬(Instr.flagWake 0 4).WellFormed ∧ ¬(Instr.flagWake 0 0x100000).WellFormed ∧ ¬(Instr.engineStart 512 .D).WellFormed ∧
    ¬(Instr.copyComplete 0 8).WellFormed ∧ ¬(Instr.streamFill 512 0).WellFormed ∧ ¬(Instr.retentionExitComplete 0 32).WellFormed ∧
    ¬(Instr.leasePeriodEnd 128).WellFormed := by decide

theorem test_illformed_outside_events : ¬(Instr.gustWrite 65536 1).WellFormed ∧ ¬(Instr.registerWrite 32 0x80 1).WellFormed ∧
    ¬(Instr.registerWrite 0 0x84 1).WellFormed ∧ ¬(Instr.streamBytesArrive 18 0 []).WellFormed ∧
    ¬(Instr.gustMessage 0 0 3841 0 [] true).WellFormed ∧ ¬(Instr.linkFailure 18).WellFormed ∧ ¬(Instr.functionLevelReset 2).WellFormed ∧
    ¬(Instr.hostCxlMem (2 ^ 64) none).WellFormed ∧ ¬(Instr.jtagOps (2 ^ 40) none).WellFormed := by decide

/-- R223, R230, R232: a TSETY with an operand, a TCMPY with a predicate above 5, a TNOP with a scalar field. -/
theorem test_illformed_task_instructions : ¬(Instr.tsety .decode ⟨3, 0, 0, 5, 0, 0, [0]⟩).WellFormed ∧
    ¬(Instr.tcmpy .decode ⟨3, 0, 0, 5, 0, 12, []⟩).WellFormed ∧ ¬(Instr.tnop .decode ⟨1, 0, 0, 0, 0, 0, []⟩).WellFormed ∧
    (Instr.tsety .decode ⟨3, 0, 0, 5, 0, 0, []⟩).WellFormed := by decide

/-! ## Words written out bit by bit from the encodings of spec/ (R254, R267 to R276) -/

theorem test_words_control :
    decodeSyl ⟨0b0_00_0001000_00000110_00000101_000000, none⟩ = .ok (.join 0 6 5) ∧
    decodeSyl ⟨0b0_00_0001010000000_0001001000110100, none⟩ = .ok (.trap 0 0x1234) ∧
    decodeSyl ⟨0b0_00_0000110_111_1_00011_1_000000000000, none⟩ = .ok (.brkl 0 7 true 3 true) ∧
    decodeSyl ⟨0b0_00_00011101_0001001_000100000110_00, none⟩ = .ok (.csrw 0 9 0x106) ∧
    decodeSyl ⟨0b0_00_00011111_0000100_0001001_0000000, none⟩ = .ok (.rget 0 4 9) :=
  ⟨rfl, rfl, rfl, rfl, rfl⟩

theorem test_words_integer :
    decodeSyl ⟨0b0_00_0100010_0000001_0000010_00011_1_00, none⟩ = .ok (.sel 0 1 2 3 true) ∧
    decodeSyl ⟨0b0_01_0100101_0000001_0000010_1111111_0, none⟩ = .ok (.ext 1 1 2 127) ∧
    decodeSyl ⟨0b0_00_0101000_10_1111_1100100_000000000, none⟩ = .ok (.stg 0 2 15 100) :=
  ⟨rfl, rfl, rfl⟩

theorem test_words_float :
    decodeSyl ⟨0b0_00_0110111_0000001_0000010_1010_100_1, none⟩ = .ok (.fcvt 0 1 2 10 4 true) ∧
    decodeSyl ⟨0b0_00_0111110_0000001_0000010_0000_011_0, none⟩ = .ok (.fsqrt 0 1 2 3 false) :=
  ⟨rfl, rfl⟩

theorem test_words_slot_l :
    decodeSyl ⟨0b0_00_1000000_0000011_0000100_1_0_111111, none⟩ = .ok (.ldB 0 3 4 true false 0x3F) ∧
    decodeSyl ⟨0b0_00_1000111_0000011_0000100_0_1_000001, none⟩ = .ok (.stD 0 3 4 true 1) ∧
    decodeSyl ⟨0b0_00_1001000_0000011_0000100_10_1_1_11_00, none⟩ = .ok (.ldc 0 3 4 2 true true 3) ∧
    decodeSyl ⟨0b0_00_1001010_000011_0000100_0111_1_0_1_10, none⟩ = .ok (.amo 0 3 4 7 true false true 2) ∧
    decodeSyl ⟨0b0_00_1001100_0000011_0000100_00000000, none⟩ = .ok (.waitf 0 3 4) ∧
    decodeSyl ⟨0b0_00_10011100_0000011_0000100_1_10_0000, none⟩ = .ok (.probe 0 3 4 true 2) ∧
    decodeSyl ⟨0b0_00_1001111_10_00000000000000000000, none⟩ = .ok (.fence 0 2) :=
  ⟨rfl, rfl, rfl, rfl, rfl, rfl, rfl⟩

theorem test_words_slot_d :
    decodeSyl ⟨0b0_00_1010100_0_0_1_111111_1_01_1010_000000, none⟩ = .ok (.mcast 0 false false true 63 true 1 0b1010) ∧
    decodeSyl ⟨0b0_00_1010101_0_1_11111_000000000000000, none⟩ = .ok (.bind 0 false true 31) ∧
    decodeSyl ⟨0b0_00_1010110_0_0_00010_111111111111111, none⟩ = .ok (.sadv 0 false false 2 0x7FFF) ∧
    decodeSyl ⟨0b0_00_1011011_0_0_0000101_0000110_000000, none⟩ = .ok (.qpush 0 false 5 6) ∧
    decodeSyl ⟨0b0_00_101110110_100_00_000000000000011, none⟩ = .ok (.dwaitDist 0 4 3) ∧
    decodeSyl ⟨0b0_00_101110111_001_1111111_0000000000, none⟩ = .ok (.dwaitReg 0 1 127) ∧
    decodeSyl ⟨0b0_00_1011110_0_0_1_000001_0000000000000, none⟩ = .ok (.send 0 false true 1) :=
  ⟨rfl, rfl, rfl, rfl, rfl, rfl, rfl⟩

theorem test_words_engines :
    decodeSyl ⟨0b0_00_1100000_1_0_00001_00010_00011_0_1_000, none⟩ = .ok (.chain 0 true false 1 2 3 false true) ∧
    decodeSyl ⟨0b0_00_1100001_0_0_00001_00010_00000_0_0_100, none⟩ = .ok (.vred 0 false false 1 2 false 4) ∧
    decodeSyl ⟨0b0_00_1101010_0_0_00001_00010_1111_1_00000, none⟩ = .ok (.mmab 0 false false 1 2 15 true) ∧
    decodeSyl ⟨0b0_00_1101111_0_0_00001_00010_00011_00000, none⟩ = .ok (.dotx 0 false false 1 2 3) ∧
    decodeSyl ⟨0b0_00_1110001_0_0_0_1000_00010_1000010_1_00, none⟩ = .ok (.ard 0 false false 8 2 66 true) ∧
    decodeSyl ⟨0b0_00_11010000000000000000000000000, none⟩ = .ok (.lease 0) :=
  ⟨rfl, rfl, rfl, rfl, rfl, rfl⟩

/-! ## States for the tests -/

/-- Tile 0 of context 1 about to issue, in space 1, with a page at 0x1:0x11000 (PA 0x1000) that may be read and written, one at 0x12000 in CXM,
and a pinned one at 0x13000 (PA 0x3000) that external agents may write. -/
def w0 : State :=
  let s : State := { State.reset.placeSyl ⟨0x8000_0000, none⟩ with cxmLen := 0x10000 }
  let leaf (s : State) (k e : Nat) : State := s.write .phys (nodeBase + 5 * 65536 + 16 * k) (leBytes 16 e) 0xFFFF
  let rwx := 7 * 2 ^ 52
  let s := leaf (leaf (leaf s 17 (3 + 2 ^ 12 + rwx)) 18 (3 + 4 + 2 ^ 12 + rwx)) 19 (3 + 2 ^ 11 + 3 * 2 ^ 12 + rwx + 2 ^ 57)
  s.setTile 0 { s.tile 0 with asp := [(0, 1)], copyId := 1 }

/-- w0 with another tile 0. -/
def wt (f : Tile → Tile) : State := w0.setTile 0 (f (w0.tile 0))

/-- w0 with another group in tile 0. -/
def wg (f : Group → Group) : State := wt fun x => { x with groups := x.groups.map f }

/-- w0 with registers of tile 0. -/
def wx (l : SMap Word) : State := wt fun x => { x with xs := l }

/-- A result in flight for x1 of group 0, its bound over. -/
def p0 : Pend := ⟨.x 1, 7, 0, 0, 0, 0, false, false, false, 0, 0, false, none⟩

/-- w0 with results in flight. -/
def wp (l : List Pend) : State := wt fun x => { x with pend := l }

/-- w0 with other fields of context 1. -/
def wc (f : Context → Context) : State := w0.setCtx 1 (f (w0.ctx 1))

/-- Whether an access succeeds, and whether a program of an engine ends without a cause. -/
def good (r : State × Except ε α) : Bool := match r.2 with
  | .ok _ => true
  | .error _ => false

theorem of_good {r : State × Except ε α} (h : good r = true) : ∃ u x, r = (u, .ok x) := by
  obtain ⟨u, e⟩ := r
  cases e with
  | ok x => exact ⟨u, x, rfl⟩
  | error _ => simp [good] at h

theorem of_bad {r : State × Except ε α} (h : good r = false) : ∃ u x, r = (u, .error x) := by
  obtain ⟨u, e⟩ := r
  cases e with
  | error x => exact ⟨u, x, rfl⟩
  | ok _ => simp [good] at h

/-! ## Witnesses: each obligation's hypotheses are met together -/

/-- The group of w0 may write each kind of destination; one with a partition, the first and last of it and no other. -/
theorem test_acts : Acts w0 0 [.x 127] ∧ Acts w0 0 [.c 31] ∧ Acts w0 0 [.x 124, .x 125] ∧ Acts w0 0 [.stg 63] ∧ Acts w0 0 [.csr 0x106] ∧
    Acts w0 0 [.x 1, .c 0] :=
  ⟨⟨rfl, by decide⟩, ⟨rfl, by decide⟩, ⟨rfl, by decide⟩, ⟨rfl, by decide⟩, ⟨rfl, by decide⟩, ⟨rfl, by decide⟩⟩

def wPart : State := wt fun x => { x with lockstep := false, groups := x.groups.map fun g => { g with part := some ⟨10, 20, 3, 5⟩ } }

theorem test_acts_partition : Acts wPart 0 [.x 10] ∧ Acts wPart 0 [.x 20] ∧ Acts wPart 0 [.c 3] ∧ Acts wPart 0 [.c 5] ∧
    wPart.here.mayWrite 0 (.x 9) = false ∧ wPart.here.mayWrite 0 (.x 21) = false ∧ wPart.here.mayWrite 0 (.c 6) = false :=
  ⟨⟨rfl, by decide⟩, ⟨rfl, by decide⟩, ⟨rfl, by decide⟩, ⟨rfl, by decide⟩, rfl, rfl, rfl⟩

/-- ResultLandWritesDestination: an `x`, a condition bit, a staging register; a latch. -/
theorem test_wit_result_lands : ((wp [p0]).tile 0).dueTimed = some p0 ∧
    ((wp [{ p0 with dest := .c 31 }]).tile 0).dueTimed = some { p0 with dest := .c 31 } ∧
    ((wp [{ p0 with dest := .stg 63, latch := true }]).tile 0).dueTimed = some { p0 with dest := .stg 63, latch := true } := by decide

theorem test_wit_source_reads : w0.here.undefinedRead 0 (.x 1) = false ∧ (wt fun x => { x with pend := [p0], clk := 1 }).here.undefinedRead 0 (.x 1) = true := by decide

theorem test_wit_hashb : ((w0.readX 1).toNat % 2 ^ 20 % 64 = 0 ∧ (w0.touchBanks 0 64).poisoned (.spad 0) 0 64 = false) ∧
    ((wx [(1, 0xFFFC0)]).readX 1).toNat % 2 ^ 20 = 0xFFFC0 ∧ ((wx [(1, 1)]).readX 1).toNat % 2 ^ 20 % 64 ≠ 0 ∧
    ((wt fun x => { x with spadBad := [7] }).touchBanks 0 64).poisoned (.spad 0) 0 64 = true := by decide

theorem test_wit_result_frame : resultOnly (.add 0 1 2 3) = some 0 ∧ Acts w0 0 (dests (.add 0 1 2 3)) ∧ (∃ t, Gives (.add 0 1 2 3) w0 t) ∧
    Acts w0 0 (dests (.fcvt 0 1 2 10 4 true)) ∧ ∃ t, Gives (.fcvt 0 1 2 10 4 true) w0 t :=
  ⟨rfl, ⟨rfl, by decide⟩, ⟨_, rfl⟩, ⟨rfl, by decide⟩, ⟨_, rfl⟩⟩

theorem test_wit_partition_fault : wPart.qualified 0 = true ∧ dests (.add 0 9 2 3) = [.x 9] ∧ wPart.here.mayWrite 0 (.x 9) = false ∧
    wPart.killed 0 = false := by decide

/-- PartitionFaultComesFirst: a load outside the partition; FLAGTEST whose condition bit alone is; DSIG with room. -/
theorem test_wit_partition_first : checksFirst (.ldB 0 9 4 false false 0) = some 0 ∧ checksFirst (.flagtest 0 10 4 6 false) = some 0 ∧
    ((dests (.ldB 0 9 4 false false 0)).find? fun d => !wPart.here.mayWrite wPart.cur.group d) = some (.x 9) ∧
    ((dests (.flagtest 0 10 4 6 false)).find? fun d => !wPart.here.mayWrite wPart.cur.group d) = some (.c 6) ∧
    (wPart.here.queue (slotEng wPart.cur.slot)).q.length < 16 := by decide

/-- A qualifier of index 0 with an index that is not 0: the state of a loop whose second trip runs. -/
def wLoop : State := ({ wt fun x => { x with seqs := x.seqs.map fun r => { r with loops := [⟨1, 1, 2, 1, 0, 0x10000, false⟩] } } with
  cur := { Cur.reset with addr := placeVA, len := 8 } } : State)

theorem test_wit_qualifier : encodeSyl (.ext 1 1 2 3) = some ⟨0x2940_8206, none⟩ ∧
    wLoop.qualified (fld (0x2940_8206 : BitVec 32).toNat 29 2) = false := by decide

theorem test_wit_taking_a_cause : (wp [p0]).killed 0 = false ∧ ((wp [p0]).tile 0).raised = none ∧ ((wp [p0]).tile 0).stat = .running ∧
    (∀ p ∈ ((wp [p0]).tile 0).latches.map Latch.p ++ ((wp [p0]).tile 0).pend, (p.ilk && p.poison) = false) := by decide

theorem test_wit_branch : w0.qualified 0 = true ∧ (w0.readX 127).toNat % 4 = 0 ∧ ((wx [(127, 2)]).readX 127).toNat % 4 ≠ 0 ∧
    w0.here.mayWrite 0 (.x 127) = true ∧ (xor (w0.readC 31) true = true ∧ xor (w0.readC 31) false = false) := by decide

theorem test_wit_taken_branch : let s := wg fun g => { g with goto := some 0x20000 }
    ((s.tile 0).groups.find? fun h => h.num == 0) = some { Group.lockstep with goto := some 0x20000 } ∧ (s.tile 0).seqs.length = 8 := by decide

theorem test_wit_loop_paths : let off := 0
    let s := (wLoop.setTile 0 { wLoop.tile 0 with seqs := List.replicate 8 ⟨placeVA, false, []⟩ })
    s.qualified 0 = true ∧ (s.cur.len ≤ 2 * 4 ∧ (s.here.groupSeq s.grp).loops.length = 0 ∧ off % 64 = 0 ∧
      ((s.touchBanks off 64).holdFor 6).poisoned (.spad 0) off 64 = false) ∧
    good (((s.touchBanks off 64).holdFor 6).codeRead 0 (placeVA + 8) 4) = true ∧ s.cur.len = 2 * 4 := by decide +kernel

/-- A record whose level 0 has 5 iterations with stride 1: 4 and 6 as MIN select the two paths. -/
def wRecord : State := ((wLoop.setTile 0 { wLoop.tile 0 with seqs := List.replicate 8 ⟨placeVA, false, []⟩, spad := [(0, 5), (4, 1)] }))

theorem test_wit_loop_record : let r := ((wRecord.touchBanks 0 64).holdFor 6).bytes (.spad 0) 0 64
    leNat (r.take 4) = 5 ∧ leNat ((r.drop 4).take 4) = 1 ∧ leNat ((r.drop 48).take 8) < 64 ∧ leNat ((r.drop 56).take 8) = 0 := by decide

theorem test_wit_loop_checks : 1 * 4 < wRecord.cur.len ∧ (wRecord.cur.len ≤ 2 * 4 ∧ (wRecord.here.groupSeq wRecord.grp).loops.length ≠ 1) ∧
    ((wx [(1, 32)]).readX 1).toNat % 2 ^ 20 % 64 ≠ 0 := by decide

/-- A LOOP, a FORK, a HALT beside what of their bundle still waits. -/
theorem test_wit_beside_waits : (wt fun x => { x with mems := [⟨.st 8 8 5, 0, 1, false, 0, 2, 0⟩] }).storeHeld = true ∧ wLoop.storeHeld = false ∧
    (wg fun g => { g with waits := [⟨.waitc 0 true, 0, 0, 0, .waitc 0 0 true⟩] }).grp.waits ≠ [] ∧ w0.grp.waits = [] := by decide

theorem test_wit_break_loop : wLoop.qualified 0 = true ∧ (wLoop.here.groupSeq wLoop.grp).loops.length = 1 ∧
    wLoop.grp.forkDepth = 0 ∧ (wg fun g => { g with forkDepth := 1 }).grp.forkDepth = 1 ∧
    good (wLoop.codeRead 0 0x10000 4) = true := by decide +kernel

/-- A FORK descriptor of two groups at the block after the bundle (PA 0x40): slots 0 to 3 with x10 to x20 and c0 to c15, slots 4 to 7 with
x21 to x31 and c16 to c31, entries 16 and 32 words on. -/
def wFork : State :=
  (wLoop.setTile 0 (w0.tile 0)).write .phys 0x40 (leBytes 8 0x0000_100F_0F00_140A ++ leBytes 8 0x0000_20F0_1F10_1F15) 0xFFFF

theorem test_wit_fork : wFork.here.lockstep = true ∧ wPart.here.lockstep = false ∧
    (match (wFork.codeRead 0 (placeVA / 64 * 64 + 64) 64).2 with
      | .ok b => forkOk (leDwords (b.map Prod.fst)) && (leDwords (b.map Prod.fst)).take 2 == [0x0000_100F_0F00_140A, 0x0000_20F0_1F10_1F15]
      | .error _ => false) = true ∧
    good (w0.codeRead 0 placeVA 64) = true ∧ forkOk [0x0000_1001_0000_0A14, 0, 0, 0, 0, 0, 0, 0] = false := by decide +kernel

/-- Two groups: group 1 at a JOIN of group 0, whose JOIN comes. -/
def wJoin (part : Part) : State :=
  let g : Group := { Group.lockstep with slots := 0x0F, part := some ⟨10, 20, 0, 15⟩ }
  let j (m : BitVec 8) (k : Nat) : WaitRec := ⟨.join m 5, k, 0, 0, .join 0 m 5⟩
  wt fun x => { x with
    lockstep := false
    groups := [{ g with waits := [j 2 0] }, { g with num := 1, slots := 0x30, part := some part, waits := [j 1 4] },
      { g with num := 2, slots := 0xC0, part := some ⟨40, 50, 30, 31⟩ }] }

theorem test_wit_join : let x := (wJoin ⟨21, 30, 16, 20⟩).here
    x.lockstep = false ∧ (2 : BitVec 8) ≠ 0 ∧ (2 : BitVec 8).getLsbD 0 = false ∧
    (∀ k < 8, (2 : BitVec 8).getLsbD k = true → ∃ g ∈ x.groups, g.num = k) ∧
    (∀ h ∈ x.groups, h.num ≠ 0 → joinClash 0 2 5 h = false) ∧ joinClash 0 4 5 (nth Group.lockstep x.groups 1) = true ∧
    x.stat = .running ∧ (wJoin ⟨21, 30, 16, 20⟩).killed 0 = false := by decide

theorem test_wit_join_merges : let x := (wJoin ⟨21, 30, 16, 20⟩).tile 0
    let ms := x.groups.filter fun h => (3 : BitVec 8).getLsbD h.num
    (x.group 0).joinOf = some (2, 5) ∧ x.stat = .running ∧ x.joinReady 3 5 = true ∧
    (ms.find? fun h => h.hasSlot 0 && !h.halted) = some (x.group 0) ∧ unionPart (ms.filterMap (·.part)) = some ⟨10, 30, 0, 20⟩ ∧
    (let y := (wJoin ⟨25, 30, 16, 20⟩).tile 0
     y.joinReady 3 5 = true ∧ unionPart ((y.groups.filter fun h => (3 : BitVec 8).getLsbD h.num).filterMap (·.part)) = none ∧
     ∃ h ∈ y.groups, (3 : BitVec 8).getLsbD h.num = false) := by decide +kernel

/-- HALT: the last group of a tile, and one of several; EXIT in lockstep and forked. -/
theorem test_wit_halt : w0.qualified 0 = true ∧ w0.here.groups.length = 1 ∧ (wJoin ⟨21, 30, 16, 20⟩).qualified 0 = true ∧
    w0.here.lockstep = true ∧ (wJoin ⟨21, 30, 16, 20⟩).here.lockstep = false := by decide

theorem test_wit_condition_bits : Acts w0 0 [.c 0] ∧ (xor (w0.readC 0) true = true ∧ xor (w0.readC 0) false = false) ∧
    (⟨.waitc 0 true, 0, 0, 0, .waitc 0 0 true⟩ : WaitRec).w = .waitc 0 true :=
  ⟨⟨rfl, by decide⟩, by decide, rfl⟩

/-- A tile in its handler, which interrupted a lockstep group; HRET 0 and not. -/
def wHandler (hret : Word) : State := wt fun x =>
  { x with inHandler := true, outer := some ⟨0, x.groups, x.seqs, true, [⟨p0, 3⟩], []⟩, frame := mput [] 0x106 hret }

theorem test_wit_trap : w0.here.outer = none ∧ w0.here.preSig = none ∧ (wt fun x => { x with preSig := some 0 }).here.preSig.isSome = true := by decide

theorem test_wit_return : (wHandler 0).qualified 0 = true ∧ (wHandler 0).here.outer.isSome = true ∧ (wHandler 0).here.lockstep = true ∧
    mget 0 (wHandler 0).here.frame 0x106 = 0 ∧ mget 0 (wHandler 0x12343).here.frame 0x106 ≠ 0 := by decide

theorem test_wit_csr : Acts w0 0 [.csr 0x106] ∧ w0.here.inHandler = false ∧ (wHandler 0).here.inHandler = true ∧ Acts w0 0 [.csr 0x31] :=
  ⟨⟨rfl, by decide⟩, rfl, rfl, ⟨rfl, by decide⟩⟩

def pCsr (n : Nat) (v : Word) : Pend := { p0 with dest := .csr n, val := v }

/-- Bank 31 enters, bank 0 leaves, the others stay. -/
def wRet : State := wt fun x => { x with pend := [pCsr 0x30 0x8000_0000], spret := 1, ret := [(0, .retained)] }

theorem test_wit_special_csrs : ((wp [pCsr 0x31 0]).tile 0).duePend 0x31 = some (pCsr 0x31 0) ∧
    (wRet.tile 0).duePend 0x30 = some (pCsr 0x30 0x8000_0000) ∧ (wRet.tile 0).spret.getLsbD 31 = false ∧
    (pCsr 0x30 0x8000_0000).val.getLsbD 31 = true ∧ mget .active (wRet.tile 0).ret 31 = .active ∧
    (wRet.tile 0).spret.getLsbD 0 = true ∧ (pCsr 0x30 0x8000_0000).val.getLsbD 0 = false ∧ mget .active (wRet.tile 0).ret 0 = .retained ∧
    (wRet.tile 0).spret.getLsbD 15 = (pCsr 0x30 0x8000_0000).val.getLsbD 15 := by decide

/-- A bank still entering whose exit is asked for, and one still leaving whose entry is. -/
def wTurn : State := wt fun x => { x with pend := [pCsr 0x30 1], spret := 0x8000_0001, ret := [(0, .leaving 9), (31, .entering 7)], clk := 5 }

theorem test_wit_retention_turns : (wTurn.tile 0).duePend 0x30 = some (pCsr 0x30 1) ∧ (wTurn.tile 0).spretNow = 0x8000_0000 ∧
    mget .active (wTurn.tile 0).ret 0 = .leaving 9 ∧ mget .active (wTurn.tile 0).ret 31 = .entering 7 := by decide

/-- A CSR's value that a result in flight takes at the end of its cycle. -/
theorem test_wit_csr_read : let y := (wp [{ p0 with csr := some 0x031 }]).here
    { p0 with csr := some 0x031 } ∈ y.pend ∧ p0.grp ≠ 255 := by decide

theorem test_wit_identity : w0.here.lvGroup = none ∧ (wt fun x => { x with lvGroup := some 7 }).here.lvGroup = some 7 ∧
    (wLoop.here.seq 0).loops[0]? = some ⟨1, 1, 2, 1, 0, 0x10000, false⟩ ∧ (wLoop.here.seq 0).loops[5]? = none := by decide

/-- A range unit with 5 items left, one with none, and one of another context. -/
theorem test_wit_range : Acts w0 0 [.x 2, .x 3] ∧
    (let s : State := { w0 with units := [(0, ⟨some 1, 10, 15, 4, 2⟩), (1, ⟨some 1, 15, 15, 4, 2⟩), (1023, ⟨some 2, 0, 1, 1, 1⟩)] }
     (mget RangeUnit.reset s.units 0).ctx = some s.here.ctx ∧ (mget RangeUnit.reset s.units 1).next = (mget RangeUnit.reset s.units 1).fin ∧
     (mget RangeUnit.reset s.units 1023).ctx ≠ some s.here.ctx) :=
  ⟨⟨rfl, by decide⟩, by decide⟩

/-! ### Slot L -/

/-- The last byte of the scratchpad with a load of eight bytes that wraps, and a poisoned granule. -/
theorem test_wit_loads : Acts w0 0 [.x 1] ∧
    ((wx [(4, 0xFFFFF)]).touchBanks 0xFFFFF 8).poisoned (.spad 0) 0xFFFFF 1 = false ∧
    ((wx [(4, 0xFFFFF)]).touchBanks 0xFFFFF 8).poisoned (.spad 0) 0 7 = false ∧
    ((wt fun x => { x with spadBad := [0] }).touchBanks 0xFFFFF 8).poisoned (.spad 0) 0 7 = true :=
  ⟨⟨rfl, by decide⟩, by decide, by decide, by decide⟩

theorem test_wit_stores : w0.qualified 0 = true ∧ (w0.readX 4).toNat % 2 ^ 20 % 8 = 0 ∧ ((wx [(4, 0xFFFFF)]).readX 4).toNat % 2 ^ 20 % 8 ≠ 0 := by decide

/-- A write with nothing before it; one behind a release fence that has yet to be met. -/
def wRel : State := wt fun x => { x with mems := [⟨.rel, 0, 1, false, 0, 2, 0⟩, ⟨.st 8 8 5, 0, 1, false, 0, 2, 0⟩], pseq := 3 }

theorem test_wit_deferred : w0.defers false = false ∧ w0.defers true = false ∧ wRel.defers false = true ∧ w0.here.mems = [] ∧
    w0.here.relPending w0.cur.group w0.here.pseq w0.cur.scope = false := by decide

theorem test_wit_store_frame : (8 ≤ 8 ∧ 0xFFFFF < 2 ^ 20) ∧ Memory.wf (w0.tile 0).spad = true ∧ (w0.tile 0).spadBad = [] ∧ (w0.tile 0).qs = [] := by decide

/-- A cached load that translates, one whose page is far; a store that translates to a page of one copy, and one whose page is far. -/
theorem test_wit_cached : Acts w0 0 [.x 1] ∧ (∃ u gs, (w0.l1Clear 0 w0.cur.scope).translateAll w0.here.ctx (some 0) 0 .r false (linePieces 3 1 0x11000 8) = (u, .ok gs)) ∧
    (∃ u tr, (w0.l1Clear 0 w0.cur.scope).translateAll w0.here.ctx (some 0) 0 .r false (linePieces 3 1 0x12000 8) = (u, .error tr)) ∧
    (∃ u gs, w0.translateAll w0.here.ctx (some 0) 0 .w (w0.tileExt 0) (linePieces 3 1 0x11FF8 8) = (u, .ok gs)) ∧
    (match (w0.translateAll w0.here.ctx (some 0) 0 .w (w0.tileExt 0) (linePieces 3 1 0x11FF8 8)) with
      | (u, .ok gs) => gs.all fun g => !pteRepl g.e && u.collapseOf 1 g.va == none
      | _ => false) = true ∧
    (∃ u tr, w0.translateAll w0.here.ctx (some 0) 0 .w (w0.tileExt 0) (linePieces 3 1 0x11FFC 8) = (u, .error tr)) :=
  ⟨⟨rfl, by decide⟩, of_good (by decide +kernel), of_bad (by decide +kernel), of_good (by decide +kernel), by decide +kernel, of_bad (by decide +kernel)⟩

/-- An aligned AMO on resident memory, and a misaligned one. -/
theorem test_wit_amo : Acts w0 0 [.x 2] ∧ ((wx [(4, 0x11004)]).readX 4).toNat % 8 ≠ 0 ∧ ((wx [(4, 0x11008)]).readX 4).toNat % 8 = 0 ∧
    (match (wx [(4, 0x11008)]).vaWriteSegs 1 (some 0) 0 [⟨2 ^ 64 + 0x11008, 8⟩] .rw false with
      | (u, .ok [g]) => g.l != .host && !u.poisoned g.l g.a 8
      | _ => false) = true :=
  ⟨⟨rfl, by decide⟩, by decide, by decide, by decide +kernel⟩

/-- An AMO whose page is far. -/
theorem test_wit_amo_far : ∃ u tr, (wx [(4, 0x12008)]).vaWriteSegs 1 (some 0) 0 [⟨2 ^ 64 + 0x12008, 8⟩] .rw false = (u, .error tr) := of_bad (by decide +kernel)

/-- A read-duplicated page of 64 KiB at 0x1:0x40000 whose collapse a store begins. -/
def wRepl : State :=
  (w0.mapPage 1 (2 ^ 64 + 0x40000) (3 + 2 * 2 ^ 4 + 3 * 2 ^ 52 + 2 ^ 57) 0x10000).elim w0 fun s =>
    (s.takeCopies 1 0 0x10000 65536 [1, 2, 3]).elim w0 fun r =>
      r.1.rewrite 1 (2 ^ 64 + 0x40000) 2 (pteWithCopies (3 + 2 * 2 ^ 4 + 0x10 * 2 ^ 12 + 3 * 2 ^ 52 + 2 ^ 57) r.2)

theorem test_wit_store_collapses : (match wRepl.translateAll 1 (some 0) 0 .w (wRepl.tileExt 0) (linePieces 3 1 0x40008 8) with
      | (u, .ok gs) => (u.collapsing 1 gs).isSome
      | _ => false) = true := by decide +kernel

theorem test_wit_amo_operations : (2 ^ 64 - 1 < 2 ^ 64 ∧ 0 < 2 ^ 64) ∧ (2 ^ 32 - 1 < 2 ^ 32 ∧ 0 < 2 ^ 32) := by decide

/-- A full word, an empty one, a poisoned one, a misaligned offset. -/
theorem test_wit_flag_words : Acts w0 0 [.x 1, .c 31] ∧
    ((wt fun x => { x with spad := [(0xFFFFF, 0x80)] }).touchBanks 0xFFFF8 8).num (.spad 0) 0xFFFF8 8 / 2 ^ 63 % 2 = 1 ∧
    (w0.touchBanks 0xFFFF8 8).num (.spad 0) 0xFFFF8 8 / 2 ^ 63 % 2 = 0 ∧ (w0.touchBanks 0xFFFF8 8).poisoned (.spad 0) 0xFFFF8 8 = false ∧
    ((wt fun x => { x with spadBad := [0] }).touchBanks 0 8).poisoned (.spad 0) 0 8 = true ∧ ((wx [(4, 4)]).readX 4).toNat % 8 ≠ 0 :=
  ⟨⟨rfl, by decide⟩, by decide, by decide, by decide, by decide, by decide⟩

/-- PROBE of nothing, up to the top of the space, and past it. -/
theorem test_wit_probe : w0.qualified 0 = true ∧ (wx []).readX 5 = 0 ∧
    (let s := wx [(4, 0xFFFF_FFFF_FFFF_FFFF), (5, 1)]
     s.readX 5 ≠ 0 ∧ (s.readX 4).toNat + (s.readX 5).toNat ≤ 2 ^ 64) ∧
    (let s := wx [(4, 0xFFFF_FFFF_FFFF_FFFF), (5, 2)]
     s.readX 5 ≠ 0 ∧ 2 ^ 64 < (s.readX 4).toNat + (s.readX 5).toNat) := by decide

/-- A fence with nothing outstanding, and one behind a store that waits. -/
theorem test_wit_fences : w0.here.writesOut 0 w0.here.pseq = false ∧ w0.cur.scope < 4 ∧
    w0.here.memDone ⟨.acq, 0, 0, false, 0, 0, 0⟩ = true ∧ wRel.here.memDone ⟨.rel, 0, 0, false, 3, 0, 0⟩ = false := by decide

/-! ### Slot D and the engines -/

/-- A command of an engine's queue with staging words and its `x` values. -/
def cmd (i : Instr) (stg xv : List Word) : Cmd := ⟨i, stg, xv, 1, 1, 0, 0, 0, false⟩

/-- Tile 0 with a queue. -/
def wq (e : Eng) (run : Bool) (l : List Cmd) : State := wt fun x => x.setQueue e ⟨l, run⟩

theorem test_wit_push : w0.qualified 0 = true ∧ Room w0 .D ∧ Room w0 .V ∧ Room w0 .M ∧ Room w0 .K ∧ Room w0 .A ∧
    Room (wq .D false (List.replicate 15 (cmd (.tagclr 0 1) [] [0]))) .D ∧ mget 0 w0.here.tcnt 63 < 255 ∧
    (w0.readStg 2 0).toNat / 2 ^ 38 % 2 ≠ 1 ∧ ((wt fun x => { x with stg := [(32, 2 ^ 38)] }).readStg 2 0).toNat / 2 ^ 38 % 2 = 1 :=
  ⟨by decide, by unfold Room; decide, by unfold Room; decide, by unfold Room; decide, by unfold Room; decide, by unfold Room; decide,
    by unfold Room; decide, by decide, by decide, by decide⟩

/-- The cluster's array: held by tile 0, by tile 1, by none; asked for by tile 0. -/
def wl (c : Cluster) : State := { w0 with clusters := [(0, c)] }

theorem test_wit_lease : (((wl { Cluster.reset with held := true }).cluster 0).held = true ∧ ((wl { Cluster.reset with held := true }).cluster 0).holder = 0) ∧
    (w0.cluster 0).held = false ∧ ((wl { Cluster.reset with held := true, holder := 1 }).cluster 0).holder ≠ 0 ∧
    ((wl { Cluster.reset with held := true, holder := 1, req := 1 }).cluster 0).req.getLsbD 0 = true ∧
    ¬(((w0.cluster 0).held = true ∧ (w0.cluster 0).holder = 0) ∨ (w0.cluster 0).req.getLsbD 0 = true) := by decide

theorem test_wit_lease_period : let c : Cluster := { Cluster.reset with held := true, holder := 3, cycLeft := 1, req := 2 }
    c.held = true ∧ c.cmdLeft = 0 ∧ c.holder < 4 ∧ c.req.getLsbD c.holder = false ∧ c.req ≠ 0 ∧
    { c with req := 0 }.req.getLsbD 3 = false := by decide

theorem test_wit_tags : let s := wt fun x => { x with tags := 0x8000_0000_0000_0001, xs := [(1, 0x8000_0000_0000_0000), (2, 2), (3, 3)] }
    Acts s 0 [.x 1] ∧ s.readX 4 = 0 ∧ s.here.tags &&& s.readX 1 ≠ 0 ∧ (s.here.tags &&& s.readX 2 = 0 ∧ s.readX 2 ≠ 0) ∧
    s.here.tags &&& s.readX 1 = s.readX 1 ∧ s.here.tags &&& s.readX 3 ≠ s.readX 3 ∧
    (s.here.tags &&& s.readX 1).getLsbD 63 = true ∧ ∀ j < 63, (s.here.tags &&& s.readX 1).getLsbD j = false :=
  ⟨⟨rfl, by decide⟩, by decide, by decide, by decide, by decide, by decide, by decide, by decide⟩

/-- A queue of the context with entries of 16 bytes; a port that both sides opened. -/
def wUnits : State :=
  { wt fun x => { x with stg := [(46, 8), (47, 17)] } with
    queues := [(7, ⟨[(1, ⟨1, 0x13000⟩)], 4, 1, false, 0, 0, 0, 0⟩)]
    ports := [(17, ⟨some 1, 5, 6, some (5, 6, 1), false, [], []⟩)] }

theorem test_wit_queue_receive : (∃ r, mget? wUnits.queues 7 = some r ∧ (∃ g ∈ r.regs, g.1 = wUnits.here.ctx) ∧ 0xFFFF0 % (8 * 2 ^ r.esize) = 0 ∧
      0xFFFF0 + 8 * 2 ^ r.esize ≤ 2 ^ 20 ∧ 8 % (8 * 2 ^ r.esize) ≠ 0) ∧ mget? wUnits.queues 8 = none := by decide

theorem test_wit_signals : let s := wt fun x => { x with groups := x.groups.map fun g => { g with pushSeq := 0 } }
    Acts s 0 [.x 1] ∧ Room s .D ∧ s.grp.slots.getLsbD 7 = true ∧ (wg fun g => { g with slots := 0x7F }).grp.slots.getLsbD 7 = false ∧
    0 < (s.grp.pushSeq - (s.grp.pushSeq - 32767)).toNat ∧ (s.grp.pushSeq - (s.grp.pushSeq - 32767)).toNat ≤ 32767 ∧
    (s.grp.pushSeq - s.grp.pushSeq).toNat = 0 ∧ 32767 < (s.grp.pushSeq - (s.grp.pushSeq - 32768)).toNat :=
  ⟨⟨rfl, by decide⟩, by unfold Room; decide, by decide, by decide, by decide, by decide, by decide, by decide⟩

/-- AZERO of one element of bank 0: starts, waits for the bank, is bad; completes. One that reads a stream that is not bound fails. -/
def cAzero (w : Word) : Cmd := cmd (.azero 0 false false 0 1) [] [w]

theorem test_wit_engine_start : ((wq .A false [cAzero 0xFC_0FC0]).tile 0).engHead .A = some (cAzero 0xFC_0FC0) ∧
    (((wq .A false [cAzero 0xFC_0FC0]).tile 0).queue .A).run = false ∧ (wq .A false [cAzero 0xFC_0FC0]).startOf 0 .A (cAzero 0xFC_0FC0) = .go ∧
    (wq .A false [cAzero 0x8000_0000_0000_0000]).startOf 0 .A (cAzero 0x8000_0000_0000_0000) = .bad .engine none ∧
    (wl { Cluster.reset with held := true, holder := 1, req := 1 }).startOf 0 .M (cmd (.mz 0 false false 0) [] []) = .wait := by decide +kernel

/-- Whether an engine's program ends well. -/
def ends (r : Except ε α × State) : Bool := match r.1 with
  | .ok _ => true
  | .error _ => false

theorem of_ends {r : Except ε Unit × State} (h : ends r = true) : ∃ u, r = (.ok (), u) := by
  obtain ⟨e, u⟩ := r
  cases e with
  | ok x => exact ⟨u, rfl⟩
  | error _ => simp [ends] at h

theorem of_fails {r : Except ε α × State} (h : ends r = false) : ∃ f u, r = (.error f, u) := by
  obtain ⟨e, u⟩ := r
  cases e with
  | error x => exact ⟨x, u, rfl⟩
  | ok _ => simp [ends] at h

theorem test_wit_engine_complete : (((wq .A true [cAzero 0xFC_0FC0]).tile 0).queue .A).run = true ∧
    (∃ u, (cmdRun 0 .A (cAzero 0xFC_0FC0)).run.run (wq .A true [cAzero 0xFC_0FC0]) = (.ok (), u)) ∧
    ∃ f u, (cmdRun 0 .D (cmd (.bind 0 false false 0) [] [])).run.run (wq .D true [cmd (.bind 0 false false 0) [] []]) = (.error f, u) :=
  ⟨rfl, of_ends (by decide +kernel), of_fails (by decide +kernel)⟩

/-- An AZERO of the last element of the last bank, an AWR and an MZ of a whole bank, a bank without poison. -/
theorem test_wit_accumulators : (accArgs [0xFF_FFFF]).row0 + (accArgs [0xFF_FFFF]).rows ≤ 64 ∧ (accArgs [0xFC_0FC0]).ok = true ∧
    (mmaArgs (List.replicate 16 0)).row0 + 16 * (mmaArgs (List.replicate 16 0)).mb ≤ 64 ∧ (w0.tile 0).accBad = [] ∧ Memory.wf (w0.tile 0).acc = true ∧
    bankNamed (.azero 0 false false 15 1) = some 15 ∧ bankNamed (.rels 0) = none := by decide

/-- A push to a full queue; a start whose bank is in retention. -/
def cPush : Cmd := cmd (.qpush 0 false 1 2) [] [7, 0]
def wFull (n : BitVec 32) : State := { wq .D true [cPush] with queues := [(7, ⟨[(1, ⟨1, 0x13000⟩)], 4, 0, true, 0, n, 0, 0⟩)] }

def stalls (r : Except EngErr α × State) : Bool := match r.1 with
  | .error f => f.stall.isSome
  | .ok _ => false

theorem of_stalls {r : Except EngErr Unit × State} (h : stalls r = true) : ∃ f w u, r = (.error f, u) ∧ f.stall = some w := by
  obtain ⟨e, u⟩ := r
  cases e with
  | ok x => simp [stalls] at h
  | error f =>
    have h' : f.stall.isSome = true := h
    obtain ⟨w, hw⟩ := Option.isSome_iff_exists.1 h'
    exact ⟨f, w, u, rfl, hw⟩

theorem test_wit_engine_stall :
    ∃ f w u, (cmdRun 0 .D cPush).run.run ((wFull 0).updTile 0 fun x => { x with ret := [(0, .retained)] }) = (.error f, u) ∧ f.stall = some w :=
  of_stalls (by decide +kernel)

theorem test_wit_push_full : (wFull 16).pushFull cPush = true ∧ (wFull 15).pushFull cPush = false := by decide

theorem test_wit_queue_wait : let c := cmd (.dwaitDist 0 1 1) [] [0]
    ((wq .D false [c]).tile 0).engHead .D = some c ∧ dwaitTarget c = some (.V, 0) ∧ ((wq .D false [c]).tile 0).signalled .V c.num 0 c.ord = true ∧
    (((wq .D false [c]).tile 0).setQueue .V ⟨[{ c with num := 0 }], false⟩).signalled .V c.num 0 (c.ord + 1) = false := by decide

/-- A linear CPYIN of eight bytes from 0x1:0x11000 to scratchpad offset 0, a CPYSS to tile 1, a CPYR, a SEND. -/
def copyStg (a b n r : Word) : List Word := List.replicate 12 0 ++ [a, b, n, r]
def cIn (ph : Nat) : Copy := ⟨cmd (.cpyin 0 false false true 9 true 1) (copyStg 0 0x11000 8 0) [], ph, 0, 0, 0⟩
def cSS (ph : Nat) : Copy := ⟨cmd (.cpyss 0 false false true 9) (copyStg 0 0x4000_0000 8 0) [], ph, 0, 0, 0⟩
def cR (ph : Nat) : Copy := ⟨cmd (.cpyr 0 false true 9) (copyStg 0 0x4000_0000 0x1000_0008 5) [], ph, 0, 0, 0⟩
def cSend : Copy := ⟨cmd (.send 0 false true 9) (copyStg 0 0 8 17) [], 1, 0, 0, 0⟩
def wCopy (c : Copy) : State :=
  (w0.setTile 0 { w0.tile 0 with copyQ := [c], tcnt := [(9, 1)] }).setTile 1 { w0.tile 0 with copyQ := [] }

def starts (c : Copy) : Bool := ((wCopy c).runCopy 0 c (copyStartM 0 c.cmd)).2.isSome

theorem test_wit_copy_start : (((wCopy (cIn 0)).tile 0).copyQ.find? fun k => k.phase == 0) = some (cIn 0) ∧ ((wCopy (cIn 0)).tile 0).copyLive = true ∧
    ((wCopy (cIn 0)).tile 0).running.length < 8 ∧ starts (cIn 0) = true ∧ starts (cSS 0) = true ∧ starts (cR 0) = true := by decide +kernel

/-- A copy between scratchpads that waits for its target's swap, one whose source's bank is in retention, one that reads what an earlier one
is to write. -/
theorem test_wit_copy_waits : (wCopy (cSS 0)).opsWaits 0 (cSS 0) = false ∧ (wCopy (cSS 0)).opsBank 0 8 = none ∧
    (((wCopy (cSS 0)).setTile 1 { (wCopy (cSS 0)).tile 1 with stat := .frozen }).updCtx 1 fun x => { x with preempting := true }).opsWaits 0 (cSS 0) = true ∧
    ((wCopy (cSS 0)).updTile 0 fun x => { x with ret := [(0, .retained)] }).opsBank 0 8 = some (0, 0) ∧
    (let out : Copy := ⟨cmd (.cpyout 0 false false true 9 true 1) (copyStg 0 0x11000 8 0) [], 1, 1, 0, 0⟩
     ((wCopy (cIn 1)).updTile 0 fun x => { x with copyQ := [cIn 1, out] }).tile 0 |>.readsAfter 0 out) = true ∧
    ((wCopy (cIn 1)).tile 0).readsAfter 0 (cIn 1) = false := by decide +kernel

theorem test_wit_copy_complete : ((wCopy (cIn 1)).tile 0).running[0]? = some (cIn 1) ∧ (cSS 3).phase = 3 ∧ (cR 3).phase = 3 ∧
    ((wCopy (cIn 1)).runCopy 0 (cIn 1) (copyM 0 (cIn 1).cmd)).2.isSome = true ∧ tagOf (cIn 1).cmd.i = some 9 ∧
    mget 0 ((wCopy (cIn 1)).tile 0).tcnt 9 = 1 := by decide +kernel

/-- CopyTransferFrame: a linear copy in whose transfer is made, and one out. -/
theorem test_wit_copy_frame : (∃ u, (copyM 0 (cIn 1).cmd).run.run (wCopy (cIn 1)) = (.ok (), u)) ∧ linearOk (copyArgs (cIn 1).cmd.stg false) = true ∧
    ((wCopy (cIn 1)).tile 0).qs = [] ∧ ((wCopy (cIn 1)).tile 0).spadBad = [] ∧
    (let out := cmd (.cpyout 0 false false true 9 true 1) (copyStg 0 0x11000 8 0) []
     (∃ u, (copyM 0 out).run.run w0 = (.ok (), u)) ∧
     ∃ v gs, w0.translateAll w0.here.ctx (some 0) 0 .w (w0.tileExt 0)
       (vaPieces (VA.ofNat (VA.toNat ⟨out.asp, BitVec.ofNat 64 (copyArgs out.stg false).epb⟩)) 8) = (v, .ok gs)) :=
  ⟨of_ends (by decide +kernel), by decide, rfl, rfl, of_ends (by decide +kernel), of_good (by decide +kernel)⟩

def wSend : State := { wCopy cSend with ports := wUnits.ports }

theorem test_wit_send : let p := wSend.linkArgs 1 (nth 0 cSend.cmd.stg 12) (nth 0 cSend.cmd.stg 14) (nth 0 cSend.cmd.stg 15)
    (wSend.tile 0).running[0]? = some cSend ∧ p.ok = true ∧ p.port = 17 ∧ 8 = p.len ∧ 8 ≤ (wSend.port 17).room 0 ∧
    (((wSend.tile 0).running.find? fun r => r.sendTo p.port p.strm).map (·.id) = some cSend.id) ∧
    (wSend.allTiles.any fun y => y.1 != some 0 && y.2.copyQ.any fun r => r.sendTo p.port p.strm && r.pos != 0) = false ∧
    (wSend.tile 0).readsAfter 0 cSend = false ∧ (wSend.tile 0).bankHeld p.off 8 = none ∧
    (let p := wUnits.linkArgs 1 (wUnits.readStg 2 12) (wUnits.readStg 2 14) (wUnits.readStg 2 15)
     p.ok = true ∧ (w0.linkArgs 1 0 0 0).ok = false) := by decide +kernel

/-- A SEND that does not fit in its stream's receive queue waits; one that fits does not. -/
theorem test_wit_send_held : ({ wSend with ports := [(17, { wUnits.port 17 with tx := [(0, List.replicate 65529 0)] })] } : State).sendHeld 0 cSend = true ∧
    wSend.sendHeld 0 { cSend with phase := 0 } = false := by decide +kernel

/-- A memory stream of two FP32 elements at 0x1:0x11000, in and out. -/
def strm (dir : Nat) (epos wpos : Nat) : Stream :=
  ⟨[w64 (1 + 4 * dir + 2 * 8), 0x100_0000, 0, 0, 0, 0, 0x1_0000_0002], 2 ^ 64 + 0x11000 + 2 ^ 132 + 2 * 2 ^ 136 + 10 * 2 ^ 144 + 16 * 2 ^ 192,
    none, false, epos, wpos, [], 0, 1, 0, 0, false, false, false, [], []⟩
def wStrm (q : Stream) : State := wt fun x => { x with qs := [(31, q)] }

theorem test_wit_streams : tdValid (strm 0 0 0).tdesc = true ∧ ((wStrm (strm 0 0 1)).tile 0).stream 31 = some (strm 0 0 1) ∧
    ((wStrm (strm 0 0 1)).tile 0).live = true ∧ (strm 0 0 1).canFill = true ∧ (strm 0 0 2).canFill = false ∧
    (∃ u, (streamFillOne 0 31 (strm 0 0 1)).run.run (wStrm (strm 0 0 1)) = (.ok (), u)) ∧ (strm 1 2 1).canDrain = true ∧
    ∃ u, (streamDrainOne 0 31 (strm 1 2 1)).run.run (wStrm (strm 1 2 1)) = (.ok (), u) :=
  ⟨by decide +kernel, by decide, by decide, by decide, by decide, of_ends (by decide +kernel), by decide, of_ends (by decide +kernel)⟩

theorem test_wit_ops_write : let w : OpsIn := ⟨0, 0xFFFF8, List.replicate 8 (1, false), some (0, 5), 1, 0⟩
    ((wt fun x => { x with opsIn := [w] }).tile 0).opsIn = w :: [] := by decide

/-- A write that comes after a result of its boundary, and one to a bank in retention. -/
theorem test_wit_ops_held : (∃ p ∈ ((wp [p0]).tile 0).pend, p.timed = true ∧ p.due ≤ ((wp [p0]).tile 0).clk) ∧ (w0.tile 0).pend = [] ∧
    ((wt fun x => { x with ret := [(31, .retained)] }).tile 0).bankHeld 0xFFFF8 8 = some 31 ∧ (w0.tile 0).bankHeld 0xFFFF8 8 = none := by decide

/-! ### Steps of a tile beside its bundles -/

def pIlk (poison : Bool) : Pend := { p0 with ilk := true, poison := poison }

theorem test_wit_interlocked : ((wt fun x => { x with pend := [pIlk false], clk := 1 }).tile 0).dueIlk = some (pIlk false) ∧
    ((wt fun x => { x with pend := [pIlk true], clk := 1 }).tile 0).dueIlk = some (pIlk true) ∧ w0.killed 0 = false ∧ (w0.tile 0).raised = none := by decide

theorem test_wit_waiting : (w0.tile 0).stat = .running ∧ tagsHold 0 0 true = true ∧ tagsHold 0 1 true = false ∧
    (∀ h ∈ (w0.tile 0).groups, h.wokenAt 0 = []) := by decide

/-- A group at one WAITC, at one WAITTL, at a WAITF that a write has woken. -/
def wWait (w : Wait) (tags : Word) : State := wt fun x => { x with tags := tags, groups := x.groups.map fun g => { g with waits := [⟨w, 0, 0, 1, .nop 0⟩] } }

theorem test_wit_condition_waits : ((wWait (.waitc 31 true) 0).tile 0).stat = .running ∧ ((wWait (.waitc 31 true) 0).tile 0).mems = [] ∧
    (∃ h ∈ ((wWait (.waitc 31 true) 0).tile 0).groups, h.num = 0) ∧
    (∀ h ∈ ((wWait (.waitc 31 true) 0).tile 0).groups, h.num = 0 → h.waits = [⟨.waitc 31 true, 0, 0, 1, .nop 0⟩]) ∧
    xor (((wWait (.waitc 31 true) 0).atWait 0 0 ⟨.waitc 31 true, 0, 0, 1, .nop 0⟩).readC 31) true = true ∧
    xor (((wWait (.waitc 31 false) 0).atWait 0 0 ⟨.waitc 31 false, 0, 0, 1, .nop 0⟩).readC 31) false = false ∧
    (0x8000_0000_0000_0001 &&& (3 : Word) ≠ 0 ∧ 0x8000_0000_0000_0001 &&& (3 : Word) ≠ 3) := by decide

theorem test_wit_flag_wakes : let x := (wWait (.waitf 1 0xFFFF8 true (some 5)) 0).tile 0
    x.stat = .running ∧ (x.groups.map (·.num)).Nodup ∧ x.groups.map (fun h => h.waits.map (·.w)) = [[.waitf 1 0xFFFF8 true (some 5)]] ∧ (∀ h ∈ x.groups, h.ppStop = false) ∧
    (∀ k ∈ x.groups, k.num ≠ 0 → k.wokenAt 0xFFFF8 = []) := by decide

/-- A store that waits for a release fence, and one that has waited. -/
theorem test_wit_waited_writes : let w : MemWait := ⟨.st 0xFFFF8 8 5, 0, 1, false, 1, 2, 0⟩
    let s := wt fun x => { x with mems := [w], pseq := 3 }
    (wRel.tile 0).memReady w = false ∧ w.op = .st 0xFFFF8 8 5 ∧ (s.tile 0).live = true ∧ (s.tile 0).memReady w = true ∧ 0xFFFF8 + 8 ≤ 2 ^ 20 ∧
    (s.tile 0).spadBad = [] ∧ (s.tile 0).qs = [] := by decide

theorem test_wit_takes_cause : TakesCause w0 0 ∧ TakesCause (wc fun x => { x with brks := [(3, placeVA)] }) 0 :=
  ⟨⟨rfl, rfl, rfl, by decide⟩, ⟨rfl, rfl, rfl, by decide⟩⟩

theorem test_wit_empty_bundle : let x := w0.here
    x.stat = .running ∧ x.raised = none ∧ x.preSig = none ∧ Group.lockstep ∈ x.groups ∧ Group.lockstep.num = w0.cur.group ∧ (x.groups.map (·.num)).Nodup ∧
    Group.lockstep.waits = [] ∧ (x.groupSeq Group.lockstep).loops = [] ∧ (∀ h ∈ x.groups, h.num ≠ Group.lockstep.num → h.opened = false) := by decide

/-- A breakpoint with the highest index at the next bundle. -/
theorem test_wit_break : let s := wc fun x => { x with brks := [(3, placeVA)] }
    ((s.tile 0).groups.find? fun h => h.num == 0) = some Group.lockstep ∧ (s.tile 0).ready Group.lockstep = true ∧ s.breakAt 0 Group.lockstep = some 3 := by decide

theorem test_wit_odd_bundle : let s := { wLoop with cur := { wLoop.cur with addr := 0x10000 } }
    (match ((s.triedAt 0 0).fetchBundle 0 0x10000).2 with
      | .bundle _ => true
      | _ => false) = true ∧
    (match ((s.triedAt 0 0).fetchBundle 0 0x10FFC).2 with
      | .bundle b => b.syls.isEmpty
      | _ => false) = true ∧
    (match ((s.triedAt 0 0).fetchBundle 0 0x14000).2 with
      | .fails c _ _ => c != .poison
      | _ => false) = true := by decide +kernel

/-- A tile frozen by a cause, with a handler or without, its last freeze point 16 cycles back or 15. -/
def wFrozen (c : Cause) (traph : Word) (clk : Nat) : State := wt fun x =>
  { x with stat := .frozen, traph := traph, clk := clk, groups := [{ Group.lockstep with nextIssue := 1 }]
           raised := some ⟨c, 0, none, false, 0, 0, 0, 0, placeVA, 2 ^ 64 + 0x10000, none, none, .none⟩ }

theorem test_wit_handler : ((wFrozen .trap 0x20000 17).tile 0).toHandler = true ∧ ((wFrozen .trap 0x20000 17).ctx 1).preempting = false ∧
    ((wFrozen .trap 0x20000 17).tile 0).lastPoint + 16 ≤ ((wFrozen .trap 0x20000 17).tile 0).clk ∧
    ((wFrozen .trap 0x20000 16).tile 0).clk < ((wFrozen .trap 0x20000 16).tile 0).lastPoint + 16 := by decide

theorem test_wit_kernel_fault : ((wFrozen .illegal 0 17).tile 0).stat = .frozen ∧ causeClass .illegal = 1 ∧
    ((wFrozen .trap 0 17).tile 0).toFirmware = true ∧ ((wFrozen .brk 0 17).tile 0).toFirmware = true ∧
    ((wFrozen .fetch 0 17).tile 0).toFirmware = true ∧
    (match (wFrozen .fetch 0 17).rangeNow 0 (VA.ofNat (2 ^ 64 + 0x10000)) 64 .x with
      | .ok () => true
      | .error _ => false) = true := by decide +kernel

/-- An older task of the context whose frame stands in its record, and none. -/
theorem test_wit_frame_kept : let e : Entry := ⟨5, .trap 0 0, 0, .fault, [], [], [], 0, false, [], some (0x86, 0, 0), 8, [], 0, false, false, false, none, []⟩
    (∃ f ∈ ((wc fun x => { x with entries := [e] }).ctx 1).entries.takeWhile (fun e => e.sn != 7), f.st = .fault ∧ f.frameOff ≠ 0) ∧
    ¬∃ f ∈ (w0.ctx 1).entries.takeWhile (fun e => e.sn != 7), f.st = .fault ∧ f.frameOff ≠ 0 := by decide

theorem test_wit_watchdog : let s := wt fun x => { x with wdog := 1, wd := 1024 }
    s.wdCounts 0 = true ∧ (s.tile 0).wdog * 1024 ≤ (s.tile 0).wd ∧ (w0.tile 0).wd < w0.wdogDef * 1024 := by decide

theorem test_wit_preempt_signal : ((wc fun x => { x with preempting := true }).ctx 1).preempting = true ∧ (w0.tile 0).stat = .running ∧
    (w0.tile 0).preSig = none ∧ (wt fun x => { x with preSig := some 5, prebnd := 3, clk := 8 }).here.preSig = some 5 ∧ 5 + 3 ≤ 8 ∧ 7 < 5 + 3 := by decide

theorem test_wit_tile_end : let s := wt fun x => { x with stat := .ending }
    (s.tile 0).stat = .ending ∧ (s.tile 0).mems = [] ∧ (s.tile 0).qD.q = [] ∧ (s.tile 0).qV.q = [] ∧ (s.tile 0).qM.q = [] ∧ (s.tile 0).qK.q = [] ∧
    (s.tile 0).qA.q = [] ∧ (∀ c ∈ (s.tile 0).copyQ, c.holdsEnd 0 = false) ∧ ∀ p ∈ (s.tile 0).qs, p.2.canDrain = false := by decide

theorem test_wit_retention : let s := wt fun x => { x with ret := [(0, .entering 5), (31, .leaving 6)], clk := 5 }
    mget .active (s.tile 0).ret 0 = .entering 5 ∧ 5 ≤ (s.tile 0).clk ∧ mget .active (s.tile 0).ret 31 = .leaving 6 ∧ (s.tile 0).clk < 6 := by decide

theorem test_wit_patrol : paExists .en4m 0 64 = true ∧ paExists .en4m (64 * 0x1_FFFF_FFFF) 64 = true ∧ paExists .en4m (64 * 0xF_FFFF_FFFF) 64 = true ∧
    paExists .die (64 * 0x1_FFFF_FFFF) 64 = true := by decide

/-! ### Task-stream instructions -/

/-- A context that decodes at 0x1:0x10000, with 4,096 KiB arenas of one page; its serving tables on the pinned page at 0x13000, prefixes at
0x20000, two key-value pages at 0x15000. -/
def hub (f : Context → Context) : State :=
  let leaf (s : State) (k e : Nat) : State := s.write .phys (nodeBase + 5 * 65536 + 16 * k) (leBytes 16 e) 0xFFFF
  let rw := 3 * 2 ^ 52
  let s := leaf (leaf (leaf w0 32 (3 + 2 ^ 11 + 5 * 2 ^ 12 + rw + 2 ^ 57)) 21 (3 + 6 * 2 ^ 12 + rw)) 22 (3 + 7 * 2 ^ 12 + rw)
  let s := s.write .phys 0x3000 (leBytes 64 (16 + 2 ^ 32 + 4 * 2 ^ 64 + (2 ^ 64 + 0x13400) * 2 ^ 128)) 0xFFFF
  let s := (s.write .phys 0x3104 (leBytes 4 1) 0xFFFF).write .phys 0x3200 (leBytes 4 1) 0xFFFF
  let v : Serving := ⟨⟨1, 0x13000⟩, 2, ⟨1, 0x15000⟩, 0, 4, 2, 1, ⟨1, 0x13104⟩, ⟨1, 0x13200⟩, ⟨1, 0x20000⟩, 6⟩
  let s : State := { s with tiles := [], cur := { Cur.reset with sub := ⟨1, 7, 0, 0, 0⟩ } }
  s.setCtx 1 (f { w0.ctx 1 with
    decStop := false, dv := { View.reset with pos := 0x10000 }, space := 1, serv := v, arenas := [(⟨1, 0x11000⟩, 1)] })

/-- An entry 7 of the window. -/
def entry (i : Instr) (st : EntrySt) : Entry :=
  ⟨7, i, 0x10000, st, [], [], [], 0, false, [], none, 0, [], 0, false, false, false, none, []⟩

def gateGo (s : State) (i : Instr) : Bool := match s.gate 1 i with
  | .go _ => true
  | _ => false

def tli (w1 w3 : BitVec 32) : Tli := ⟨3, 4, 5, w1, 0, w3, []⟩

theorem test_wit_decode : (hub id).cx.decodes = true ∧ (workTlis (tli 5 0)).all (gateGo (hub id)) = true ∧
    gateGo (hub id) (.tsety .decode (tli 5 0)) = true ∧ gateGo (hub id) (.tcall .decode (tli 5 0)) = true ∧
    (hub fun x => { x with yPend := [(4, 2)] }).gate 1 (.taddy .decode (tli 5 1)) = .stall 2 := by decide +kernel

theorem test_wit_predicates : (List.range 6).all (fun p => bits (tli 0 (BitVec.ofNat 32 (2 * p))).w3.toNat 1 3 == p) = true := by decide

theorem test_wit_control : (hub id).cx.y 4 = 0 ∧ (hub fun x => { x with dv := { x.dv with ys := [(4, 1)] } }).cx.y 4 ≠ 0 ∧
    (hub fun x => { x with dv := { x.dv with stack := List.replicate 15 0 } }).cx.dv.stack.length < 16 ∧
    16 ≤ (hub fun x => { x with dv := { x.dv with stack := List.replicate 16 0 } }).cx.dv.stack.length ∧ (hub id).cx.dv.stack = [] := by decide

/-- The running entry of a task whose one operand is 8 bytes of the arena's buffer. -/
def task (i : Instr) (sc : List Word) : Entry :=
  { entry i .run with ranges := [⟨.OUT, 0, ⟨0, 0⟩, 0, 8, true, none⟩], sc := sc, probed := 1 }
def wTask (i : Instr) (sc : List Word) : State := hub fun x => { x with entries := [task i sc] }

theorem test_wit_task_running : (wTask (.tldy .decode (tli 0 0)) []).running = some (task (.tldy .decode (tli 0 0)) []) ∧
    (∃ u b, (wTask (.tldy .decode (tli 0 0)) []).vaRead 1 none 4 ((wTask (.tldy .decode (tli 0 0)) []).opVA (task (.tldy .decode (tli 0 0)) []) 0) 8 .r = (u, .ok b)) ∧
    ∃ u b, (wTask (.tsty .decode (tli 0 0)) [5]).vaWrite 1 none 4 ((wTask (.tsty .decode (tli 0 0)) [5]).opVA (task (.tsty .decode (tli 0 0)) [5]) 0)
      ((leBytes 8 5).map fun b => (b, false)) false = (u, .ok b) :=
  ⟨rfl, of_good (by decide +kernel), of_good (by decide +kernel)⟩

theorem test_wit_task_poison : (match (({ wTask (.tldy .decode (tli 0 0)) [] with physBad := [0x1000 / 8] } : State).vaRead 1 none 4
      ((wTask (.tldy .decode (tli 0 0)) []).opVA (task (.tldy .decode (tli 0 0)) []) 0) 8 .r).2 with
    | .ok b => b.any Prod.snd
    | .error _ => false) = true := by decide +kernel

/-- Whether no page that a task is to write collapses. -/
def mayWrite (s : State) (v : VA) (n : Nat) (ext : Bool) : Bool := match (s.translateAll s.cur.sub.ctx none 4 .w ext (vaPieces v n)).2 with
  | .ok gs => (s.collapsing s.cur.sub.ctx gs).isNone
  | .error _ => true

theorem mayWrite_of {s : State} {v : VA} {n : Nat} {ext : Bool} (h : mayWrite s v n ext = true) : HubMayWrite s v n ext := by
  intro gs hg; simpa [mayWrite, hg] using h

/-- A TSTY to a page of one copy, and one to a read-duplicated page, whose collapse comes first. -/
theorem test_wit_hub_writes : HubMayWrite (wTask (.tsty .decode (tli 0 0)) [5]) ⟨1, 0x11000⟩ 8 false ∧
    (let s : State := ({ wRepl with tiles := [], cur := { Cur.reset with sub := ⟨1, 7, 0, 0, 0⟩ } } : State).updCtx 1 fun x =>
      { x with space := 1, arenas := [(⟨1, 0x40000⟩, 1)], entries := [task (.tsty .decode (tli 0 0)) [5]] }
     s.running = some (task (.tsty .decode (tli 0 0)) [5]) ∧
     mayWrite s (s.opVA (task (.tsty .decode (tli 0 0)) [5]) 0) 8 false = false) :=
  ⟨mayWrite_of (by decide +kernel), by decide +kernel⟩

/-- Whether the hub can read some bytes of its tables. -/
def readable (s : State) (l : List (VA × Nat)) : Bool :=
  l.all fun p => match s.vaRead s.cur.sub.ctx none 4 p.1 p.2 .r with
    | (_, .ok b) => !b.any Prod.snd
    | (_, .error _) => false

theorem readable_of {s : State} {l : List (VA × Nat)} (h : readable s l = true) : Readable s l := by
  intro p hp
  have k := List.all_eq_true.1 h p hp
  revert k
  cases e : s.vaRead s.cur.sub.ctx none 4 p.1 p.2 .r with
  | mk u r =>
    cases r with
    | ok b => intro k; exact ⟨u, b, rfl, by simpa using k⟩
    | error x => intro k; cases k

/-- TPROBE of a named range whose page is far or not mapped, TMIGR of one page of CXM; a TACQR and TRELR in each owner state; TSIGQ and TWAITQ. -/
theorem test_wit_residency : (hub id).probeItems (tli 1 0) (task (.tprobe .decode (tli 1 0)) []) = some [⟨⟨1, 0x11000⟩, 8, .rw, 0⟩] ∧
    (hub id).probeItems (tli 1 2) (task (.tprobe .decode (tli 1 2)) [0x11000, 0]) = none ∧
    (match (hub id).hubProbe 1 ⟨1, 0x7000_0000⟩ 8 .r false 7 with
      | (_, .fault _) => true
      | _ => false) = true ∧
    (hub id).namedRanges (tli 1 2) [0x12000, 8] = some [(⟨1, 0x12000⟩, 8)] ∧ (hub id).namedRanges (tli 1 2) [0x12000, 0] = none ∧
    (((hub id).pagesIn 1 (2 ^ 64 + 0x12000) 8).map fun p => (p.1, pteTier p.2)) = [(2 ^ 64 + 0x12000, 1)] := by decide +kernel

/-- What a form 2 does not read, a far page that a probe meets, a space that no task may name, and the header that a form 1 reads. -/
theorem test_wit_named : (hub id).namedHdr (tli 1 2) [0x12000, 8] = [] ∧ readable (hub id) ((hub id).namedHdr (tli 1 1) [0]) = true ∧
    (match (hub id).hubProbe 1 ⟨1, 0x12000⟩ 8 .r false 7 with
      | (_, .far va) => va == 2 ^ 64 + 0x12000
      | _ => false) = true ∧
    (match (hub id).hubProbe 1 ⟨1, 0x11000⟩ 8 .r false 7 with
      | (_, .ok) => true
      | _ => false) = true ∧
    ((hub id).namedRanges (tli 0x8000 2) [0x12000, 8]).isSome = true ∧ tliForm (tli 0x8000 2) = 2 ∧ 0x8000 ≤ (tli 0x8000 2).w1.toNat % 2 ^ 16 := by decide +kernel

def shr (o : Own) : State := { hub id with ranges := [⟨1, 0x4000, 4096, false, o, 0⟩] }

theorem test_wit_shared : ((shr .host).shAt 1 0x4000 = some ⟨1, 0x4000, 4096, false, .host, 0⟩) ∧ (shr .none).shAt 1 0x4000 = some ⟨1, 0x4000, 4096, false, .none, 0⟩ ∧
    (shr .device).shAt 1 0x4000 = some ⟨1, 0x4000, 4096, false, .device, 0⟩ ∧ (hub id).shAt 1 0x4000 = none ∧
    (shr .host).ownTurn (some 1) = true ∧ ({ shr .host with ownAt := 1 } : State).ownTurn (some 1) = false ∧ (shr .host).ownTurn none = true ∧ ({ shr .host with ownAt := 1 } : State).ownTurn none = false ∧
    (shr .host).invalDone 0x4000 = true ∧ ({ shr .host with invQ := [⟨1, some (0x4000, 4096)⟩] } : State).invalDone 0x4000 = false := by decide +kernel

/-- A queue of eight-byte entries with a depth of 16: empty, holding one, full. -/
def que (n : BitVec 32) : State := { hub id with queues := [(7, ⟨[(1, ⟨1, 0x13800⟩)], 4, 0, true, 0, n, 0, 0⟩)] }

theorem test_wit_task_queue : let e := task (.tsigq .decode (tli 7 1)) [7, 5]
    ((que 0).taskQueue (tli 7 1) e).isSome = true ∧ (hub id).taskQueue (tli 7 1) e = none ∧
    (que 15).queueFull (mget PQueue.none (que 15).queues 7) = false ∧ (que 16).queueFull (mget PQueue.none (que 16).queues 7) = true ∧
    (((que 0).queueMap 7).queueHas ((((que 0).queueMap 7).queue? 7).getD PQueue.none) = false) ∧
    (((que 1).queueMap 7).queueHas ((((que 1).queueMap 7).queue? 7).getD PQueue.none) = true) := by decide +kernel

theorem test_wit_range_units : (hub id).freeUnit 1 = some 0 ∧
    ({ hub id with units := (List.range 64).map fun k => (k, ⟨some 1, 0, 0, 1, 1⟩) } : State).freeUnit 1 = none := by decide +kernel

/-- The serving instructions: a sequence with a mailbox in each state, an empty and a filled ready list, one with a page list. -/
def mbx (st : MState) : Mbox := ⟨0, 0, ⟨1, 0x13C00⟩, st, 0, 0, 0, false, [], 0, false, [], 0⟩

theorem test_wit_serving : (hub id).cx.serv.seqN ≠ 0 ∧ w0.cx.serv.seqN = 0 ∧ (hub id).seqOk 1 0 = true ∧ (hub id).seqOk 1 2 = false ∧
    (hub fun x => { x with mboxes := [mbx .pending] }).cx.mbox 0 = some (mbx .pending) ∧ (hub id).cx.readyL = [] ∧ (hub id).cx.mstate 0 = .idle ∧
    (hub id).pinsOk 1 true [0, 0] = true ∧ (hub id).pinsOk 1 false [0] = false ∧ (hub id).pinsOk 1 true [2] = false ∧
    ((hub id).kvChecks 1 ⟨[], [], 0⟩ (kvItems (leBytes 8 (1 * 2 ^ 32)))).map (·.need) = some 1 ∧ 1 ≤ (hub id).cx.serv.kvFree ∧
    (hub id).poisonedVA 1 (VA.plus (hub id).cx.serv.kvFlVA (4 * (1 - 1))) (4 * 1) = false ∧ (hub id).cx.serv.pfxVA.toNat ≠ 0 :=
  ⟨by decide, by decide, by decide +kernel, by decide +kernel, by decide +kernel, by decide, by decide, by decide +kernel,
    by decide +kernel, by decide +kernel, by decide +kernel, by decide, by decide +kernel, by decide⟩

/-- The entry of a serving instruction with its probes made; one that still has them to make. -/
def served (i : Instr) (sc : List Word) : Entry := { task i sc with probed := 9 }

/-- Whether all its probes are made and all that it reads can be read. -/
def probed (e : Entry) (sp rd : List (VA × Nat)) : Bool :=
  decide ((sp.filter fun p => p.2 != 0).length ≤ e.probed - e.ranges.length) && readable (hub id) rd

theorem probed_of {e : Entry} {sp rd : List (VA × Nat)} (h : probed e sp rd = true) : Probed (hub id) e sp rd := by
  unfold probed at h
  rw [Bool.and_eq_true, decide_eq_true_eq] at h
  exact ⟨h.1, readable_of h.2⟩

theorem test_wit_seq_reads : Readable (hub id) ((hub id).cx.hdrSpans [0]) := readable_of (by decide +kernel)

def doneSpans : List (VA × Nat) :=
  ((hub id).seqHdr 1 0).listSpan 0 ((hub id).seqHdr 1 0).npg :: (hub id).cx.serv.cntSpans ((hub id).listed 1 0)
theorem test_wit_done_reads : Probed (hub id) (served (.tseqdone .decode (tli 0 0)) [0]) doneSpans doneSpans := probed_of (by decide +kernel)

theorem test_wit_pin_reads : Probed (hub id) (served (.tkvpin .decode (tli 0 0)) []) ((hub id).cx.serv.cntSpans [0, 0])
    ((hub id).cx.serv.cntSpans [0, 0]) := probed_of (by decide +kernel)

def oneItem : List KvItem := kvItems (leBytes 8 (1 * 2 ^ 32))
theorem test_wit_append_reads : Probed (hub id) (served (.tkvappend .decode (tli 0 0)) []) ((hub id).kvSpans 1 oneItem) ((hub id).kvReads 1 oneItem) :=
  probed_of (by decide +kernel)

theorem test_wit_append_headers : Readable (hub id) ((hub id).cx.hdrSpans (oneItem.map (·.seq))) := readable_of (by decide +kernel)

theorem test_wit_look_reads : Probed (hub id) (served (.tpfxlook .decode (tli 0 0)) []) [] ((hub id).lookReads 1 [5]) := probed_of (by decide +kernel)

theorem test_wit_insert_reads : Probed (hub id) (served (.tpfxins .decode (tli 0 0)) []) ((hub id).insTouches 1 [(5, 1)]).1
    ((hub id).insTouches 1 [(5, 1)]).2 := probed_of (by decide +kernel)

/-- An insert: its hash stands already; an invalid entry is free; all are pinned; the page's count is at its end; an entry is evicted. -/
theorem test_wit_insert : let all (p : Nat) : State := (List.range 8).foldl (fun s k => s.setPfx 1 (5 + k) ⟨100 + k, 1, p, 0, true⟩) (hub id)
    (all 1).pfxFind 1 105 = none ∧ (all 1).pfxSlot 1 5 = none ∧ (all 0).pfxSlot 1 5 = some 5 ∧ ((all 0).pfx 1 5).v = true ∧
    (hub id).pfxFind 1 5 = none ∧ (hub id).pfxSlot 1 5 = some 5 ∧ ((hub id).pfx 1 5).v = false ∧
    ((hub id).setPfx 1 6 ⟨5, 1, 0, 0, true⟩).pfxFind 1 5 = some 6 ∧ (((hub id).setKvCount 1 1 0 65535).kvCount 1 1).2 = 65535 := by decide +kernel

/-! ### The course of tasks -/

/-- A valid launch record of one tile: NLEV = 1, DOM = tile, COUNT = 1. -/
def rec0 : List Byte := leBytes 256 (2 ^ 16 + 0x105 * 2 ^ 576)

def launch : Instr := .tlaunch .decode ⟨0, 0, 0, 0x11000, 0, 1, []⟩

theorem test_wit_operand_probe : let e := { task (.tldy .decode (tli 0 0)) [] with st := .wait, probed := 0 }
    let s := hub fun x => { x with entries := [entry (.tnop .decode (tli 0 0)) .done, e] }
    s.cx.issues = true ∧ s.cx.entries = [entry (.tnop .decode (tli 0 0)) .done] ++ e :: [] ∧
    (entry (.tnop .decode (tli 0 0)) .done).toProbe = none ∧ e.toProbe = some (0, nth ⟨.IN, 0, ⟨0, 0⟩, 0, 0, false, none⟩ e.ranges 0) ∧
    (s.probeOperand 1 e 0 (nth ⟨.IN, 0, ⟨0, 0⟩, 0, 0, false, none⟩ e.ranges 0)).2 = true := by decide +kernel

def wLaunch (st : EntrySt) (l : List Byte) : State :=
  let s := hub fun x => { x with entries := [{ entry launch st with lrec := l, started := true }] }
  s.write .phys 0x1000 l 0xFFFF

theorem test_wit_launch_record : ((wLaunch .wait rec0).cx.toRead).isSome = true ∧ (wLaunch .wait rec0).cx.issues = true ∧
    (match ((wLaunch .wait rec0).vaRead 1 none 4 ⟨1, 0x11000⟩ 256 .r).2 with
      | .ok b => !b.any Prod.snd && recOk (b.map Prod.fst) 0
      | .error _ => false) = true ∧
    (match ((hub id).vaRead 1 none 4 ⟨1, 0x11000⟩ 256 .r).2 with
      | .ok b => !b.any Prod.snd && !recOk (b.map Prod.fst) 0
      | .error _ => false) = true ∧
    (match (({ hub id with physBad := [0x1000 / 8] } : State).vaRead 1 none 4 ⟨1, 0x11000⟩ 256 .r).2 with
      | .ok b => b.any Prod.snd
      | .error _ => false) = true := by decide +kernel

/-- One tile; or a die, which the partition does not hold. -/
def placings (lv : Nat) : Option Placing :=
  let e : Entry := { entry launch .place with lrec := leBytes 256 (2 ^ 16 + lv * 2 ^ 576) }
  let s : State := { State.reset with ctxs := [(1, { placeCtx with entries := [e] })] }
  (s.nextPlacing 1 [e]).map Prod.snd

theorem test_wit_placement : (match placings 0x105 with
      | some (.gang ps) => ps.map Prod.fst == [0]
      | _ => false) = true ∧
    (match placings 0x111 with
      | some .never => true
      | _ => false) = true ∧
    (hub id).nextPlacing 1 (hub id).cx.entries = none ∧ (hub id).tripped = false ∧ (hub id).cx.preempting = false ∧ (hub id).cx.swapped = false :=
  ⟨by decide +kernel, by decide +kernel, rfl, rfl, rfl, rfl⟩

theorem test_wit_tile_start : let s := { wLaunch .run rec0 with tiles := [(0, { Tile.reset with stat := .starting, ctx := 1, task := 7 })] }
    (s.tile 0).stat = .starting ∧ ((s.ctx 1).entry 7).isSome = true ∧
    ∃ u b, s.vaRead 1 none 4 (VA.ofNat (leNat ((rec0.drop 0x30).take 10))) (recShape rec0).2 .r = (u, .ok b) :=
  ⟨rfl, rfl, of_good (by decide +kernel)⟩

theorem test_wit_task_course : let e := entry (.tsety .decode (tli 5 0)) .wait
    (hub fun x => { x with entries := [e] }).cx.toIssue = some e ∧
    (let d := { entry (.tldy .decode (tli 0 0)) .run with started := true, res := [(3, 5)] }
     (hub fun x => { x with entries := [d] }).cx.entry 7 = some d ∧ (hub fun x => { x with entries := [d] }).workDone 1 d = true) ∧
    ((hub id).cx.st = .run ∧ (hub id).cx.fatal = none) ∧
    (hub fun x => { x with entries := [{ e with fault := some (0x82, 0x1F, 0) }] }).cx.issues = true ∧
    ((hub fun x => { x with entries := [{ e with fault := some (0x82, 0x1F, 0) }] }).stopGangs 1).2 = true ∧
    (hub fun x => { x with fatal := some (.access, 5, none) }).cx.st ≠ .dead := by decide +kernel

theorem test_wit_stream : (hub id).windowFull 1 = false ∧ ((hub id).cx.entries.any fun e => e.st == .fault) = false ∧
    (match (hub fun x => { x with dv := { x.dv with pos := 0x11000 } }).fetchTli 1 with
      | .words ws => (match decodeTli ws with
        | .instr _ => false
        | _ => true)
      | _ => false) = true ∧
    (match (hub fun x => { x with dv := { x.dv with pos := 0x12000 } }).fetchTli 1 with
      | .far _ => true
      | _ => false) = true := by decide +kernel

theorem test_wit_arbitration : let s := { hub fun x => { x with defDec := 1 } with turnDec := [1] }
    s.hasTurn true 1 = true ∧ ((hub id).nextTurn true).2.head? = some 1 ∧ (hub id).freeSlot = some 1 ∧
    (let s := hub fun x => { x with st := .queued, resident := false, part := [] }
     s.freeSlot = some 0 ∧ s.cx.st = .queued ∧ s.cx.destroying = false ∧ s.partFree 1 = true ∧ s.poolTakes 1 = true ∧ s.cx.swapped = false ∧
     s.faultedIdle 1 = none ∧ (s.setCtx 2 { Context.reset with st := .faulted, resident := true, part := [0] }).faultedIdle 1 = some 2 ∧
     (s.setCtx 2 { Context.reset with st := .faulted, resident := true, part := [0] }).partFree 1 = false) := by decide +kernel

/-! ### Commands -/

/-- Mailbox 0 with a submitted command on context 1. -/
def mailbox (opc : BitVec 16) (args : List Word) (payload : List Byte) : Mailbox :=
  ⟨opc, false, 1, args.zipIdx.map fun p => (p.2, p.1), .ok, true, [], payload.zipIdx.map fun p => (p.2, p.1), false⟩
def wm (opc : BitVec 16) (args : List Word) (payload : List Byte) (f : Context → Context) : State :=
  { hub f with mbxs := [(0, mailbox opc args payload)], submitted := [0], sec := { State.reset.sec with recovery := false } }

/-- R390: word 0x000 holds OPC, IEN and CTX; AUTH is 5 and RUN bit 8 of word 0x040; GO is not read. -/
theorem test_mailbox_get :
    ({ mailbox 0x51 [7] [] with ien := true, status := .auth } : Mailbox).get 0 = some 0x1_0001_0051 ∧
    ({ mailbox 0x51 [7] [] with status := .auth } : Mailbox).get 0x40 = some 0x105 ∧
    (mailbox 0x51 [7] []).get 8 = some 7 ∧ (mailbox 0x51 [7] []).get 0x80 = none := by decide

theorem test_wit_mailbox : let s := wm 0x51 [] [] id
    (s.mbx 0).run = true ∧ (s.mbx 0).waiting = false ∧ s.sec.recovery = false ∧ (hub id).mbx 0 = Mailbox.reset ∧ Mailbox.reset.run = false ∧
    assignedCommands.contains 0xFF = false ∧ mget? s.ctxs 2 = none ∧ (1 : BitVec 64).getLsbD 0 = true ∧ contextCommands.length = 28 ∧
    s.submitted.head? = some s.cur.sub.mb ∧ ({ s with submitted := [1, 0] } : State).submitted.head? ≠ some 0 ∧ State.reset.sec.recovery = true := by decide

theorem test_wit_create : let s := wm 0x01 [16, 0, 0x13000, 1, 0x10, 0x5000, 0] (leBytes 16 2) id
    let m := s.mbx 0
    m.va 2 = some ⟨1, 0x13000⟩ ∧ (arenasOf ((s.hostRead (m.arg 5) 832).take 768)).map arenasApart = some true ∧
    (tierOf ((s.hostRead (m.arg 5) 832).drop 768)).isSome = true ∧ s.freeHandle = some 2 ∧ m.arg 1 = 0 ∧ m.arg 6 = 0 ∧ bits (m.arg 4).toNat 4 4 ≠ 0 ∧
    bits (leNat (m.bytes 0 16)) 0 128 = bits (leNat (m.bytes 0 16)) 0 (32 * s.form.dies) ∧
    (∀ k ∈ maskClusters (leNat (m.bytes 0 16)), s.heldClusters.contains k = false) ∧ s.bufsInUse + 0 ≤ 262144 ∧
    ((s.setCtx 2 (newContext 0 16 [1] m ⟨1, 0x13000⟩ [] TierPol.reset)).newNode 2).isSome = true ∧
    (∃ k ∈ maskClusters 1, s.heldClusters.contains k = true) := by decide +kernel

theorem test_wit_context_state : (∃ x, SubmittedOn (wm 0x03 [0x10000, 1] [] id) 0x03 (mailbox 0x03 [0x10000, 1] []) 1 x) ∧
    (mailbox 0x03 [0x10000, 1] []).va 0 = some ⟨1, 0x10000⟩ ∧ (mailbox 0x05 [0, 0] []).va 0 = some ⟨0, 0⟩ ∧
    (∃ x, SubmittedOn (wm 0x05 [0, 0] [] fun x => { x with st := .faulted }) 0x05 (mailbox 0x05 [0, 0] []) 1 x ∧ x.st = .faulted) ∧
    (∃ x, SubmittedOn (wm 0x05 [0, 0] [] fun x => { x with st := .suspended }) 0x05 (mailbox 0x05 [0, 0] []) 1 x ∧ x.st = .suspended) ∧
    (∃ x, SubmittedOn (wm 0x04 [] [] id) 0x04 (mailbox 0x04 [] []) 1 x ∧ x.st = .run ∧ x.swapped = false) :=
  ⟨⟨_, ⟨rfl, rfl, rfl, rfl, by decide, rfl⟩, rfl, rfl, rfl⟩, rfl, rfl, ⟨_, ⟨⟨rfl, rfl, rfl, rfl, by decide, rfl⟩, rfl, rfl, rfl⟩, rfl⟩,
    ⟨_, ⟨⟨rfl, rfl, rfl, rfl, by decide, rfl⟩, rfl, rfl, rfl⟩, rfl⟩, ⟨_, ⟨⟨rfl, rfl, rfl, rfl, by decide, rfl⟩, rfl, rfl, rfl⟩, rfl, rfl⟩⟩

theorem test_wit_debug : let s := (hub id).setTile 5 { Tile.reset with ctx := 1, stat := .held, raised := some ⟨.brk, 0, none, false, 0, 0, 0, 0, 0, 0, none, none, .none⟩ }
    s.heldTiles 1 = [5] ∧ (s.tile 5).raised.isSome = true ∧ ((mailbox 0x40 [3, 0x10000] []).arg 0).toNat < 4 ∧
    4 ≤ ((mailbox 0x40 [4, 0x10000] []).arg 0).toNat ∧ (mailbox 0x40 [3, 0x10000] []).arg 1 ≠ 0 := by decide

/-- Two pages of 4 KiB at 0x1:0x30000 (PA 0x8000); a pinned page of 64 KiB at 0x1:0x40000 (PA 0x10000). -/
def mapped : State := (((hub id).mapPages 1 (3 + 3 * 2 ^ 52) 2 (2 ^ 64 + 0x30000) 0x8000).bind fun s =>
  s.mapPage 1 (2 ^ 64 + 0x40000) (3 + 2 * 2 ^ 4 + 2 ^ 52 + 2 ^ 57) 0x10000).getD (hub id)

theorem test_wit_map : ((hub id).mapPages 1 (3 + 3 * 2 ^ 52) 2 (2 ^ 64 + 0x30000) 0x8000).isSome = true ∧
    pteV (3 + 3 * 2 ^ 52) = true ∧ pteLeaf (3 + 3 * 2 ^ 52) = true ∧ pteFrame (3 + 3 * 2 ^ 52) = 0 ∧
    privateRange (2 ^ 64 + 0x30000) (2 * 4096) = true ∧ privateRange (2 ^ 64) 4096 = true ∧ privateRange (0x8000 * 2 ^ 64 - 4096) 4096 = true ∧
    (match mapped.toUnmap 1 2 (2 ^ 64 + 0x30000) with
      | .ok l => l.length == 2
      | .error _ => false) = true := by decide +kernel

theorem test_wit_replicate : (match mapped.leaf 1 (2 ^ 64 + 0x40000) with
      | some e => pteTier e == 0 && !pteRepl e && pageBase (2 ^ 64 + 0x40000) e == 2 ^ 64 + 0x40000 &&
          !mapped.sharedFrames (pteFrame e * 4096) (pageBytes (pteSize e)) &&
          (match mapped.takeCopies 1 (pteHS e) (pteFrame e * 4096) (pageBytes (pteSize e)) [1, 2, 3] with
            | some (u, fs) => !malformedPte u (pteWithCopies e fs) (leafLevel (pteSize (pteWithCopies e fs)))
            | none => false)
      | none => false) = true := by decide +kernel

theorem test_wit_shared_commands : (0x7FFF_F000 % 4096 = 0 ∧ 4096 + (2 ^ 64 - 4096) ≤ 2 ^ 64) ∧ (hub id).ranges = [] ∧ ((hub id).rangeFrame 1 4096).isSome = true ∧
    (({ hub (fun x => { x with nodeCap := 16 }) with ranges := [⟨1, 0x7FFF_F000, 4096, false, .host, 0⟩] } : State).installRange ⟨1, 0x7FFF_F000, 4096, false, .host, 0⟩).isSome = true ∧
    (let r : ShRange := ⟨1, 0x7FFF_F000, 4096, true, .host, ((hub id).rangeFrame 1 4096).getD 0⟩
     (({ (hub fun x => { x with nodeCap := 16 }).takeFrames r.frame 65536 0 1 with ranges := [r] } : State).installRange r).any fun u => ((u.done []).shAt 1 0x7FFF_F000).isSome) = true ∧
    (hub id).cntPA.isSome = true ∧ (((hub id).cntPA.bind fun p => p.1.mapPage 1 (2 ^ 64 + 0x50000) cntLeaf p.2).isSome = true) ∧ (hub id).cxmUnits = [] := by decide +kernel

def servPayload : List Byte :=
  leBytes 128 (2 ^ 64 + 0x13000 + 2 * 2 ^ 128 + (2 ^ 64 + 0x15000) * 2 ^ 192 + 4 * 2 ^ 328 + 2 * 2 ^ 384 + (2 ^ 64 + 0x13100) * 2 ^ 448 +
    (2 ^ 64 + 0x13200) * 2 ^ 576)

theorem test_wit_serving_commands : (match servOf servPayload with
      | some v => (hub fun x => { x with st := .suspended }).servPages 1 v
      | none => false) = true ∧
    1 < (hub id).cx.serv.seqN ∧ ((hub id).seqHdr 1 1).npg = 0 ∧
    (∃ u y, (hub id).vaWrite 1 none 4 (VA.plus ((hub id).cx.seqVA 1) 8) ((List.replicate 40 0).map fun b => (b, false)) true = (u, .ok y)) ∧
    ((hub id).setPfx 1 63 ⟨1, 2, 65534, 0, true⟩).pfx 1 63 = ⟨1, 2, 65534, 0, true⟩ ∧ 63 < 2 ^ (hub id).cx.serv.pfxLog :=
  ⟨by decide +kernel, by decide +kernel, by decide +kernel, of_good (by decide +kernel), by decide +kernel, by decide⟩

theorem test_wit_mailboxes : (hub id).freeGust = some 0 ∧ (hub id).onPages 1 ⟨1, 0x13C00⟩ 64 pinnedExtw = true ∧
    ((hub fun x => { x with mboxes := [mbx .idle] }).gustDeliver 0 3840 0 [1] true).isSome = true ∧
    (hub fun x => { x with mboxes := [mbx .wakefail] }).cx.mbox 0 = some (mbx .wakefail) ∧
    ((que 0).queue? 7).isSome = true ∧ (que 0).queueBusy 1 7 = false ∧
    (let s := { que 0 with tiles := [(0, { Tile.reset with ctx := 1, stat := .running, groups := [{ Group.lockstep with
        waits := [⟨.qpop 7 0, 0, 0, 0, .qpop 0 1 2⟩] }] })] }
     s.queueBusy 1 7 = true) ∧
    (hub id).onPages 1 ⟨1, 0x13800⟩ (PQueue.none.imageBytes) (fun e => pinnedExtw e && ptePR e) = true ∧ (wUnits.port 17).ctx = some 1 ∧
    (wUnits.port 0).ctx = none := by decide +kernel

/-- An image of one task-stream section of 16 bytes at load offset 0. -/
def image : List Byte :=
  leBytes 112 (0x4F45_5242 + 2 ^ 32 + 2 ^ 48 + 0x40 * 2 ^ 128 + 16 * 2 ^ 256 + (8 + 0x60 * 2 ^ 64 + 16 * 2 ^ 128) * 2 ^ 512)

theorem test_wit_image : imageOk image = true ∧ imageOk [] = false ∧ fileNum image 0x18 8 = 0 ∧ imageSigned [] image = false ∧ featsAgree image = true ∧
    ((sectionsOf image).find? fun q => q.type == 8).isSome = true ∧
    ((hub fun x => { x with st := .created }).loadSections 1 image ⟨1, 0x11000⟩ (sectionsOf image)).2 = true := by decide +kernel

/-- A debug token of chip 0 under a key whose fused hash is `fusedHash`: the base point itself is the key. -/
def token : List Byte := leBytes 128 0x234e9c4d6b029e9a63efddff4732b61b8abd52f57d55d79912b5ca64616e5ff5f63e11c54e12285cb615b0660baca33e1eafd447e2b287efaa46d63634e026e8e810bd0cfeca7fdbe34ff17ee7a347886b3fc1b7813aa6a2ff45cf68f0641c1d9c4ab3a71ef6891498cd082694d298a600000000000000000000000000000000
def fusedHash : List Byte := leBytes 48 0xd1321676ab9fa4f8d617b614ead449a49838d2d14d6ebd93ac1e468f774e6e609c4ab3a71ef6891498cd082694d298a6
def secured : Security := { State.reset.sec with chipId := 0, keyHashes := [fusedHash], slots := [⟨token, 5, []⟩, ⟨[], 0, []⟩], svn := 5 }

theorem test_wit_security : secured.tokenOk token = true ∧ State.reset.sec.tokenOk token = false ∧ secured.signed token = true ∧ secured.signed [] = false ∧
    secured.boots (nth ⟨[], 0, []⟩ secured.slots 0) = true ∧ secured.pendingBoot = false ∧
    (nth ⟨[], 0, []⟩ State.reset.sec.slots 1).bytes.length < 112 := by decide +kernel

theorem test_wit_waiting_commands : let s := { hub fun x => { x with destroying := true } with tiles := [] }
    s.destroyDone 1 = true ∧ ({ s with tiles := [(0, { Tile.reset with ctx := 1, stat := .running })] } : State).destroyDone 1 = false ∧
    (hub fun x => { x with st := .draining }).cx.drained = true ∧ (wm 0x51 [] [] id).sec.updating = none := by decide +kernel

/-! ### The hub's events -/

theorem test_wit_walks : let s : State := { hub id with dies := [(0, { Die.reset with missQ := [(1, 2 ^ 64 + 0x11000)] })], invQ := [⟨1, none⟩] }
    (s.die 0).missQ = (1, 2 ^ 64 + 0x11000) :: [] ∧ s.invQ = ⟨1, none⟩ :: [] ∧ (hub id).invQ = [] ∧ ((hub id).die 0).missQ = [] ∧
    s.tlbHit (.shared 0) 1 (2 ^ 64 + 0x11000) = none ∧
    (match walk s 1 (2 ^ 64 + 0x11000), walk s 1 (2 ^ 64 + 0x12000) with
      | .entry e, .entry f => pteTier e == 0 && pteTier f != 0
      | _, _ => false) = true ∧
    (match walkOn s 0 1 (2 ^ 64 + 0x7000_0000) with
      | .entry _ => false
      | _ => true) = true ∧
    ({ s with tlb := [⟨.shared 0, 1, 2 ^ 64 + 0x11000, 3, 0, none⟩] } : State).tlbHit (.shared 0) 1 (2 ^ 64 + 0x11000) ≠ none := by decide +kernel

theorem test_wit_collapse : let r : CollapseRec := ⟨1, 2 ^ 64 + 0x40000, 0, false, 0xE, []⟩
    let s := { hub id with cur := { Cur.reset with sub := ⟨1, 2 ^ 64 + 0x40000, 0, 0, 0⟩ }, collapses := [r, { r with begun := true }] }
    (s.collapses.find? fun q => q.ctx == s.cur.sub.ctx && q.va == s.cur.sub.n && !q.begun) = some r ∧
    s.collapses[1]? = some { r with begun := true } ∧ r.acks ||| ((1 : BitVec 4) <<< 0) = 0xF ∧ r.acks ||| ((1 : BitVec 4) <<< 1) ≠ 0xF := by decide

/-- The first frame of LPM may swap into HBM; one in HBM may not. -/
def wHot : State := { State.reset with swth := 1, epoch := 5, time := 5 * 18000 }

theorem test_wit_swaps : wHot.epoch ≠ 0 ∧ ({ wHot with frames := [⟨0, 65536, 0, 1, true⟩] } : State).replicaAt 0 = true ∧
    wHot.swapAllowed (groupOfPA lpmBase).1 (groupOfPA lpmBase).2 = true ∧ wHot.swapAllowed 0 0 = false ∧
    mget? wHot.hot (lpmBase / 65536) = none ∧ wHot.epochAt + wHot.epoch ≤ wHot.ticks ∧
    ({ wHot with time := 5 * 18000 - 1 } : State).ticks < wHot.epochAt + wHot.epoch ∧ wHot.copies < 32 ∧ wHot.demoQ = [] ∧
    (wHot.remapOf 0).busy = false ∧ nth 0 (wHot.remapOf 0).loc 1 ≠ 0 := by decide +kernel

/-- A context of w0 whose tier policy allows CXM, with a queued promotion of its far page and a queued demotion. -/
def wTier : State := hub fun x => { x with tier := { TierPol.reset with cxmen := true } }

theorem test_wit_fuller : (match wTier.leaf 1 (2 ^ 64 + 0x11000) with
      | some e => pteTier e == 0 && wTier.eligible 1 (pageBase (2 ^ 64 + 0x11000) e) e && (wTier.findUnits .cxm (pageBytes (pteSize e) / 4096)).isSome
      | none => false) = true ∧
    wTier.farAvailable 1 .cxm = true ∧ wTier.copies < 32 ∧ wTier.demoQ = [] ∧ wTier.swapQ = [] ∧ (3 : Nat) ≤ ({ wTier with fullerTurn := 3 } : State).fullerTurn ∧
    (({ wTier with fullerTurn := 1 } : State).startPromotion ⟨1, 2 ^ 64 + 0x12000, .cxm, none, []⟩).isSome = true ∧
    32 ≤ ({ wTier with transit := List.replicate 32 ⟨1, 0, .demoting, 3, .cxm, 0, 0, true, 0⟩ } : State).copies ∧ (wTier.ctx 1).mboxes = [] := by decide +kernel

theorem test_wit_gust : (hub fun x => { x with mboxes := [mbx .becalmed] }).slotOwner 0 = some (1, mbx .becalmed) ∧ (hub id).slotOwner 0 = none ∧
    ((1 : BitVec 64).toNat % 2 ^ 32 = 1 ∧ (0 : BitVec 64).toNat % 2 ^ 32 ≠ 1) ∧ ((hub id).port 17).failed = false ∧
    (let s := hub fun x => { x with mboxes := [{ mbx .becalmed with sn := 7, skip1 := [5] }], tier := { TierPol.reset with d1 := 0, d2 := 1 } }
     (s.becalmed 1 7).map (fun b => (s.dueD1 1 b, s.dueD2 1 b, s.dueAgain1 b)) = some (true, false, true) ∧
     (({ s with time := 18000 } : State).becalmed 1 7).map (fun b => ({ s with time := 18000 } : State).dueD2 1 b) = some true) := by decide +kernel

theorem test_wit_outside : let s : State := { hub id with ranges := [⟨1, 0x4000, 4096, true, .host, 0x8000⟩] }
    (s.ranges.find? fun r => r.devMem && r.base ≤ 0x4FFF && 0x4FFF < r.base + r.len) = some ⟨1, 0x4000, 4096, true, .host, 0x8000⟩ ∧
    s.unseen = [] ∧ (∀ r ∈ s.ranges, r.devMem = true → ¬(r.base ≤ 0x5000 ∧ 0x5000 < r.base + r.len)) ∧
    (que 0).queue? 8 = none ∧ ((que 0).queue? 7).isSome = true ∧ (wUnits.port 17).openFor 1 = true ∧
    (mget ([] : List Byte) (wUnits.port 17).rx 255).length + 65536 ≤ 65536 ∧ (hub id).jtagReaches 0 = false ∧
    (let u : State := { hub id with sec := { (hub id).sec with debugOpen := true } }
     u.jtagReaches (2 ^ 27 + 0x3FFFF) = true ∧ (opsParts (2 ^ 27 + 0x3FFFF)).win < 2 ∧ u.jtagReaches (6 * 2 ^ 27 + 0xFFF) = true ∧
     2 < (opsParts (6 * 2 ^ 27 + 0xFFF)).win) := by decide +kernel

/-- A context that is being pre-empted with one frozen tile, its gang, and a free shadow store; one that is swapped out. -/
def wSwap : State := hub fun x => { x with
  preempting := true, entries := [{ entry launch .run with lrec := rec0, started := true }], gangs := [⟨7, [0], [1], true, false, []⟩] }

theorem test_wit_preemption : let s := wSwap.setTile 0 { Tile.reset with stat := .frozen, ctx := 1, task := 7 }
    s.ctxTiles 1 0 = [0] ∧ ([0].all s.swapReady = true) ∧ s.idleQuiet s.cx 0 = true ∧ (s.die 0).shadow = none ∧ s.cx.fatal = none ∧
    (wSwap.setTile 0 { Tile.reset with stat := .running, ctx := 1, task := 7 }).swapReady 0 = false ∧
    s.cx.gangs.map (·.sn) = [(s.tile 0).task] := by decide +kernel

theorem test_wit_partition_resume : let s := wSwap.updCtx 1 fun x => { x with part := [], swapped := true, preempting := false }
    s.tripped = false ∧ s.cx.swapped = true ∧ s.cx.resident = true ∧ s.cx.st ≠ .draining ∧ s.cx.st ≠ .dead ∧ s.partFree 1 = true ∧
    (s.replace 1 [] s.cx.gangs).map Prod.snd = [[0]] := by decide +kernel

theorem test_wit_reclaim :
    let other : Context := { Context.reset with st := .run, resident := true, part := [5], pclass := 3 }
    let s := (hub fun x => { x with st := .queued, resident := false, part := [], want := [5] }).setCtx 2 other
    s.waitsForPart 1 = true ∧ (s.ctxs.any fun p => p.2.preempting) = false ∧ s.victim 1 = some 2 ∧ mrising s.ctxs = true := by decide +kernel

theorem test_wit_platform : State.reset.snapDue = false ∧ ({ State.reset with time := 18000 } : State).snapDue = true ∧
    ({ State.reset with dies := [(0, { Die.reset with temp := 95 * 16 })] } : State).stepsDown 0 = true ∧ State.reset.stepsDown 0 = false ∧
    ({ State.reset with dies := [(0, { Die.reset with step := 3 })], time := 180_000_000 } : State).stepsUp 0 = true ∧
    ({ State.reset with dies := [(3, { Die.reset with temp := 115 * 16 })] } : State).tripDue = true ∧ State.reset.tripDue = false := by decide +kernel

/-! ### Forms beside the plain ones -/

/-- A LOOP's record with poison, and with a reserved bit; a body whose end cannot be read, for a LOOP and for a BRKL. -/
theorem test_wit_loop_stops : let u (s : State) : State := (s.touchBanks 0 64).holdFor 6
    (u (wRecord.updTile 0 fun x => { x with spadBad := [7] })).poisoned (.spad 0) 0 64 = true ∧
    ¬leNat (((u (wRecord.updTile 0 fun x => { x with spad := x.spad ++ [(48, 64)] })).bytes (.spad 0) 0 64 |>.drop 48).take 8) < 64 ∧
    good ((u wRecord).codeRead 0 (wRecord.cur.addr + BitVec.ofNat 64 (0x1000 * 4)) 4) = false ∧
    good ((wLoop.setTile 0 { wLoop.tile 0 with seqs := List.replicate 8 ⟨placeVA, false, [⟨1, 1, 2, 1, 0, 0x14000, false⟩]⟩ }).codeRead 0 0x14000 4) =
      false := by decide +kernel

/-- A FORK beside a store of its group that has yet to be performed, and one whose descriptor lies on no page. -/
theorem test_wit_fork_waits : (wt fun x => { x with mems := [⟨.st 8 8 5, 0, 1, false, 0, 2, 0⟩] }).memsOut = true ∧ wFork.memsOut = false ∧
    wFork.grp.waits = [] ∧ good (w0.codeRead 0 (placeVA / 64 * 64 + (0x100 : BitVec 22).signExtend 64 * 64) 64) = false := by decide +kernel

/-- The three groups of a tile at one JOIN, their partitions with a gap; two groups of a set whose member with slot C has halted. -/
def wAll (halt : Bool) (set : Nat) : State :=
  let s := wJoin ⟨21, 30, 16, 20⟩
  s.setTile 0 { s.tile 0 with groups := (s.tile 0).groups.map fun g =>
    let m : BitVec 8 := BitVec.ofNat 8 (set - 2 ^ g.num)
    { g with halted := halt && g.num == 0, waits := if halt && g.num == 0 then [] else [⟨.join m 5, 4, 0, 0, .join 0 m 5⟩] } }

theorem test_wit_join_whole : let x := (wAll false 7).tile 0
    (x.group 0).joinOf = some (6, 5) ∧ x.stat = .running ∧ x.joinReady 7 5 = true ∧ unionPart (x.groups.filterMap (·.part)) = none ∧
    (∀ h ∈ x.groups, (7 : BitVec 8).getLsbD h.num = true) ∧ (x.groups.find? fun h => h.hasSlot 0 && !h.halted) = some (x.group 0) := by
  decide +kernel

theorem test_wit_join_halted : let x := (wAll true 3).tile 0
    let ms := x.groups.filter fun h => (3 : BitVec 8).getLsbD h.num
    (x.group 1).joinOf = some (1, 5) ∧ x.joinReady 3 5 = true ∧ unionPart (ms.filterMap (·.part)) = some ⟨10, 30, 0, 20⟩ ∧
    (ms.find? fun h => h.hasSlot 0 && !h.halted) = none ∧ (ms.find? fun h => !h.halted) = some (x.group 1) := by decide +kernel

/-- An earlier SETC of the bit that others do not see yet, one that they see, and none. -/
theorem test_wit_setc_unseen : let s (v : Option Nat) : State := wt fun x => { x with cs := 1, clk := 3, setcs := [⟨0, 1, 0, false, v⟩] }
    (∀ v ∈ [none, some 4, some 3],
      ((s v).here.cs.getLsbD 0 = true ∧ ∃ r ∈ (s v).here.setcs, r.c = 0 ∧ (s v).here.clk < r.vis.getD ((s v).here.clk + 1)) ↔ v ≠ some 3) := by
  decide

theorem test_wit_forked_return : let s := (wHandler 0).updTile 0 fun x => { x with lockstep := false }
    s.qualified 0 = true ∧ s.here.outer.isSome = true ∧ s.here.lockstep = false := by decide

/-- A write of ASP3, VMODE, FMODE, HRET, and one delivered from a latch. -/
theorem test_wit_csr_lands : (∀ n ∈ [4, 0x32, 0x33, 0x106], ((wp [pCsr n 0x1_0003]).tile 0).dueTimed = some (pCsr n 0x1_0003)) ∧
    ((wp [{ pCsr 1 5 with latch := true }]).tile 0).dueTimed = some { pCsr 1 5 with latch := true } := by decide

/-- Bundles that fail one check each, in the order of the checks, in a forked tile, and one that passes. -/
def wBundle (h : Nat) (l : List (Nat × Syl)) : Except (Cause × Nat) (List (Nat × Instr)) :=
  checkBundle ((wJoin ⟨21, 30, 16, 20⟩).tile 0) (((wJoin ⟨21, 30, 16, 20⟩).tile 0).group 0) ⟨headerOf h, l⟩

def causeOf (r : Except (Cause × Nat) (List (Nat × Instr))) : Option (Cause × Nat) := match r with
  | .ok _ => none
  | .error e => some e

theorem test_wit_bundle_checks : let syl (w : Nat) : Syl := ⟨BitVec.ofNat 32 (2 ^ 31 + w), none⟩
    [wBundle 1 [], wBundle 0x5000 [], wBundle 0xC00 [], wBundle 0 [], wBundle (2 ^ 27) [(4, syl 0)], wBundle (2 ^ 24) [(1, syl 0x1FFF_FFFF)],
     wBundle (2 ^ 24) [(1, syl 0b0_00_1000000_0000011_0000100_1_0_111111)], wBundle (2 ^ 24) [(1, syl 0x2940_8206)],
     wBundle (2 ^ 23) [(0, syl 0b0_00_0000111_0000000000000000000000)], wBundle (2 ^ 23) [(0, syl 0)]].map causeOf =
    [some (.illegal, 0), some (.illegal, 0), some (.illegal, 0), some (.bundle, 0), some (.bundle, 0), some (.illegal, 1), some (.bundle, 1),
     some (.bundle, 1), some (.bundle, 0), none] := by decide +kernel

/-- The first group of w0 ready at a bundle that lies on no page, and at one whose one syllable is no instruction. -/
theorem test_wit_failing_bundles : let at0 (s : State) : State := { s with freeCtr := s.freeCtr + 1, slotsDec := 0, slotsIss := 0 }
    let off := wt fun x => { x with seqs := List.replicate 8 ⟨0x14000, false, []⟩ }
    let odd := { State.reset.placeSyl ⟨0x9FFF_FFFF, none⟩ with cxmLen := 0x10000 }
    (off.agenda = [] ∧ off.tripped = false ∧ mkeys off.tiles = 0 :: [] ∧ (off.tile 0).portOrder = Group.lockstep :: [] ∧
      (off.tile 0).ready Group.lockstep = true) ∧
    (match ((at0 off).fetchBundle 0 ((off.tile 0).groupSeq Group.lockstep).addr).2 with
      | .fails c va _ => decide (c = .fetch ∧ va = 2 ^ 64 + 0x14000)
      | .bundle _ => false) = true ∧
    (odd.agenda = [] ∧ odd.tripped = false ∧ mkeys odd.tiles = 0 :: [] ∧ (odd.tile 0).portOrder = Group.lockstep :: [] ∧
      (odd.tile 0).ready Group.lockstep = true) ∧
    (match (at0 odd).fetchBundle 0 ((odd.tile 0).groupSeq Group.lockstep).addr with
      | (s1, .bundle b) => decide (causeOf (checkBundle ((s1.atBundle 0 Group.lockstep b).tile 0) Group.lockstep b) = some (.illegal, 0))
      | _ => false) = true := by decide +kernel

/-- Two tiles of a gang whose fatal causes came in one cycle, the second with the lower GRANK. -/
def wFatal (c0 c1 : Nat) : State :=
  let s := wFrozen .illegal 0 17
  let x := s.tile 0
  let at' (y : Tile) (n : Nat) : Tile := { y with raised := y.raised.map fun r => { r with cycle := n } }
  (s.setTile 0 (at' { x with grank := 1 } c0)).setTile 1 (at' { x with grank := 0 } c1)

theorem test_wit_fatal_gang : let s := wFatal 3 3
    s.gangTiles (s.tile 0).ctx (s.tile 0).task = [0, 1] ∧ (s.tile 0).fatalNow = true ∧ (s.tile 1).fatalNow = true ∧
    (∀ j ∈ [0, 1], ((s.tile j).raised.map (·.cycle)) = some 3) ∧
    (∀ j ∈ [0, 1], j ≠ 1 → (s.tile j).fatalNow = true → (s.tile 1).grank.toNat < (s.tile j).grank.toNat) := by decide +kernel

/-- A FETCH and a PROBE that met the far page of w0, one whose page is there now, one whose page has gone. -/
def wFar (c : Cause) (va : Nat) : State :=
  let s := wFrozen c 0 17
  s.setTile 0 { s.tile 0 with
    raised := some ⟨c, 0, none, false, 0, 0, 0, 0, placeVA, va, none, none, .far⟩
    groups := [{ Group.lockstep with nextIssue := 1, waits := [⟨.probe (VA.ofNat va) 8 false, 0, 0, 0, .nop 0⟩] }] }

theorem test_wit_far_causes : ((wFar .fetch (2 ^ 64 + 0x12000)).tile 0).toFirmware = true ∧ ((wFar .probe (2 ^ 64 + 0x12000)).tile 0).toFirmware = true ∧
    ((wFar .probe (2 ^ 64 + 0x12000)).tile 0).probeOf 0 = some (⟨1, 0x12000⟩, 8, false) ∧ ((wFar .probe 0).ctx 1).preempting = false ∧
    (let met (va : Nat) (k : Acc) : Option Bool := match ((wFar .probe va).translateAll 1 none 4 k false (vaPieces (VA.ofNat va) 8)).2 with
      | .ok _ => none
      | .error (.far _, _) => some true
      | .error _ => some false
     met (2 ^ 64 + 0x12000) .r = some true ∧ met (2 ^ 64 + 0x11000) .rw = none ∧ met (2 ^ 64 + 0x14000) .x = some false) := by decide +kernel

/-- TSIGQ and TWAITQ with an operand of eight bytes that can be read, that has poison, that may be written; a notification. -/
theorem test_wit_queue_forms : let e := task (.tsigq .decode (tli 7 0)) [7, 5]
    let s := ({ que 1 with ctxs := mput (que 1).ctxs 1 { (que 1).ctx 1 with entries := [e] } } : State)
    (s.taskQueue (tli 7 0) e).isSome = true ∧ tliForm (tli 7 0) = 0 ∧ tliForm (tli 7 2) = 2 ∧
    (match (s.vaRead 1 none 4 (s.opVA e 0) 8 .r).2, (({ s with physBad := [0x1000 / 8] } : State).vaRead 1 none 4 (s.opVA e 0) 8 .r).2 with
      | .ok a, .ok b => !a.any Prod.snd && b.any Prod.snd
      | _, _ => false) = true ∧ mayWrite s (s.opVA e 0) 8 false = true := by decide +kernel

theorem test_wit_gusts_due : ({ hub id with agenda := [(⟨1, 0, 0, 0, 0⟩, .gustWrite 0 1)] } : State).gustsDue = true ∧ (hub id).gustsDue = false ∧
    (hub id).cx.serv.kvN ≤ bits (5 + 4 * 2 ^ 64) 64 32 ∧ bits (5 + 2 ^ 96) 96 32 ≠ 0 := by decide

/-- Sound tiles: of reset, and of a forked tile in whose handler another fork stands. -/
theorem test_wit_sound : GroupsSound ((wJoin ⟨21, 30, 16, 20⟩).tile 0).groups ∧ ((wJoin ⟨21, 30, 16, 20⟩).tile 0).QueuesSound ∧
    (wq .D false (List.replicate 16 (cmd (.tagclr 0 1) [] [0])) |>.tile 0).QueuesSound ∧ ¬GroupsSound ((wJoin ⟨21, 30, 16, 20⟩).tile 0).groups.tail := by
  unfold GroupsSound Tile.QueuesSound; decide

theorem test_wit_jtag_registers : let u : State := { hub id with sec := { (hub id).sec with debugOpen := true } }
    u.jtagReaches (2 * 2 ^ 27 + 0x11) = true ∧ (opsParts (2 * 2 ^ 27 + 0x11)).win = 2 := by decide

/-- A SHR command that waits its turn at the head, and the command behind it. -/
theorem test_wit_servable : let s : State :=
      { wm 0x51 [] [] id with mbxs := [(0, mailbox 0x51 [] []), (1, mailbox 0x1A [] [])], submitted := [1, 0], ownQ := [none] }
    none ∈ s.ownQ ∧ 0 ∈ s.servable ∧ 1 ∈ s.servable ∧ 0 ∉ ({ s with ownQ := [] } : State).servable ∧
    (s.submitted.filter fun k => s.shCmd k == s.shCmd 0).head? = some 0 := by decide +kernel

/-- A table of the hub's on a page that may be written, and on none. -/
theorem test_wit_hub_store : good ((hub id).vaWrite 1 none 4 ⟨1, 0x13000⟩ [(0, false)] true) = true ∧
    (match (hub id).vaWrite 1 none 4 ⟨1, 0x7000_0000⟩ [(0, false)] true with
      | (u, .error _) => (u.ctx 1).fatal.isNone
      | _ => false) = true ∧
    good ((hub id).vaRead 1 none 4 ((hub id).cx.seqVA 1) 64 .r) = true ∧ good ((hub id).vaRead 1 none 4 ((hub id).cx.serv.pfxAt 63) 16 .r) = true ∧
    ((hub id).ctx 1).serv.kvUnder (2 ^ 64 + 0x11000) 4096 = [] := by decide +kernel

/-- Whether an engine's program ends well, with its value. -/
theorem does_of {m : EngM α} {s : State} (h : ends (m.run.run s) = true) : ∃ v u, Does m s v u := by
  unfold Does
  cases e : m.run.run s with
  | mk r u =>
    cases r with
    | ok x => exact ⟨x, u, rfl⟩
    | error _ => rw [e] at h; simp [ends] at h

def el (c : Nat) : Elem := ⟨c, [], 0, false⟩

/-- A pop, a run of one, a table's element, a K-step of one product, the reads and writes of an accumulator. -/
theorem test_wit_programs : (∃ e u, Does (popElem 0 31) (wStrm (strm 0 0 1)) e u) ∧ (∃ es u, Does (popRun 0 31 1) (wStrm (strm 0 0 1)) es u) ∧
    (∃ c u, Does (tableRead 0 (chainArgs (List.replicate 16 0) false) 32 5) w0 c u) ∧
    (∃ x u, Does (mmaStep 0 0 (mmaArgs (List.replicate 16 0)) 2 2 false [[el 0x3F80_0000]] [[el 0x4000_0000]]) w0 x u) ∧
    (∃ x u, Does (pushElem 0 31 5 []) (wStrm (strm 1 0 0)) x u) :=
  ⟨does_of (by decide +kernel), does_of (by decide +kernel), does_of (by decide +kernel), does_of (by decide +kernel), does_of (by decide +kernel)⟩

/-- Each kind of format, NaNs among the accumulators and not, a stream of blocks, finite values with a largest and a second. -/
theorem test_wit_program_values : fmtInt 0x0A = some (8, true) ∧ fmtFloat 0x0A = none ∧ fmtFloat 2 = some (ctFmt 0) ∧
    fmtFloat 3 ≠ some (ctFmt 0) ∧ (fp32.val 0x7FC0_0000).isNaN = true ∧ (fp32.val 0x3F80_0000).isNaN = false ∧
    ((wStrm { strm 1 0 0 with desc := [w64 (4 + 0x18 * 8)] }).tile 0).streamFmt 31 = 0x18 ∧
    fmtBlock 0x18 = some ⟨32, 1, 2⟩ ∧ 64 ≤ (dotArgs []).d := by decide +kernel

theorem test_wit_finite : let xs : List Val := [.fin false 1 0 false, .fin true 3 0 false]
    (∀ x ∈ xs, ∃ n k e, x = .fin n k e false) ∧ xs[1]? = some (.fin true 3 0 false) ∧ (∀ x ∈ xs, x.abs.cmp (Val.fin true 3 0 false).abs ≠ some .gt) ∧
    (∃ j, j ≠ 1 ∧ xs[j]? = some (.fin false 1 0 false)) ∧ (Val.fin true 3 0 false).isZero = false ∧
    (∀ (j : Nat) x, j < 1 → xs[j]? = some x → x.abs.cmp (Val.fin true 3 0 false).abs = some .lt) := by
  refine ⟨by simp, rfl, by decide, ⟨0, by decide, rfl⟩, rfl, fun j x hj hx => ?_⟩
  obtain rfl : j = 0 := by omega
  obtain rfl : Val.fin false 1 0 false = x := by simpa using hx
  decide

/-! ### Encoding and steps -/

theorem test_wit_encoding : (Instr.amo 3 63 127 8 true true true 3).WellFormed ∧
    encodeSyl (.amo 3 63 127 8 true true true 3) = some ⟨0b0_11_1001010_111111_1111111_1000_1_1_1_11, none⟩ := by decide

theorem test_wit_task_encoding : (Instr.tsety .decode ⟨63, 0, 0, 5, 6, 0, []⟩).WellFormed ∧
    (Instr.tsety .decode ⟨63, 0, 0, 5, 6, 0, []⟩).tli? = some (8, .decode, ⟨63, 0, 0, 5, 6, 0, []⟩) ∧
    (encodeTli (.tsety .decode ⟨63, 0, 0, 5, 6, 0, []⟩)).isSome = true := by decide

/-- StepOrder: a step of the list, a slot of the hub, a tick. -/
theorem test_wit_step_order : ({ w0 with agenda := [(Subject.none, .badcmd)] } : State).agenda = (Subject.none, .badcmd) :: [] ∧ w0.agenda = [] ∧
    (w0.nextSlot).2 = [] ∧ (let s := { hub fun x => { x with defDec := 1 } with turnDec := [1] }
     s.turnDec = 1 :: [] ∧ s.hasTurn true 1 = true) ∧
    (match (hub fun x => { x with dv := { x.dv with pos := 0x11000 } }).fetchTli 1 with
      | .words _ => true
      | _ => false) = true := by decide +kernel

/-- StepRunsTheDecodedInstruction: the bundle that w0 is about to issue, of one NOP. -/
theorem test_wit_step_runs : w0.agenda = [] ∧ w0.slotsDec = 0 ∧ w0.slotsIss = 0 ∧ w0.tripped = false ∧ mkeys w0.tiles = 0 :: [] ∧
    (w0.tile 0).portOrder = Group.lockstep :: [] ∧ (w0.tile 0).ready Group.lockstep = true ∧
    (match ({ w0 with freeCtr := w0.freeCtr + 1, slotsDec := 0, slotsIss := 0 } : State).fetchBundle 0 ((w0.tile 0).groupSeq Group.lockstep).addr with
      | (s1, .bundle b) => b.syls == [(0, ⟨0x8000_0000, none⟩)] && b.h.rsvd == 0 && b.h.scope ≤ 4 && b.h.iqlev != 6 && b.formed &&
          slotOk b 0 0 ⟨0x8000_0000, none⟩ (.nop 0) && crossOk [.nop 0] && (s1.atBundle 0 Group.lockstep b).breakAt 0 Group.lockstep == none &&
          !(s1.atBundle 0 Group.lockstep b).sylStalls 0 (.nop 0) && ((s1.atBundle 0 Group.lockstep b).sylCollapse (.nop 0)).isNone && ((s1.atBundle 0 Group.lockstep b).tile 0).portsOk [(0, .nop 0)]
      | _ => false) = true := by decide +kernel

/-- TilesStaySound. -/
theorem test_wit_tiles_sound : TilesSound State.reset ∧ ∃ t, step State.reset = .next t :=
  ⟨⟨fun _ h => absurd h List.not_mem_nil, fun _ h => absurd h List.not_mem_nil⟩, _, rfl⟩

/-- MemoryStaysCanonical. -/
theorem test_wit_canonical : MemoryCanonical State.reset ∧ ∃ t, step State.reset = .next t := ⟨MemoryCanonical.reset, _, rfl⟩

theorem test_decodes_nop : decodeSyl ⟨0x8000_0000, none⟩ = .ok (.nop 0) := rfl

/-! ## Single steps, their results worked out from the rules of spec/ -/

/-- The machine after one step of a word placed at reset, as f changes it first. -/
def ran (nbits w : Nat) (f : Tile → Tile) : State :=
  let s := State.reset.withFetchWord nbits w
  match step (s.setTile 0 (f (s.tile 0))) with
  | .next t => t
  | _ => State.reset

/-- The destinations and values in flight after it. -/
def flight (nbits w : Nat) (l : SMap Word) : List (Dest × Word) :=
  ((ran nbits w fun x => { x with xs := l }).tile 0).pend.map fun p => (p.dest, p.val)

/-- li x1, −1; add x1, x10, x3 wraps; sra by 65; mulh of −1 and 2, signed and not. -/
theorem test_step_integer : flight 32 0b0_00_0100011_0000001_111111111111111 [] = [(.x 1, 0xFFFF_FFFF_FFFF_FFFF)] ∧
    flight 32 0x0400_8A06 [(3, 1), (10, 0xFFFF_FFFF_FFFF_FFFF)] = [(.x 1, 0)] ∧
    flight 32 0b0_00_0011011_0000001_0000010_0000011_0 [(2, 0x8000_0000_0000_0000), (3, 65)] = [(.x 1, 0xC000_0000_0000_0000)] := by decide +kernel

/-- cmp c3, x20, x21, LT of −1 and 1 holds. -/
theorem test_step_compare : flight 32 0x0846_50AA [(20, 0xFFFF_FFFF_FFFF_FFFF), (21, 1)] = [(.c 3, 1)] := by decide +kernel

/-- trap 5 freezes the tile: cause TRAP, restartable, CODE 5 (R372). -/
theorem test_step_trap : let x := (ran 32 0b0_00_0001010000000_0000000000000101 id).tile 0
    x.stat = .frozen ∧ (mget 0 x.frame 0x100).toNat / 2 ^ 48 = 5 ∧ (mget 0 x.frame 0x100).toNat / 256 % 2 = 1 := by decide +kernel

/-- brx to 0x20004 sends every sequencer there. -/
theorem test_step_branch : ((ran 32 0b0_00_00000110_0000100_00000000000000 fun x => { x with xs := [(4, 0x20004)] }).tile 0).seqs.map (·.addr) =
    List.replicate 8 0x20004 := by decide +kernel

/-- st.d of x3 at x4, and ld.b sign-extended (R310). -/
theorem test_step_memory : (let s := ran 32 0b0_00_1000111_0000011_0000100_0_0_000001 fun x => { x with xs := [(3, 0x0102_0304_0506_0708), (4, 0xFFFF0)] }
     s.byte (.spad 0) 0xFFFF8 = 8 ∧ s.byte (.spad 0) 0xFFFFF = 1 ∧ s.byte (.spad 0) 0 = 0) ∧
    ((ran 32 0b0_00_1000000_0000011_0000100_1_0_000000 fun x => { x with spad := [(0, 0x80)] }).tile 0).pend.map (fun p => (p.dest, p.val)) =
      [(.x 3, 0xFFFF_FFFF_FFFF_FF80)] := by decide +kernel

end Sys2Proof.Tests
end

section
/-! SUPPORT. Integer and address instructions: what their operations compute (R297 to R299), and what a performed syllable that
writes one destination answers. -/
namespace Sys2Proof.Machine
open Sys2Proof.Claims

/-! ## A performed syllable with one destination -/

/-- R168: a group that may write the one destination has the effect. -/
theorem State.within_singleton {s : State} {d : Dest} (hd : s.here.mayWrite s.cur.group d = true) (k : State → State) :
    s.within [d] k = k s := by
  rcases s.within_spec [d] k with ⟨_, e⟩ | ⟨_, hmem, hno, _⟩
  · exact e
  · rw [List.mem_singleton.1 hmem, hd] at hno
    cases hno

/-- R168, R173: a performed syllable that writes one `x` register answers its result in flight. -/
theorem gives_of_exec_eq_writeX {i : Instr} {s : State} {q : BitVec 2} {d : BitVec 7} {v : Word} {lat : Nat}
    (h : Acts s q [.x d]) (hi : exec i s = .next (if s.qualified q then s.writeX d v lat else s)) :
    Gives i s (s.result (.x d) v lat) := by
  obtain ⟨hq, hd⟩ := h
  rw [Gives, hi, if_pos hq, State.writeX, State.within_singleton (hd _ (List.mem_singleton_self _))]

/-- R168, R173: a performed syllable that writes one condition bit answers its result in flight, 1 or 0. -/
theorem gives_of_exec_eq_writeC {i : Instr} {s : State} {q : BitVec 2} {c : BitVec 5} {v : Bool} {lat : Nat}
    (h : Acts s q [.c c]) (hi : exec i s = .next (if s.qualified q then s.writeC c v lat else s)) :
    Gives i s (s.result (.c c) (if v then 1 else 0) lat) := by
  obtain ⟨hq, hc⟩ := h
  have hv : w64 (b2n v) = if v then 1 else 0 := by cases v <;> rfl
  rw [Gives, hi, if_pos hq, State.writeC, State.within_singleton (hc _ (List.mem_singleton_self _)), hv]

/-! ## Counts, and the two halves of a constant (R297) -/

/-- The leading zeros of a word: the word lies below 2^(64 − n), and not below the next lower power of two. -/
theorem leadingZeros_spec (a : Word) :
    leadingZeros a ≤ 64 ∧ a.toNat < 2 ^ (64 - leadingZeros a) ∧ (leadingZeros a < 64 → 2 ^ (63 - leadingZeros a) ≤ a.toNat) := by
  unfold leadingZeros
  split
  case isTrue hz => simp [hz]
  case isFalse hz =>
    have hn : a.toNat ≠ 0 := fun e => hz (BitVec.eq_of_toNat_eq e)
    have hlog : Nat.log2 a.toNat < 64 := (Nat.log2_lt hn).2 a.isLt
    refine ⟨by omega, ?_, fun _ => ?_⟩
    · rw [show 64 - (63 - Nat.log2 a.toNat) = Nat.log2 a.toNat + 1 by omega]
      exact Nat.lt_log2_self
    · rw [show 63 - (63 - Nat.log2 a.toNat) = Nat.log2 a.toNat by omega]
      exact Nat.log2_self_le hn

/-- The long LI with HI = 1 puts the immediate above the low half of the register. -/
theorem immHigh_add_low (imm : BitVec 32) (x : Word) :
    (imm.zeroExtend 64 <<< 32) + (x &&& 0xFFFFFFFF) = BitVec.ofNat 64 (imm.toNat * 2 ^ 32 + x.toNat % 2 ^ 32) := by
  have low : (x &&& 0xFFFFFFFF).toNat = x.toNat % 2 ^ 32 := Nat.and_two_pow_sub_one_eq_mod x.toNat 32
  have high : (imm.zeroExtend 64 <<< 32).toNat = imm.toNat * 2 ^ 32 := by
    have := imm.isLt
    simp [Nat.shiftLeft_eq]
    omega
  apply BitVec.eq_of_toNat_eq
  rw [BitVec.toNat_add, low, high, BitVec.toNat_ofNat]

/-! ## The predicates of CMP (R298) -/

/-- R298's table of predicates, by the numbers that the words stand for. -/
def cmpPredicate (p : BitVec 3) (x y : Word) : Bool :=
  match p.toNat with
  | 0 => decide (x.toNat = y.toNat)
  | 1 => decide (x.toNat ≠ y.toNat)
  | 2 => decide (x.toInt < y.toInt)
  | 3 => decide (y.toInt ≤ x.toInt)
  | 4 => decide (x.toNat < y.toNat)
  | 5 => decide (y.toNat ≤ x.toNat)
  | 6 => decide ((x &&& y).toNat ≠ 0)
  | _ => decide ((x &&& y).toNat = 0)

theorem beq_eq_decide_toNat (x y : Word) : (x == y) = decide (x.toNat = y.toNat) := by
  rw [Bool.eq_iff_iff, beq_iff_eq, decide_eq_true_iff, BitVec.toNat_inj]

theorem bne_eq_decide_toNat (x y : Word) : (x != y) = decide (x.toNat ≠ y.toNat) := by
  rw [bne, beq_eq_decide_toNat, decide_not]

theorem not_slt_eq_decide_toInt (x y : Word) : (!x.slt y) = decide (y.toInt ≤ x.toInt) := by
  rw [BitVec.slt_eq_decide, ← decide_not, decide_eq_decide, Int.not_lt]

theorem not_ult_eq_decide_toNat (x y : Word) : (!x.ult y) = decide (y.toNat ≤ x.toNat) := by
  rw [BitVec.ult_eq_decide, ← decide_not, decide_eq_decide, Nat.not_lt]

/-- The model's predicates are those of R298's table. -/
theorem cmpHolds_eq_cmpPredicate (p : BitVec 3) (x y : Word) : cmpHolds p x y = cmpPredicate p x y := by
  unfold cmpHolds cmpPredicate
  generalize p.toNat = n
  match n with
  | 0 => exact beq_eq_decide_toNat x y
  | 1 => exact bne_eq_decide_toNat x y
  | 2 => exact BitVec.slt_eq_decide
  | 3 => exact not_slt_eq_decide_toInt x y
  | 4 => exact BitVec.ult_eq_decide
  | 5 => exact not_ult_eq_decide_toNat x y
  | 6 => exact bne_eq_decide_toNat (x &&& y) 0
  | _ + 7 => exact beq_eq_decide_toNat (x &&& y) 0

/-! ## Fields, bit by bit (R299) -/

theorem getLsbD_lowMask (n k : Nat) : (lowMask n).getLsbD k = (decide (k < 64) && decide (k < n)) := by
  rw [lowMask, w64, BitVec.getLsbD_ofNat, Nat.testBit_two_pow_sub_one]

theorem fieldW_pos (f : Word) : 0 < fieldW f := Nat.succ_pos _

theorem fieldW_le (f : Word) : fieldW f ≤ 64 := Nat.mod_lt _ (by decide)

theorem fieldSX_eq_decide (f : Word) : fieldSX f = decide (f.toNat / 4096 % 2 = 1) := Nat.testBit_eq_decide_div_mod_eq

/-- The field of EXT before its extension: the bits from LSB on, W of them. -/
theorem getLsbD_shifted_and_lowMask (a : Word) (lsb n : Nat) {k : Nat} (hk : k < 64) :
    ((a >>> lsb) &&& lowMask n).getLsbD k = (decide (k < n) && a.getLsbD (lsb + k)) := by
  rw [BitVec.getLsbD_and, BitVec.getLsbD_ushiftRight, getLsbD_lowMask, decide_eq_true hk, Bool.true_and, Bool.and_comm]

/-- R299: EXT's value holds the field, and above it the field's top bit where SX = 1 and the field ends within the register. -/
theorem getLsbD_extField (a f : Word) {k : Nat} (hk : k < 64) :
    (extField a f).getLsbD k =
      if k < fieldW f then a.getLsbD (fieldLsb f + k)
      else fieldSX f && decide (fieldLsb f + fieldW f ≤ 64) && a.getLsbD (fieldLsb f + fieldW f - 1) := by
  have hpos := fieldW_pos f
  have htop : fieldW f - 1 < 64 := by have := fieldW_le f; omega
  have hsum : fieldLsb f + (fieldW f - 1) = fieldLsb f + fieldW f - 1 := by omega
  have top : ((a >>> fieldLsb f) &&& lowMask (fieldW f)).getLsbD (fieldW f - 1) = a.getLsbD (fieldLsb f + fieldW f - 1) := by
    rw [getLsbD_shifted_and_lowMask a _ _ htop, decide_eq_true (by omega), Bool.true_and, hsum]
  simp only [extField, top]
  split
  case isTrue hsx =>
    simp only [BitVec.getLsbD_or, BitVec.getLsbD_not, getLsbD_shifted_and_lowMask a _ _ hk, getLsbD_lowMask, hk, hsx]
    by_cases hin : k < fieldW f <;> simp [hin]
  case isFalse hsx =>
    rw [getLsbD_shifted_and_lowMask a _ _ hk, Bool.eq_false_iff.2 hsx]
    by_cases hin : k < fieldW f <;> simp [hin]

/-- R299: INS's value holds the low bits of the source in the field, and the destination's bits elsewhere. -/
theorem getLsbD_insField (d a f : Word) {k : Nat} (hk : k < 64) :
    (insField d a f).getLsbD k =
      if fieldLsb f ≤ k ∧ k < fieldLsb f + fieldW f then a.getLsbD (k - fieldLsb f) else d.getLsbD k := by
  have mask : (lowMask (fieldW f) <<< fieldLsb f).getLsbD k = decide (fieldLsb f ≤ k ∧ k < fieldLsb f + fieldW f) := by
    rw [BitVec.getLsbD_shiftLeft, getLsbD_lowMask, Bool.eq_iff_iff]
    simp only [Bool.and_eq_true, Bool.not_eq_true', decide_eq_true_iff, decide_eq_false_iff_not]
    omega
  have shifted (hl : fieldLsb f ≤ k) : (a <<< fieldLsb f).getLsbD k = a.getLsbD (k - fieldLsb f) := by
    rw [BitVec.getLsbD_shiftLeft, decide_eq_true hk, decide_eq_false (Nat.not_lt.2 hl)]; rfl
  simp only [insField, BitVec.getLsbD_or, BitVec.getLsbD_and, BitVec.getLsbD_not, mask, hk]
  by_cases hin : fieldLsb f ≤ k ∧ k < fieldLsb f + fieldW f
  · simp [hin, shifted hin.1]
  · simp [hin]

/-! ## The obligations -/

/-- Settles O1: every integer instruction is a syllable that writes one `x` register, and its value is the model's operation on
the operands; only CLZ and the long LI with HI = 1 need a fact about theirs. -/
theorem integerResults : Obligations.IntegerResults := by
  unfold Obligations.IntegerResults
  intro s q d a b imm h
  have writes {i : Instr} {v : Word} {lat : Nat}
      (hi : exec i s = .next (if s.qualified q then s.writeX d v lat else s)) : Gives i s (s.result (.x d) v lat) :=
    gives_of_exec_eq_writeX h hi
  have clz : Gives (.clz q d a) s (s.result (.x d) (w64 (leadingZeros (s.readX a))) 1) := writes rfl
  have liHi : Gives (.liHi q d imm) s (s.result (.x d) ((imm.zeroExtend 64 <<< 32) + (s.readX d &&& 0xFFFFFFFF)) 1) := writes rfl
  rw [immHigh_add_low] at liHi
  exact ⟨
    -- ADD, SUB, MUL, each with its long form; MULH signed and unsigned; MADD
    writes rfl, writes rfl, writes rfl, writes rfl, writes rfl, writes rfl, writes rfl, writes rfl, writes rfl,
    -- AND, OR, XOR, ANDN
    writes rfl, writes rfl, writes rfl, writes rfl, writes rfl, writes rfl, writes rfl, writes rfl,
    -- SHL, SHR, SRA, ROTR
    writes rfl, writes rfl, writes rfl, writes rfl, writes rfl, writes rfl, writes rfl, writes rfl,
    -- MIN, MAX, MINU, MAXU
    writes rfl, writes rfl, writes rfl, writes rfl, writes rfl, writes rfl, writes rfl, writes rfl,
    -- POPC, CLZ, LI, ADDI
    writes rfl, ⟨_, clz, leadingZeros_spec _⟩, fun _ => writes rfl, writes rfl, liHi, fun _ => writes rfl, writes rfl⟩

/-- R298: CMP and SEL. -/
theorem compareAndSelectResults : CompareAndSelectResults := by
  unfold CompareAndSelectResults
  intro s q a b imm
  refine ⟨fun c p h => ?_, fun d c neg h => ?_⟩
  · have short : Gives (.cmp q c a b p) s (s.result (.c c) (if cmpHolds p (s.readX a) (s.readX b) then 1 else 0) 1) :=
      gives_of_exec_eq_writeC h rfl
    have long : Gives (.cmpLong q c a p imm) s (s.result (.c c) (if cmpHolds p (s.readX a) (immOf imm) then 1 else 0) 1) :=
      gives_of_exec_eq_writeC h rfl
    rw [cmpHolds_eq_cmpPredicate] at short long
    exact ⟨short, long⟩
  · have sel : Gives (.sel q d a c neg) s (s.result (.x d) (if condHolds (s.readC c) neg then s.readX a else s.readX d) 1) :=
      gives_of_exec_eq_writeX h rfl
    exact sel

/-- R299: EXT and INS. -/
theorem fieldExtractAndInsertResults : FieldExtractAndInsertResults := by
  unfold FieldExtractAndInsertResults
  intro s q d a b h
  have ext : Gives (.ext q d a b) s (s.result (.x d) (extField (s.readX a) (s.readX b)) 1) := gives_of_exec_eq_writeX h rfl
  have ins : Gives (.ins q d a b) s (s.result (.x d) (insField (s.readX d) (s.readX a) (s.readX b)) 1) :=
    gives_of_exec_eq_writeX h rfl
  refine ⟨⟨_, ext, fun k hk => ?_⟩, ⟨_, ins, fun k hk => getLsbD_insField _ _ _ hk⟩⟩
  rw [getLsbD_extField _ _ hk, fieldSX_eq_decide, ← Bool.decide_and]
  rfl

/-- Settles O2: the predicates of CMP are those of R298's table, and EXT and INS are right at each bit. -/
theorem compareSelectAndFieldResults : Obligations.CompareSelectAndFieldResults :=
  ⟨compareAndSelectResults, fieldExtractAndInsertResults⟩

end Sys2Proof.Machine
end
